-- ==== Sys2Proof/Word.lean ====
section
/-! DEFINITION. The words of the DXU-1. -/

namespace Sys2Proof

/-- A byte. -/
abbrev Byte := BitVec 8
/-- A 16-bit word. -/
abbrev W16 := BitVec 16
/-- A 32-bit word. -/
abbrev W32 := BitVec 32
/-- A 64-bit word: a register, a peg. -/
abbrev W64 := BitVec 64
/-- A 64-byte block: a command packet, a header flit; byte i is bits 8i+7 to 8i (little-endian). -/
abbrev Block := BitVec 512

end Sys2Proof
end

