-- ==== Sys2Proof/Syntax.lean ====
section
/-! DEFINITION. The commands and events the DXU-1 takes, one constructor for each row of the opcode table, with the operands each carries. -/

namespace Sys2Proof

/-- PCIe function: 0 is the physical function, 1 to 8 the virtual functions (R514). -/
abbrev Fn := Fin 9
/-- Work-queue or completion-queue number (Table Cmd-1). -/
abbrev QueueIx := Fin 1024
/-- Peg index. -/
abbrev PegIx := Fin 16384
/-- Partition number (R411). -/
abbrev Part := Fin 8
/-- Matrix array number. -/
abbrev ArrayIx := Fin 256
/-- Loft bay number (R367). -/
abbrev BayIx := Fin 32
/-- Fabric port in the numbering of R341: 0 to 14 bent, 15 to 22 cube, 23 to 32 hall. -/
abbrev PortIx := Fin 33

/-- A command of a work queue, named by its queue and its ring slot (free-running index, R27). -/
structure CmdRef where
  /-- the work queue -/
  q : QueueIx
  /-- the free-running slot index -/
  slot : BitVec 32
deriving DecidableEq, Repr

/-- A Tlaha packet or a frame: its 64-byte header (byte i in bits 8i+7 to 8i) and its payload bytes. -/
structure Packet where
  /-- the header flit -/
  hdr : BitVec 512
  /-- the payload, lowest byte first -/
  payload : List Byte
deriving DecidableEq, Repr

/-- What a PCIe completion for a host read brings (R559, R560). -/
inductive HostData where
  /-- the bytes asked for -/
  | bytes (bs : List Byte)
  /-- completion error, completion timeout or poisoned completion -/
  | failed
deriving DecidableEq, Repr

/-- Where a register write goes: a byte of BAR0, or a byte of the doorbell pages of BAR2. -/
inductive RegAddr where
  /-- the registers -/
  | bar0 (off : BitVec 29)
  /-- the doorbell pages -/
  | bar2 (off : BitVec 29)
deriving DecidableEq, Repr

/-- A BAR4 access: a read of `n` bytes or a write of the given bytes. -/
inductive HostAccess where
  /-- read of n bytes -/
  | read (n : Nat)
  /-- write of these bytes -/
  | write (bs : List Byte)
deriving DecidableEq, Repr

/-- The commands and events of the block: one constructor for each row of the opcode table. -/
inductive Instr where
  /-- `WQ_PRODUCER_INDEX` (R29). A doorbell write of a work-queue producer index is accepted, ignored or dropped; a dropped index sets doorbell_err and halts the queue. -/
  | wqProducerIndex (fn : Fn) (q : QueueIx) (v : BitVec 32)
  /-- `CQ_CONSUMER_INDEX` (R33). A doorbell write of a completion-queue consumer index is accepted, or dropped with cq_err set. -/
  | cqConsumerIndex (fn : Fn) (q : QueueIx) (v : BitVec 32)
  /-- `COMMAND_FETCH` (R30). The device fetches announced command slots in ring order, at most 64 slots ahead of the issue point. -/
  | commandFetch (q : QueueIx)
  /-- `COMMAND_GRANT` (R44). The command at the issue point is granted in the first arbiter cycle in which its waits, SERIAL, max_inflight, completion entry and engine conditions all hold. -/
  | commandGrant (q : QueueIx)
  /-- `WAIT_TIMEOUT` (R43). A command at the issue point that has not met its waits within wait_timeout completes TIMEOUT. -/
  | waitTimeout (q : QueueIx)
  /-- `COMMAND_COMPLETE` (R49). A command ends: its writes become visible, then its signal is applied, its completion record written and an MSI-X message sent when called for. -/
  | commandComplete (c : CmdRef)
  /-- `CQ_IRQ_TIME` (R59). irq_time elapses after the oldest unsignalled record and one MSI-X message is sent. -/
  | cqIrqTime (q : QueueIx)
  /-- `NOP` (R37). Command that does nothing beyond its waits and signal. -/
  | nop (c : CmdRef)
  /-- `PEG_ADD` (R38). Command that adds a 64-bit addend to a peg modulo 2^64 and returns the old value. -/
  | pegAdd (c : CmdRef)
  /-- `PEG_SET` (R38). Command that sets a peg and returns the old value. -/
  | pegSet (c : CmdRef)
  /-- `PEG_READ` (R37). Command that returns a peg's value at grant. -/
  | pegRead (c : CmdRef)
  /-- `CANCEL` (R46). Command that cancels, at fetch, every fetched and ungranted command of the target queue carrying the target tag. -/
  | cancel (c : CmdRef)
  /-- `WQ_CFG_WRITE` (R58). A write of WQ_CFG is accepted or dropped under the enable rule, and enable starts or stops fetch and issue. -/
  | wqCfgWrite (fn : Fn) (q : QueueIx) (v : BitVec 64)
  /-- `CQ_CFG_WRITE` (R60). A write of CQ_CFG changes moderation and enable, clears cq_err or rec_err, or is dropped under the enable rule. -/
  | cqCfgWrite (fn : Fn) (q : QueueIx) (v : BitVec 64)
  /-- `PEG_VALUE_WRITE` (R62). A PEG_VALUE write sets a peg as one of the cycle's updates, ordered under R39. -/
  | pegValueWrite (fn : Fn) (p : PegIx) (v : BitVec 64)
  /-- `COPY` (R378). Command that copies, adds (ADD64) or takes the maximum (MAX64) of 64-byte granules between spaces. -/
  | copy (c : CmdRef)
  /-- `PLANK_ALLOC` (R383). Command that allocates and zero-fills the NONE planks of a range, all or nothing against quota. -/
  | plankAlloc (c : CmdRef)
  /-- `PLANK_FREE` (R377). Command that frees the planks of a range. -/
  | plankFree (c : CmdRef)
  /-- `TIER_MOVE` (R379). Command that demotes, promotes, cleans or drops the flash copy of the planks of a range. -/
  | tierMove (c : CmdRef)
  /-- `PLANK_FLASH_WRITE_DONE` (R379). A plank's flash write completes and its map entry changes, or a written MOVING plank's demotion is cancelled. -/
  | plankFlashWriteDone (p : Part) (plank : BitVec 26)
  /-- `PLANK_STAT` (R377). Command that writes the plank map entries of a range to a destination. -/
  | plankStat (c : CmdRef)
  /-- `PLANK_DIGEST` (R380). Command that computes and stores the CRC-64/NVME digest of one plank. -/
  | plankDigest (c : CmdRef)
  /-- `SEQ_JOIN` (R390). Command that joins a KV sequence, to be admitted at a step boundary. -/
  | seqJoin (c : CmdRef)
  /-- `SEQ_LEAVE` (R392). Command that marks a sequence to leave at the next step boundary. -/
  | seqLeave (c : CmdRef)
  /-- `SEQ_STEP` (R392). Command that processes the step boundary: leaves, reserves, suspensions and joins. -/
  | seqStep (c : CmdRef)
  /-- `PLANE_PRUNE` (R152). Command that compresses dense blocks to 2:4 form, choosing kept positions by prune_group. -/
  | planePrune (c : CmdRef)
  /-- `PLANE_APPLY` (R155). Command that compresses dense blocks using the index codes of a mask tensor. -/
  | planeApply (c : CmdRef)
  /-- `PLANE_EXPAND` (R154). Command that expands compressed blocks to dense form with zeros at dropped positions. -/
  | planeExpand (c : CmdRef)
  /-- `KLAUNCH` (R116). Command that fetches and checks an image when needed and starts the program on the named arrays. -/
  | klaunch (c : CmdRef)
  /-- `KPRELOAD` (R113). Command that makes an image resident on the named arrays. -/
  | kpreload (c : CmdRef)
  /-- `END` (R120). Instruction with which an array finishes the launch. -/
  | seqEnd (a : ArrayIx)
  /-- `SET` (R120). Instruction that loads an immediate into a scalar register. -/
  | seqSet (a : ArrayIx)
  /-- `ADD` (R120). Instruction that adds an immediate to a scalar register modulo 2^32. -/
  | seqAdd (a : ArrayIx)
  /-- `BNZ` (R120). Instruction that decrements a nonzero scalar register and branches. -/
  | bnz (a : ArrayIx)
  /-- `WAITPEG` (R120). Instruction that holds issue until a peg condition holds. -/
  | waitpeg (a : ArrayIx)
  /-- `WAITPEG_TIMEOUT` (R120). A WAITPEG timeout expires, the array stops and the launch completes TIMEOUT. -/
  | waitpegTimeout (a : ArrayIx)
  /-- `SIGPEG` (R120). Instruction that adds to or sets a peg after every earlier write of the program is visible. -/
  | sigpeg (a : ArrayIx)
  /-- `SETKEY` (R120). Instruction that sets the stochastic-rounding key. -/
  | setkey (a : ArrayIx)
  /-- `SCRIBE` (R135). Instruction at a scribe mark: passes, or with a preemption request pending saves state and stops. -/
  | scribe (a : ArrayIx)
  /-- `GATHER` (R128). Instruction that waits to collect a batch of vectors from a gather ring. -/
  | gather (a : ArrayIx)
  /-- `GATHER_DEADLINE` (R128). A GATHER deadline expires and the batch fires with the entries present. -/
  | gatherDeadline (a : ArrayIx)
  /-- `TLOAD` (R134). Instruction that loads a VLU lookup table from the bench. -/
  | tload (a : ArrayIx)
  /-- `FILL` (R121). Instruction that streams vectors through one weight tile and drains working sums or outputs. -/
  | fill (a : ArrayIx)
  /-- `LMATMUL` (R125). Instruction that folds a product of any shape into a fill run of FILLs. -/
  | lmatmul (a : ArrayIx)
  /-- `VLD` (R132). VLU instruction that loads a register from the bench. -/
  | vld (a : ArrayIx)
  /-- `VST` (R132). VLU instruction that stores a register to the bench. -/
  | vst (a : ArrayIx)
  /-- `VADD` (R132). VLU add, saturating. -/
  | vadd (a : ArrayIx)
  /-- `VSUB` (R132). VLU subtract, saturating. -/
  | vsub (a : ArrayIx)
  /-- `VMIN` (R132). VLU signed minimum. -/
  | vmin (a : ArrayIx)
  /-- `VMAX` (R132). VLU signed maximum. -/
  | vmax (a : ArrayIx)
  /-- `VCMP` (R132). VLU compare giving 1 or 0. -/
  | vcmp (a : ArrayIx)
  /-- `VSEL` (R132). VLU select. -/
  | vsel (a : ArrayIx)
  /-- `VAND` (R132). VLU bitwise and. -/
  | vand (a : ArrayIx)
  /-- `VOR` (R132). VLU bitwise or. -/
  | vor (a : ArrayIx)
  /-- `VXOR` (R132). VLU bitwise exclusive or. -/
  | vxor (a : ArrayIx)
  /-- `VMUL16` (R132). VLU exact 16 x 16 multiply. -/
  | vmul16 (a : ArrayIx)
  /-- `VMUL32` (R132). VLU 32 x 32 multiply, saturating. -/
  | vmul32 (a : ArrayIx)
  /-- `VSHL` (R132). VLU left shift, saturating. -/
  | vshl (a : ArrayIx)
  /-- `VSHR` (R132). VLU right shift by rshift_rne or rshift_sr. -/
  | vshr (a : ArrayIx)
  /-- `VALIGN` (R132). VLU alignment of 64-bit lane pairs by align. -/
  | valign (a : ArrayIx)
  /-- `VBLEN` (R132). VLU bit length of the absolute value. -/
  | vblen (a : ArrayIx)
  /-- `VLUT` (R133). VLU lookup in one table with index clamping. -/
  | vlut (a : ArrayIx)
  /-- `VBSUM` (R132). VLU sum across each 32-lane block. -/
  | vbsum (a : ArrayIx)
  /-- `VBMAX` (R132). VLU maximum across each 32-lane block. -/
  | vbmax (a : ArrayIx)
  /-- `VREQ` (R132). VLU requantization of one block under R77. -/
  | vreq (a : ArrayIx)
  /-- `VMOV` (R132). VLU register move. -/
  | vmov (a : ArrayIx)
  /-- `DVT_LAYER_LOAD` (R160). Command that loads a layer record into the layer table. -/
  | dvtLayerLoad (c : CmdRef)
  /-- `DVT_TABLE_LOAD` (R162). Command that loads a normalisation table. -/
  | dvtTableLoad (c : CmdRef)
  /-- `DVT_SCORE` (R166). Command that scores and selects tokens and writes candidate records. -/
  | dvtScore (c : CmdRef)
  /-- `DVT_PLAN_LOAD` (R181). Command that loads a credit plan for a layer. -/
  | dvtPlanLoad (c : CmdRef)
  /-- `DVT_AVAIL_SET` (R187). Command that sets or clears the out and quarantined bits of an expert. -/
  | dvtAvailSet (c : CmdRef)
  /-- `DVT_ADMIT` (R190). Command that admits the choices of candidate records against credits and writes admission records. -/
  | dvtAdmit (c : CmdRef)
  /-- `DVT_LAYOUT_LOAD` (R203). Command that loads one layer into the staged layout table. -/
  | dvtLayoutLoad (c : CmdRef)
  /-- `DVT_LAYOUT_SWITCH` (R206). Command that makes the staged layout table current under a new epoch with an optional grace list. -/
  | dvtLayoutSwitch (c : CmdRef)
  /-- `GRACE_EXPIRY` (R208). The grace time of the last layout switch expires. -/
  | graceExpiry (p : Part)
  /-- `DVT_RECV_OPEN` (R215). Command that opens a receive window for a layer and step. -/
  | dvtRecvOpen (c : CmdRef)
  /-- `DVT_ROUTE` (R214). Command that scores, selects, admits, sorts and dispatches a routing step. -/
  | dvtRoute (c : CmdRef)
  /-- `DISPATCH_UNIT` (R216). A whole dispatch unit arrives at a host and is served, refused or discarded. -/
  | dispatchUnit (u : Packet)
  /-- `RETURN_UNIT` (R219). A whole return unit arrives at the source and is written to the return buffer or discarded. -/
  | returnUnit (u : Packet)
  /-- `UNIT_PACKET` (R563). A unit packet arrives and is assembled into a unit or forwarded by a relay. -/
  | unitPacket (k : Packet)
  /-- `DVT_RETURN` (R218). Command that sends expert outputs back from the host. -/
  | dvtReturn (c : CmdRef)
  /-- `DVT_COMBINE` (R220). Command that sums the returned outputs of each token in ascending expert index. -/
  | dvtCombine (c : CmdRef)
  /-- `COMBINE_TIMEOUT` (R222). A DVT_COMBINE timeout expires, missing returns count as unserved and outputs are written. -/
  | combineTimeout (c : CmdRef)
  /-- `PRL_GROUP_LOAD` (R229). Command that loads a Purlin group record. -/
  | prlGroupLoad (c : CmdRef)
  /-- `PRL_GROUP_DROP` (R229). Command that drops a Purlin group. -/
  | prlGroupDrop (c : CmdRef)
  /-- `PRL_ALLTOALL` (R234). Command that performs an equal all-to-all. -/
  | prlAlltoall (c : CmdRef)
  /-- `PRL_ALLTOALLV` (R249). Command that performs an unequal all-to-all under send and receive tables. -/
  | prlAlltoallv (c : CmdRef)
  /-- `PRL_ALLREDUCE` (R236). Command that reduces every member's source and leaves the result on every member. -/
  | prlAllreduce (c : CmdRef)
  /-- `PRL_REDUCE_SCATTER` (R234). Command that reduces and leaves each member its slice. -/
  | prlReduceScatter (c : CmdRef)
  /-- `PRL_ALLGATHER` (R234). Command that gathers every member's source on every member. -/
  | prlAllgather (c : CmdRef)
  /-- `PRL_BROADCAST` (R234). Command that copies the root's source to every member. -/
  | prlBroadcast (c : CmdRef)
  /-- `POST` (R242). A POST message arrives and grants receive space, or is held in the early-post table or answered RETRY. -/
  | post (k : Packet)
  /-- `DATA` (R241). A DATA message arrives and lands in reserved space. -/
  | data (k : Packet)
  /-- `PARTIAL` (R236). A PARTIAL message of 64-bit sums arrives and is added. -/
  | partialSums (k : Packet)
  /-- `EXP` (R235). An EXP message of block exponents arrives and is reduced by MAX. -/
  | exponents (k : Packet)
  /-- `REFUSE` (R249). A REFUSE message arrives and both members complete QUOTA for the pair. -/
  | refuse (k : Packet)
  /-- `RETRY` (R242). A RETRY message arrives for a discarded POST. -/
  | retry (k : Packet)
  /-- `POST_RETRY_INTERVAL` (R242). The retry interval of a refused POST expires and the POST is resent. -/
  | postRetryInterval (c : CmdRef)
  /-- `RESULT` (R245). A switch RESULT message returns the sum of a switch chunk. -/
  | result (k : Packet)
  /-- `DONE` (R252). A DONE message arrives acknowledging a stage's sent bytes. -/
  | done (k : Packet)
  /-- `COLLECTIVE_TIMEOUT` (R253). A collective's timeout expires and the member stops sending and completes TIMEOUT. -/
  | collectiveTimeout (c : CmdRef)
  /-- `REM_PUT` (R349). Command that writes local data into a peer window in request packets. -/
  | remPut (c : CmdRef)
  /-- `REM_GET` (R349). Command that reads a peer window into local memory. -/
  | remGet (c : CmdRef)
  /-- `REM_FADD` (R348). Command that fetch-adds a 64-bit word of a peer window. -/
  | remFadd (c : CmdRef)
  /-- `REM_CAS` (R350). Command that compare-swaps a 64-bit word of a peer window. -/
  | remCas (c : CmdRef)
  /-- `REM_PEG` (R348). Command that adds to or sets a peer's peg. -/
  | remPeg (c : CmdRef)
  /-- `REM_WIN_INSTALL` (R345). Command that installs a window record in the Remote Window Table. -/
  | remWinInstall (c : CmdRef)
  /-- `REM_WIN_REMOVE` (R348). Command that removes a window entry. -/
  | remWinRemove (c : CmdRef)
  /-- `PUT` (R356). A PUT request arrives at the target, is checked, filtered and written. -/
  | put (k : Packet)
  /-- `GET` (R356). A GET request arrives at the target and is read, possibly combined. -/
  | get (k : Packet)
  /-- `FADD` (R361). An FADD request arrives and is applied, grouped or batched. -/
  | fadd (k : Packet)
  /-- `CAS` (R356). A CAS request arrives and is executed. -/
  | cas (k : Packet)
  /-- `PEG` (R356). A remote PEG request arrives and adds to or sets a peg. -/
  | peg (k : Packet)
  /-- `MGET` (R365). A combined multi-requester GET arrives and is served as one read. -/
  | mget (k : Packet)
  /-- `MFADD` (R365). A combined multi-requester FADD arrives and its members join the word's group. -/
  | mfadd (k : Packet)
  /-- `ACK` (R351). An ACK reply arrives and is applied to its tag, or discarded as stale. -/
  | ack (k : Packet)
  /-- `GET_DATA` (R351). A GET_DATA reply arrives and its data is written to the reserved destination. -/
  | getData (k : Packet)
  /-- `ATOMIC_UPDATE_DONE` (R361). An atomic update of a Loft word ends, closing the open group of that word. -/
  | atomicUpdateDone (addr : BitVec 64)
  /-- `CLAMP_WINDOW_EXPIRY` (R361). A fetch-add group reaches clamp_window age and closes. -/
  | clampWindowExpiry (addr : BitVec 64)
  /-- `BATCH_TIMEOUT` (R363). An incomplete fetch-add batch is applied with its members present after batch_timeout. -/
  | batchTimeout (addr : BitVec 64)
  /-- `E2E_TIMEOUT` (R314). A request's reply has not arrived within e2e_timeout and it is declared lost. -/
  | e2eTimeout (tag : BitVec 16)
  /-- `PAR_PREEMPT` (R424). Command that posts preemption requests to launches of a partition or array groups. -/
  | parPreempt (c : CmdRef)
  /-- `PAR_RESUME` (R428). Command that restores and continues preempted launches, optionally releasing a partition hold. -/
  | parResume (c : CmdRef)
  /-- `PAR_DISCARD` (R429). Command that frees a resume entry and its save area. -/
  | parDiscard (c : CmdRef)
  /-- `YARD_POOL_CREATE` (R399). Command that creates a buffer pool. -/
  | yardPoolCreate (c : CmdRef)
  /-- `YARD_POOL_DESTROY` (R400). Command that invalidates a pool with no allocated buffer. -/
  | yardPoolDestroy (c : CmdRef)
  /-- `YARD_ALLOC` (R409). Command that allocates n buffers, all or none. -/
  | yardAlloc (c : CmdRef)
  /-- `YARD_RETAIN` (R403). Command that adds to a buffer's refcount. -/
  | yardRetain (c : CmdRef)
  /-- `YARD_RELEASE` (R403). Command that subtracts from a buffer's refcount and frees it at zero. -/
  | yardRelease (c : CmdRef)
  /-- `LEDGER_OPEN` (R393). Command that creates or opens a Ledger. -/
  | ledgerOpen (c : CmdRef)
  /-- `CKPT_COMMIT` (R394). Command that copies dirty checkpoint planks to the other slot and writes the commit record. -/
  | ckptCommit (c : CmdRef)
  /-- `CKPT_RESTORE` (R396). Command that restores the selected slot into HBM. -/
  | ckptRestore (c : CmdRef)
  /-- `CKPT_SET` (R393). Command that sets or clears the ckpt bit of a plank range. -/
  | ckptSet (c : CmdRef)
  /-- `MGT_SENSOR` (R535). Command that returns a sensor reading. -/
  | mgtSensor (c : CmdRef)
  /-- `FW_WRITE` (R535). Command that writes part of a firmware image into the slot that did not boot. -/
  | fwWrite (c : CmdRef)
  /-- `FW_VERIFY` (R535). Command that checks the written slot under R467. -/
  | fwVerify (c : CmdRef)
  /-- `FW_SELECT` (R535). Command that writes the select record naming the verified slot. -/
  | fwSelect (c : CmdRef)
  /-- `FLT_COPY_CHECK` (R458). Command that digests a local region and decides among copies. -/
  | fltCopyCheck (c : CmdRef)
  /-- `FLT_SELFTEST` (R465). Command that runs fixed vectors through one idle array or score array. -/
  | fltSelftest (c : CmdRef)
  /-- `LFT_BAY_CFG_WRITE` (R371). A write that changes a bay's owner, mode or valid sets busy and starts write-back and zeroing. -/
  | lftBayCfgWrite (fn : Fn) (b : BayIx) (v : BitVec 64)
  /-- `BAY_RECONFIG_DONE` (R371). Write-back and zeroing of a bay end and busy clears. -/
  | bayReconfigDone (b : BayIx)
  /-- `SCRUB_VISIT` (R381). Every scrub_ns the scrubber visits the next HBM plank, corrects errors and stores or compares its digest. -/
  | scrubVisit
  /-- `SSD_COMPLETION` (R384). An NVMe command completion or error arrives from an SSD. -/
  | ssdCompletion (tag : Nat) (ok : Bool)
  /-- `SSD_REMOVAL` (R384). A surprise removal puts an SSD in state REMOVED. -/
  | ssdRemoval (ssd : Fin 8)
  /-- `HOST_READ_COMPLETION` (R560). A PCIe completion for a host read arrives, or a completion timeout ends it. -/
  | hostReadCompletion (tag : Nat) (data : HostData)
  /-- `PAR_CFG_WRITE` (R413). A PF write of PAR_CFG validates, invalidates or changes a partition, or is dropped. -/
  | parCfgWrite (fn : Fn) (p : Part) (v : BitVec 64)
  /-- `PAR_BREACH_RING_WRITE` (R434). A write of PAR_BREACH_RING sets a breach ring and zeroes prod, cons and dropped. -/
  | parBreachRingWrite (fn : Fn) (p : Part) (v : BitVec 64)
  /-- `DRAIN_BEGIN` (R316). Register operation that moves the device to DRAIN and holds new REQ and COLL packets. -/
  | drainBegin
  /-- `DRAIN_END` (R316). Register operation that returns the device to RUN under the current epoch. -/
  | drainEnd
  /-- `SWITCH` (R316). Register operation that arms a route epoch switch, accepted only in DRAIN with a newer staged epoch. -/
  | switch
  /-- `SWITCH_TIME_REACHED` (R316). Hall time reaches switch_time and the staged tables become current. -/
  | switchTimeReached
  /-- `SNAP` (R317). Register operation that latches held and rx into RTE_DRAIN_STATUS and zeroes rx. -/
  | snap
  /-- `TRANSIT_PACKET` (R301). A packet arrives at a device and is delivered, routed to an output port and stage, held or discarded. -/
  | transitPacket (port : PortIx) (k : Packet)
  /-- `LOSS` (R310). A LOSS packet arrives and the named packet is resent by its source or requester. -/
  | loss (k : Packet)
  /-- `PLANE_STATE` (R312). A PLANE_STATE packet arrives and live() is updated for the sender's position. -/
  | planeState (k : Packet)
  /-- `SWEEP_START` (R319). Register operation that starts a discovery sweep as root. -/
  | sweepStart
  /-- `SWEEP` (R320). A SWEEP packet arrives and the device answers and, as child, reports and probes. -/
  | sweep (port : PortIx) (k : Packet)
  /-- `SWEEP_ACK` (R320). A SWEEP_ACK answer to a probe arrives. -/
  | sweepAck (port : PortIx) (k : Packet)
  /-- `SWEEP_REPORT` (R320). A SWEEP_REPORT arrives and is forwarded to the parent or written to the sweep ring. -/
  | sweepReport (port : PortIx) (k : Packet)
  /-- `SWEEP_ALIVE` (R321). A SWEEP_ALIVE from a child arrives. -/
  | sweepAlive (port : PortIx) (k : Packet)
  /-- `SWEEP_DONE` (R321). A SWEEP_DONE from a child arrives; the device may send its own or the root ends the sweep. -/
  | sweepDone (port : PortIx) (k : Packet)
  /-- `SWEEP_PROBE_TIMEOUT` (R320). A probe unanswered within 20 µs records an absent position. -/
  | sweepProbeTimeout (port : PortIx)
  /-- `SWEEP_ALIVE_TIMER` (R321). Every 50 µs a child sends SWEEP_ALIVE to its parent. -/
  | sweepAliveTimer
  /-- `SWEEP_CHILD_LOST` (R321). 200 µs pass with no packet from a child and it is marked lost. -/
  | sweepChildLost (port : PortIx)
  /-- `SWEEP_FOLLOWUP` (R322). After a PARTIAL sweep the root starts the next sweep within 1 ms. -/
  | sweepFollowup
  /-- `SHAPER_ELIGIBLE` (R338). A shaper's calendar slot is reached and it becomes eligible again. -/
  | shaperEligible (sh : Fin 48)
  /-- `QSAMPLE_PERIOD` (R340). Every 2^k cycles every egress VC's depth and delay are sampled. -/
  | qsamplePeriod
  /-- `QSAMPLE_CLEAR` (R340). Register operation that clears every max field of TRS_QSAMPLE and TRS_EGRESS_STATUS. -/
  | qsampleClear
  /-- `TEL_HDR_CFG_WRITE` (R343). A write of TEL_HDR_CFG enables sampling and resets prod and dropped. -/
  | telHdrCfgWrite (fn : Fn) (v : BitVec 64)
  /-- `LINK_BLOCK` (R260). A block arrives on a Tlaha-B or Tlaha-C link and its flits are accepted by CRC and sequence. -/
  | linkBlock (port : PortIx) (b : List Byte)
  /-- `CREDIT` (R273). A CREDIT flit arrives and the transmitter takes the freed counts. -/
  | credit (port : PortIx) (f : BitVec 512)
  /-- `RETRY_REQ` (R269). A RETRY_REQ flit arrives and the transmitter resends from the named number. -/
  | retryReq (port : PortIx) (f : BitVec 512)
  /-- `RETRY_REQ_REPEAT` (R269). 1 µs passes in WAIT without the expected flit and RETRY_REQ is sent again. -/
  | retryReqRepeat (port : PortIx)
  /-- `HEARTBEAT` (R266). A HEARTBEAT flit arrives carrying the peer's epoch, fenced state and time. -/
  | heartbeat (port : PortIx) (f : BitVec 512)
  /-- `HEARTBEAT_TIMER` (R271). At least every 20 µs a link sends a HEARTBEAT. -/
  | heartbeatTimer (port : PortIx)
  /-- `CREDIT_REPEAT_TIMER` (R273). At least every 20 µs the receiver repeats the credit counts of every VC. -/
  | creditRepeatTimer (port : PortIx)
  /-- `CARD` (R281). CARD0 and CARD1 flits complete a neighbour card, which is acknowledged and checked. -/
  | card (port : PortIx) (f0 f1 : BitVec 512)
  /-- `CARD_ACK` (R281). A CARD_ACK arrives and ends resending of the card when its CRC matches. -/
  | cardAck (port : PortIx) (f : BitVec 512)
  /-- `CARD_RESEND_TIMER` (R281). Every 10 µs the card is sent again until acknowledged. -/
  | cardResendTimer (port : PortIx)
  /-- `WIDTH` (R289). A WIDTH flit arrives and the link changes its mapping of active halves. -/
  | width (port : PortIx) (f : BitVec 512)
  /-- `TAG` (R279). A TAG flit arrives and the segment's GCM tag is verified before its flits are forwarded. -/
  | tag (port : PortIx) (f : BitVec 512)
  /-- `TIME` (R296). A TIME request or response arrives for the link delay measurement. -/
  | time (port : PortIx) (f : BitVec 512)
  /-- `SYNC` (R296). A SYNC flit arrives carrying hall time, corrected by the link delay. -/
  | sync (port : PortIx) (f : BitVec 512)
  /-- `LINK_DELAY_TIMER` (R296). At least every 1 ms a link starts a TIME exchange. -/
  | linkDelayTimer (port : PortIx)
  /-- `SEGMENT_CLOSE_TIMEOUT` (R277). 64 ns after its first flit an open segment closes and its TAG is sent. -/
  | segmentCloseTimeout (port : PortIx)
  /-- `KEY_ROLLOVER` (R477). A segment counter reaches 2^47 and the next link key is derived into the other slot. -/
  | keyRollover (port : PortIx)
  /-- `LINK_SILENCE_TIMEOUT` (R271). No flit passes its CRC for 60 µs. -/
  | linkSilenceTimeout (port : PortIx)
  /-- `LANE_FAULT` (R289). A lane loses lock or records 4 uncorrectable codewords in 10 µs and the link drops to the remaining halves. -/
  | laneFault (port : PortIx) (lane : Fin 32)
  /-- `TRAINING_TIMEOUT` (R280). A port does not reach UP or MANAGEMENT_ONLY within 100 ms and enters FAILED. -/
  | trainingTimeout (port : PortIx)
  /-- `PORT_ENABLE` (R280). Register operation that starts or stops training of a port. -/
  | portEnable (port : PortIx) (on : Bool)
  /-- `RETRAIN` (R280). Register operation that takes a link down and trains it from DETECT. -/
  | retrain (port : PortIx)
  /-- `WIDEN` (R290). Register operation that trains removed halves and restores them by a WIDTH exchange. -/
  | widen (port : PortIx)
  /-- `EXPECTED_PEER_WRITE` (R286). A write of expected_peer on a MANAGEMENT_ONLY hall port repeats CHECK. -/
  | expectedPeerWrite (fn : Fn) (port : PortIx) (v : BitVec 64)
  /-- `HALL_DATA_FRAME` (R294). A Tlaha-H DATA frame arrives and is accepted in sequence or NAKed. -/
  | hallDataFrame (port : PortIx) (f : List Byte)
  /-- `HALL_ACK_FRAME` (R294). A Tlaha-H ACK frame arrives and frees acknowledged frames. -/
  | hallAckFrame (port : PortIx) (f : List Byte)
  /-- `HALL_NAK_FRAME` (R294). A Tlaha-H NAK frame arrives and frames are resent from its sequence. -/
  | hallNakFrame (port : PortIx) (f : List Byte)
  /-- `HALL_TRAIN_FRAME` (R291). A Tlaha-H TRAIN frame carrying card flits arrives. -/
  | hallTrainFrame (port : PortIx) (f : List Byte)
  /-- `HALL_RTO` (R294). rto µs pass without ack progress and frames are resent. -/
  | hallRto (port : PortIx)
  /-- `MKA_FRAME` (R479). An MKA frame arrives on a hall port. -/
  | mkaFrame (port : PortIx) (f : List Byte)
  /-- `SAK_TIMEOUT` (R479). No SAK is installed 6 s after CARD and the hall port enters FAILED with AUTH. -/
  | sakTimeout (port : PortIx)
  /-- `PTP_MESSAGE` (R295). An IEEE 1588 message arrives on a hall port and is timestamped. -/
  | ptpMessage (port : PortIx) (f : List Byte)
  /-- `LEASE_REQ` (R449). A LEASE_REQ arrives at the lease partner, which may answer LEASE_GRANT or report SELF_FENCED. -/
  | leaseReq (port : PortIx) (k : Packet)
  /-- `LEASE_REQ_TIMER` (R449). Every 20 µs the device sends LEASE_REQ to its lease partner. -/
  | leaseReqTimer
  /-- `LEASE_GRANT` (R449). A LEASE_GRANT arrives and extends the lease to 120 µs after its echoed time. -/
  | leaseGrant (k : Packet)
  /-- `LEASE_EXPIRY` (R449). The lease expires and the device fences itself. -/
  | leaseExpiry
  /-- `LEASE_SILENCE` (R450). A partner receives no LEASE_REQ from a member for 200 µs and reports SILENT. -/
  | leaseSilence (pos : Fin 64)
  /-- `REPORT` (R462). A REPORT arrives at a kingpost and is merged or forwarded. -/
  | report (k : Packet)
  /-- `REPORT_MERGE_CLOSE` (R462). 20 µs after the first report about a suspect the kingpost forwards one merged REPORT. -/
  | reportMergeClose (suspect : BitVec 20)
  /-- `VERDICT` (R456). A VERDICT packet arrives and a newer verdict is applied and forwarded. -/
  | verdict (k : Packet)
  /-- `VERDICT_ISSUE` (R455). Register operation that applies a verdict written in FLT_VERDICT and sends it. -/
  | verdictIssue (fn : Fn) (v : BitVec 64)
  /-- `FENCED` (R453). A FENCED packet arrives; with reason 0 and a newer epoch the device fences itself. -/
  | fenced (k : Packet)
  /-- `REJOIN` (R452). Register operation that clears the fence after every partition has been reset. -/
  | rejoin (fn : Fn) (v : BitVec 64)
  /-- `CSR_WRITE` (R12). A BAR0 write to a register with no row of its own takes effect by access code, width and alignment. The operand `addr` takes in the writes to the doorbell pages that have no row (Table Cmd-1). -/
  | csrWrite (fn : Fn) (addr : RegAddr) (bytes : Nat) (v : Nat)
  /-- `BAR4_ACCESS` (R527). A BAR4 access reaches the partition's Loft or tiered space through the window. -/
  | bar4Access (fn : Fn) (off : BitVec 36) (a : HostAccess)
  /-- `CONFIG_REQUEST` (R525). A PCIe configuration request is answered, with RRS until ready. -/
  | configRequest (fn : Fn) (reg : BitVec 12) (w : Option (BitVec 32))
  /-- `ATOMICOP` (R523). A PCIe AtomicOp to a BAR completes with all ones, or with Unsupported Request to BAR4. -/
  | atomicop (fn : Fn) (bar : Fin 3) (off : BitVec 36)
  /-- `MSIX_UNMASK` (R516). Unmasking a vector sends its pending MSI-X message. -/
  | msixUnmask (fn : Fn) (vec : Fin 2048)
  /-- `FLR` (R528). A Function Level Reset stops the function's work, waits for host reads, marks torn planks and resets its state. -/
  | flr (fn : Fn)
  /-- `SPDM_REQUEST` (R473). An SPDM request arrives over DOE or MCTP and is answered. -/
  | spdmRequest (k : List (BitVec 8))
  /-- `SET_FABRIC_KEY` (R475). Vendor-defined request that replaces the fabric key. -/
  | setFabricKey (k : List (BitVec 8))
  /-- `SET_HALL_CAK` (R475). Vendor-defined request that installs a hall port's CAK and restarts MKA. -/
  | setHallCak (k : List (BitVec 8))
  /-- `GET_KEY_STATUS` (R475). Vendor-defined request that returns SEC_KEY_STATUS. -/
  | getKeyStatus
  /-- `DBG_UNLOCK` (R481). An unlock certificate shifted over JTAG is checked and, if accepted, keys are zeroized and debug is entered by warm reset. -/
  | dbgUnlock (cert : List (BitVec 8))
  /-- `ZEROIZE` (R482). Register operation that zeroizes every key and performs a warm reset. -/
  | zeroize (fn : Fn)
  /-- `SVN_COMMIT` (R470). Register operation that raises the fused svn to the running image's svn. -/
  | svnCommit (fn : Fn)
  /-- `GLITCH_DETECT` (R482). A voltage, clock or temperature detector fires and keys are zeroized before a warm reset. -/
  | glitchDetect
  /-- `SECURE_BOOT` (R468). The ROM verifies the image slots and loads Verig, or halts. -/
  | secureBoot
  /-- `RECOVERY_GO` (R530). Register operation that checks and writes a recovery image and resets the device. -/
  | recoveryGo (fn : Fn) (v : BitVec 64)
  /-- `WARM` (R509). Register operation that performs a warm reset. -/
  | warm (fn : Fn)
  /-- `PART_RESET` (R464). Register operation that resets one partition. -/
  | partReset (fn : Fn) (p : Part)
  /-- `WATCHDOG_EXPIRY` (R511). The control-complex watchdog is not serviced for 1 s and the device warm resets. -/
  | watchdogExpiry
  /-- `VAUX_UP` (R507). VAUX3P3 reaches range: always-on clocks start and fuses are voted. -/
  | vauxUp
  /-- `VIN12_UP` (R507). VIN12 has held at least 11.2 V for 1 ms and the regulators start. -/
  | vin12Up
  /-- `PERST_RELEASE` (R507). PERST# is released: PLLs lock, identity registers load and the security core boots. -/
  | perstRelease
  /-- `PERST_ASSERT` (R508). PERST# is asserted and the device stops work and takes the load into the shunts. -/
  | perstAssert
  /-- `FW_READY` (R507). Verig has trained HBM and enumerated the SSDs and sets fw_ready. -/
  | fwReady
  /-- `BRAKE_N` (R492). BRAKE_N or brake_sw asserts or releases the brake. -/
  | brakeN (on : Bool)
  /-- `BRAKE_LEVEL_REACHED` (R492). The device reaches the brake level and sets braked. -/
  | brakeLevelReached
  /-- `HOTSPOT_N` (R493). HOTSPOT_N asserts or releases and hot_limit applies or lapses. -/
  | hotspotN (on : Bool)
  /-- `CLOCK_STEP_DOWN` (R494). The 50 µs power average exceeds the limit, or the junction exceeds therm_limit, and CLK_ARR steps down. -/
  | clockStepDown
  /-- `CLOCK_STEP_UP` (R494). The 1 ms average has stayed below 98 % of the limit for 200 µs and CLK_ARR steps up. -/
  | clockStepUp
  /-- `DUTY_CAP_STEP` (R496). At clk_floor with the limit still exceeded, the duty cap is lowered or raised by 1/64. -/
  | dutyCapStep (up : Bool)
  /-- `THERMTRIP` (R497). The hottest junction reaches 125 °C and THERMTRIP_N asserts with the brake held. -/
  | thermtrip
  /-- `VIN_LOW` (R499). VIN12 stays below 11.2 V for 1 µs, vin_low sets and the device brakes. -/
  | vinLow
  /-- `BROWNOUT` (R499). VIN12 stays below 10.8 V for 1 µs and the device performs a power-off reset. -/
  | brownout
  /-- `REFCLK_LOST` (R502). A reference clock is lost for 1 µs and its effect follows by clock. -/
  | refclkLost (clk : Fin 8)
  /-- `TIME_1PPS_EDGE` (R504). A TIME_1PPS input edge arrives and the servo takes the time of TIM_SET. -/
  | time1ppsEdge
  /-- `TIME_SOURCE_LOST` (R504). The time source is lost and the servo enters HOLDOVER. -/
  | timeSourceLost
  /-- `SET_ENDPOINT_ID` (R531). An MCTP Set Endpoint ID assigns the device's EID. -/
  | setEndpointId (eid : BitVec 8)
  /-- `ENTDAA` (R531). The I3C bus owner assigns the device a dynamic address. -/
  | entdaa (da : BitVec 7)
  /-- `PLDM_REQUEST` (R532). A PLDM request over MCTP is answered. -/
  | pldmRequest (k : List (BitVec 8))
  /-- `PLDM_SENSOR_REFRESH` (R532). Every 1 ms sensor readings are refreshed and threshold crossings sent as PlatformEventMessage. -/
  | pldmSensorRefresh
  /-- `PLDM_FW_UPDATE` (R533). PLDM firmware update requests write, verify and apply the slot that did not boot. -/
  | pldmFwUpdate (k : List (BitVec 8))
  /-- `UPDATE_HOLD_TIMEOUT` (R534). An update that makes no progress for 60 s releases the device. -/
  | updateHoldTimeout
  /-- `BRACE_UPDATE` (R488). In every CLK_PWR cycle the Brace moves its target T towards the goal by at most 0.03 A and recomputes duty and burn. -/
  | braceUpdate
  /-- `SIGNAL_DETECT` (R280). Signal appears on the lanes of a port in DETECT and the port moves to EQUALIZE. -/
  | signalDetect (port : PortIx)
  /-- `BLOCK_LOCK` (R280). A receiver gains FEC lock, deskew and block lock on its lanes and the port leaves ALIGN for CARD, or a half being widened becomes trained. -/
  | blockLock (port : PortIx)
  /-- `WIDEN_TIMEOUT` (R290). A half being widened has not trained within 100 ms and the link width stays as it is. -/
  | widenTimeout (port : PortIx)
  /-- `PPS_OUT_EDGE` (R506). Hall time reaches a multiple of 1,000,000,000 ns and TIME_1PPS out rises for 1 µs when pps_out_en is 1. -/
  | ppsOutEdge
  /-- `VAUX3P3_LOSS` (R486). VAUX3P3 falls out of range and the always-on domain, THERMTRIP_N and the slew guarantee are lost. -/
  | vaux3p3Loss
  /-- `PARTITION_RESET_DONE` (R509). A partition reset finishes clearing its map and bays and part_busy clears. -/
  | partitionResetDone (p : Part)
  /-- `SAK_REKEY` (R479). The MACsec packet number nears 2^62 and the key server generates and distributes a new SAK. -/
  | sakRekey (port : PortIx)
deriving DecidableEq, Repr

end Sys2Proof
end

