-- ==== Sys2Proof/Machine/Bits.lean ====
section
/-! DEFINITION. Bit fields, byte strings, tables and memories: the plain operations the meanings are built from. -/

namespace Sys2Proof.Machine

open Sys2Proof

/-! ### Bit fields -/

/-- Bits hi down to lo of a word, as a number. -/
def fld {w : Nat} (x : BitVec w) (hi lo : Nat) : Nat := (x.toNat >>> lo) % 2 ^ (hi + 1 - lo)

/-- Bit i of a word. -/
def bit {w : Nat} (x : BitVec w) (i : Nat) : Bool := x.toNat.testBit i

/-- A word with bits hi down to lo replaced by a number. -/
def setFld {w : Nat} (x : BitVec w) (hi lo v : Nat) : BitVec w :=
  BitVec.ofNat w (x.toNat - (fld x hi lo <<< lo) + ((v % 2 ^ (hi + 1 - lo)) <<< lo))

/-- Bits hi down to lo of a number. -/
def nfld (x hi lo : Nat) : Nat := (x >>> lo) % 2 ^ (hi + 1 - lo)

/-- A Boolean as a bit. -/
def b2n (b : Bool) : Nat := if b then 1 else 0

/-- A counter that holds at its maximum. -/
def satAdd {w : Nat} (c : BitVec w) (n : Nat) : BitVec w :=
  BitVec.ofNat w (min (c.toNat + n) (2 ^ w - 1))

/-- (a - b) modulo 2^32, the distance between free-running indices (R27). -/
def diff32 (a b : BitVec 32) : Nat := (a - b).toNat

/-- Signed reading of the low w bits of a number. -/
def signed (w x : Nat) : Int := (BitVec.ofNat w x).toInt

/-- Two's complement bits of an integer. -/
def bitsOf (w : Nat) (i : Int) : Nat := (BitVec.ofInt w i).toNat

/-- Serial-number order of 16-bit epochs (R15): a is newer than b. -/
def newer (a b : W16) : Bool := decide (1 ≤ (a - b).toNat ∧ (a - b).toNat ≤ 32767)
/-- The arriving number is stale (R15): the own one is newer, or they differ by exactly 32,768. -/
def staleTo (own arriving : W16) : Bool := newer own arriving || (arriving - own) == 0x8000#16

/-- Division rounded up. -/
def ceilDiv (a b : Nat) : Nat := (a + b - 1) / b

/-! ### Byte strings -/

/-- n bytes of a block or a header, from byte off, little-endian. -/
def byteFld {w : Nat} (x : BitVec w) (off n : Nat) : Nat := (x.toNat >>> (8 * off)) % 2 ^ (8 * n)

/-- A number as n bytes, lowest first. -/
def toBytes : Nat → Nat → List Byte
  | 0, _ => []
  | n + 1, v => BitVec.ofNat 8 v :: toBytes n (v / 256)

/-- The number that bytes spell, lowest first. -/
def ofBytes : List Byte → Nat
  | [] => 0
  | b :: bs => b.toNat + 256 * ofBytes bs

/-- n bytes of a byte string from offset off; bytes past its end read zero. -/
def slice (bs : List Byte) (off n : Nat) : List Byte :=
  let t := (bs.drop off).take n
  t ++ List.replicate (n - t.length) 0

/-- n bytes of a byte string from offset off, as a little-endian number. -/
def le (bs : List Byte) (off n : Nat) : Nat := ofBytes ((bs.drop off).take n)

/-- A byte string as a block. -/
def toBlock (bs : List Byte) : Block := BitVec.ofNat 512 (ofBytes (bs.take 64))

/-- A block as 64 bytes. -/
def blockBytes (b : Block) : List Byte := toBytes 64 b.toNat

/-- The number with the given (byte offset, byte count, value) fields: a header, packet or record being laid out. -/
def layout (fs : List (Nat × Nat × Nat)) : Nat :=
  fs.foldl (fun acc f => acc + ((f.2.2 % 2 ^ (8 * f.2.1)) <<< (8 * f.1))) 0

/-! ### Tables -/

/-- The entry at an index, if one is listed. -/
def find? {α : Type} (m : List (Nat × α)) (k : Nat) : Option α :=
  match m with
  | [] => none
  | (i, v) :: r => if i = k then some v else find? r k

/-- The entry at an index, or the reset entry. -/
def getD {α : Type} (m : List (Nat × α)) (k : Nat) (d : α) : α := (find? m k).getD d

/-- The table with an entry set. -/
def put {α : Type} (m : List (Nat × α)) (k : Nat) (v : α) : List (Nat × α) :=
  match m with
  | [] => [(k, v)]
  | (i, w) :: r => if i = k then (k, v) :: r else if k < i then (k, v) :: (i, w) :: r else (i, w) :: put r k v

/-- The table without an entry. -/
def del {α : Type} (m : List (Nat × α)) (k : Nat) : List (Nat × α) := m.filter fun e => e.1 != k

/-- The table with an entry changed. -/
def upd {α : Type} (m : List (Nat × α)) (k : Nat) (d : α) (f : α → α) : List (Nat × α) := put m k (f (getD m k d))

/-- The first of the listed indices that satisfies p. -/
def pick {α : Type} (p : α → Bool) : List α → Option α
  | [] => none
  | x :: xs => if p x then some x else pick p xs

/-! ### Memories -/

/-- The byte at an address; one not listed reads zero (log 5). -/
def memGet (m : List Host.Cell) (a : Nat) : Byte := getD m a 0

/-- Writes one byte, keeping the canonical form: a zero byte is not listed. -/
def memSet (m : List Host.Cell) (a : Nat) (b : Byte) : List Host.Cell := if b = 0 then del m a else put m a b

/-- n bytes from an address. -/
def memRead (m : List Host.Cell) (a n : Nat) : List Byte := (List.range n).map fun i => memGet m (a + i)

/-- Writes bytes from an address. -/
def memWrite (m : List Host.Cell) (a : Nat) : List Byte → List Host.Cell
  | [] => m
  | b :: bs => memWrite (memSet m a b) (a + 1) bs

/-- Zeroes the n bytes from an address. -/
def memZero (m : List Host.Cell) (a n : Nat) : List Host.Cell := m.filter fun c => ¬ (a ≤ c.1 ∧ c.1 < a + n)

/-- Copies the n bytes at src over those at dst. -/
def memCopy (m : List Host.Cell) (src dst n : Nat) : List Host.Cell := memWrite m dst (memRead m src n)

/-- The canonical form: addresses strictly rising and no listed byte zero. -/
def Memory.wf : List Host.Cell → Bool
  | [] => true
  | [c] => decide (c.2 ≠ 0)
  | c :: d :: r => decide (c.2 ≠ 0) && decide (c.1 < d.1) && Memory.wf (d :: r)

/-! ### Check codes -/

/-- One bit step of a reflected CRC. -/
def crcBit (poly acc : Nat) : Nat := if acc % 2 = 1 then (acc / 2) ^^^ poly else acc / 2

/-- One byte of a reflected CRC. -/
def crcByte (poly acc : Nat) (b : Byte) : Nat :=
  (List.range 8).foldl (fun a _ => crcBit poly a) (acc ^^^ b.toNat)

/-- CRC-32C (R264): polynomial 0x1EDC6F41 reflected, initial value and final XOR all ones. -/
def crc32c (bs : List Byte) : Nat := (bs.foldl (crcByte 0x82F63B78) 0xFFFFFFFF) ^^^ 0xFFFFFFFF

/-- The plank digest CRC-64/NVME (R380): polynomial 0xAD93D23594C93659, reflected, initial value and final XOR all ones. -/
def crc64 (bs : List Byte) : Nat := (bs.foldl (crcByte 0x9A6C9329AC4BC9B5) 0xFFFFFFFFFFFFFFFF) ^^^ 0xFFFFFFFFFFFFFFFF

end Sys2Proof.Machine
end

