-- ==== Sys2Proof/Machine/CsrMap.lean ====
section
/-! DEFINITION. The map of BAR0 (R517): every register of every block, where its instances lie, and whether it is W64. -/

namespace Sys2Proof.Machine

/-- A register: the offset of its first instance in BAR0, the distance between instances, their number, and whether it takes 64-bit writes only. -/
structure RegRow where
  /-- offset in BAR0 of instance 0 -/
  base : Nat
  /-- distance between instances -/
  stride : Nat
  /-- instances -/
  count : Nat
  /-- W64 in its heading line -/
  w64 : Bool
deriving DecidableEq, Repr

/-- The offset is one of the row's instances. -/
def RegRow.has (r : RegRow) (off : Nat) : Bool :=
  decide (r.base ≤ off) && (off - r.base) % r.stride == 0 && decide ((off - r.base) / r.stride < r.count)

/-- MGT, MXA, SEQ, LFT, HBM and FLS. -/
def rowsMemory : List RegRow :=
  [⟨0x00000000, 8, 3, false⟩,       -- MGT_PART_ID, MGT_SERIAL, MGT_FW_STATUS
   ⟨0x00000018, 8, 1, true⟩,        -- MGT_RECOV_CTL
   ⟨0x00000020, 8, 1, false⟩,       -- MGT_RECOV_STATUS
   ⟨0x00000100, 8, 9, false⟩,       -- CSR_ERR_LOG
   ⟨0x00000200, 8, 9, true⟩,        -- MGT_BAR4_WIN
   ⟨0x01000000, 8, 256, false⟩,     -- MXA_ARRAY_STATUS
   ⟨0x01100000, 8, 512, false⟩,     -- MXA_PERF_VALID, MXA_PERF_LOST
   ⟨0x01800000, 8, 256, false⟩,     -- MXA_ARITH_STATUS
   ⟨0x01900000, 8, 4, false⟩,       -- MXA_PLANE_STATUS
   ⟨0x02000000, 8, 256, false⟩,     -- SEQ_STATUS
   ⟨0x02010000, 8, 256, false⟩,     -- SEQ_GATHER_PERF
   ⟨0x03000000, 8, 32, true⟩,       -- LFT_BAY_CFG
   ⟨0x04000000, 0x10, 8, true⟩,     -- HBM_MAP_CFG
   ⟨0x04000008, 0x10, 8, false⟩,    -- HBM_TIER_USE
   ⟨0x04000100, 8, 8, false⟩,       -- HBM_SEQ_STATUS
   ⟨0x04000200, 8, 1, false⟩,       -- HBM_TIER_ERR
   ⟨0x04000208, 8, 1, true⟩,        -- HBM_SCRUB_CFG
   ⟨0x05000000, 8, 8, false⟩,       -- FLS_SSD_STATUS
   ⟨0x05000100, 8, 8, false⟩]       -- FLS_LEDGER_STATUS

/-- DVT, PRL, TRS and TEL. -/
def rowsEngines : List RegRow :=
  [⟨0x06000000, 8, 4, false⟩,       -- DVT_SCORE_STATUS
   ⟨0x06000040, 8, 10, false⟩,      -- DVT_ENGINE_STATUS to DVT_RECV_STATUS
   ⟨0x06002000, 8, 1024, false⟩,    -- DVT_THRESH_CFG
   ⟨0x06004000, 8, 1024, false⟩,    -- DVT_PLAN_CFG
   ⟨0x06006000, 8, 8, false⟩,       -- DVT_LAYOUT_STATUS
   ⟨0x07000000, 8, 3, false⟩,       -- PRL_STATUS, PRL_PERF_BYTES, PRL_PERF_EVENTS
   ⟨0x07000100, 8, 8, false⟩,       -- PRL_SW_PLANE
   ⟨0x07001000, 8, 1024, false⟩,    -- PRL_GROUP_STATUS
   ⟨0x08000100, 8, 48, false⟩,      -- TRS_EGRESS_STATUS
   ⟨0x08000400, 8, 3, true⟩,        -- TRS_WFQ_CFG
   ⟨0x08000500, 8, 1, true⟩,        -- TRS_QSAMPLE_CFG
   ⟨0x08001000, 0x10, 48, true⟩,    -- TRS_SHAPER_CFG
   ⟨0x08001008, 0x10, 48, false⟩,   -- TRS_SHAPER_STATE
   ⟨0x09000000, 8, 2, true⟩,        -- TEL_HDR_CFG, TEL_HDR_RING
   ⟨0x09000010, 8, 2, false⟩]       -- TEL_HDR_PROD, TEL_HDR_CONS

/-- TRS_QSAMPLE: 20 VCs of each of 33 ports. -/
def rowsSample : List RegRow := (List.range 33).map fun f => ⟨0x08010000 + 0x100 * f, 8, 20, false⟩

/-- The six registers of every port of a link block (LNKB, LNKC, LNKH). -/
def rowsLink (base ports : Nat) : List RegRow :=
  [⟨base, 0x100, ports, true⟩, ⟨base + 8, 0x100, ports, false⟩, ⟨base + 0x10, 0x100, ports, false⟩, ⟨base + 0x18, 0x100, ports, false⟩,
   ⟨base + 0x20, 0x100, ports, false⟩, ⟨base + 0x28, 0x100, ports, false⟩]

/-- LNKB, LNKC and LNKH with its UDP and address registers. -/
def rowsLinks : List RegRow :=
  rowsLink 0x0A000000 15 ++ rowsLink 0x0B000000 8 ++ rowsLink 0x0C000000 10 ++ (List.range 7).map fun i => ⟨0x0C000040 + 8 * i, 0x100, 10, true⟩

/-- RTE, REM, WQ, PEG and YRD. -/
def rowsRoute : List RegRow :=
  [⟨0x0D000000, 8, 5, true⟩,        -- RTE_SELF, RTE_CFG, RTE_EPOCH, RTE_EPOCH_CTL, RTE_SWITCH_TIME
   ⟨0x0D000028, 8, 1, false⟩,       -- RTE_DRAIN_STATUS
   ⟨0x0D000030, 8, 1, true⟩,        -- RTE_JOB
   ⟨0x0D000038, 8, 1, false⟩,       -- RTE_ROUTE_ERR
   ⟨0x0D000040, 8, 1, true⟩,        -- RTE_SWEEP_CTL
   ⟨0x0D000048, 8, 1, false⟩,       -- RTE_SWEEP_STATUS
   ⟨0x0D000050, 8, 1, true⟩,        -- RTE_SWEEP_RING
   ⟨0x0D000100, 8, 6, true⟩,        -- RTE_HALL_DIR
   ⟨0x0D000200, 8, 16, true⟩,       -- RTE_BENT_ENTRY
   ⟨0x0D000400, 8, 64, true⟩,       -- RTE_CUBE_ENTRY
   ⟨0x0D010000, 8, 2048, true⟩,     -- RTE_HALL_ENTRY
   ⟨0x0D100030, 8, 1, true⟩,        -- the current copy of RTE_JOB
   ⟨0x0D100100, 8, 6, true⟩,        -- the current copies of RTE_HALL_DIR
   ⟨0x0D100200, 8, 16, true⟩,       -- the current copies of RTE_BENT_ENTRY
   ⟨0x0D100400, 8, 64, true⟩,       -- the current copies of RTE_CUBE_ENTRY
   ⟨0x0D110000, 8, 2048, true⟩,     -- the current copies of RTE_HALL_ENTRY
   ⟨0x0E000000, 8, 1, true⟩,        -- REM_CFG
   ⟨0x0E000008, 8, 3, false⟩,       -- REM_STATUS, REM_CLAMP_PERF, REM_ERR
   ⟨0x0F000000, 0x40, 1024, true⟩,  -- WQ_RING_BASE
   ⟨0x0F000008, 0x40, 1024, true⟩,  -- WQ_CFG
   ⟨0x0F000010, 0x40, 1024, false⟩, -- WQ_HEAD
   ⟨0x0F000018, 0x40, 1024, false⟩, -- WQ_STATUS
   ⟨0x0F010000, 0x40, 1024, true⟩,  -- CQ_RING_BASE
   ⟨0x0F010008, 0x40, 1024, true⟩,  -- CQ_CFG
   ⟨0x10000000, 8, 16384, true⟩,    -- PEG_VALUE
   ⟨0x11000000, 8, 128, false⟩,     -- YRD_POOL_CFG, YRD_POOL_STATUS
   ⟨0x11000400, 8, 2, false⟩]       -- YRD_ERR, YRD_DF_LOG

/-- PAR: the ranges of kinds 0 to 12 and the regulators of three points, by partition. -/
def rowsPar : List RegRow :=
  [⟨0x12000000, 8, 8, true⟩,        -- PAR_CFG
   ⟨0x12000040, 8, 8, true⟩,        -- PAR_QUOTA
   ⟨0x12000080, 0x10, 8, true⟩,     -- PAR_BREACH_RING
   ⟨0x12000088, 0x10, 8, false⟩,    -- PAR_BREACH_STATUS
   ⟨0x12000100, 8, 8, true⟩,        -- PAR_BREACH_CONS
   ⟨0x12010000, 8, 2048, false⟩] ++ -- PAR_QDONE, PAR_QWAIT
  (List.range 8).flatMap fun p => [⟨0x12000400 + 0x80 * p, 8, 13, true⟩, ⟨0x12001000 + 0x40 * p, 8, 6, true⟩]

/-- DET, FLT, SEC, PWR, CLK, RST and TIM. -/
def rowsControl : List RegRow :=
  [⟨0x13000000, 8, 8, true⟩,        -- DET_CFG
   ⟨0x13000100, 8, 8, false⟩,       -- DET_STATUS
   ⟨0x13001000, 8, 1, false⟩,       -- DET_ARITH_ID
   ⟨0x14000000, 8, 1, false⟩,       -- FLT_LEASE
   ⟨0x14000008, 8, 3, true⟩,        -- FLT_MEMBER, FLT_MEMBER_MASK, FLT_VERDICT
   ⟨0x14000020, 8, 1, false⟩,       -- FLT_STATUS
   ⟨0x14000028, 8, 1, true⟩,        -- FLT_EVENT_RING
   ⟨0x14000030, 8, 2, false⟩,       -- FLT_EVENT_PROD, FLT_EVENT_CONS
   ⟨0x14000100, 8, 16, true⟩,       -- FLT_VERDICT_HIST
   ⟨0x15000000, 8, 3, false⟩,       -- SEC_STATUS, SEC_BOOT_STATUS, SEC_KEY_STATUS
   ⟨0x15000020, 8, 4, false⟩,       -- SEC_DEBUG_NONCE
   ⟨0x15000040, 8, 6, true⟩,        -- SEC_FM_ANCHOR
   ⟨0x15000070, 8, 1, true⟩,        -- SEC_CTL
   ⟨0x15000100, 8, 8, true⟩,        -- SEC_STORAGE_TAG
   ⟨0x16000000, 8, 1, true⟩,        -- PWR_CFG
   ⟨0x16000008, 8, 2, false⟩,       -- PWR_STATUS, PWR_BRACE
   ⟨0x17000000, 8, 1, false⟩,       -- CLK_STATUS
   ⟨0x18000000, 8, 1, true⟩,        -- RST_CTL
   ⟨0x18000008, 8, 1, false⟩,       -- RST_STATUS
   ⟨0x19000000, 8, 2, true⟩,        -- TIM_CFG, TIM_SET
   ⟨0x19000010, 8, 2, false⟩]       -- TIM_STATUS, TIM_NOW

/-- Every register of BAR0. -/
def regRows : List RegRow := rowsMemory ++ rowsEngines ++ rowsSample ++ rowsLinks ++ rowsRoute ++ rowsPar ++ rowsControl

/-- The row of the register at an offset, if the offset holds one (R517). -/
def regAt (off : Nat) : Option RegRow := pick (·.has off) regRows

end Sys2Proof.Machine
end

