-- ==== Sys2Proof/Config.lean ====
section
/-! DEFINITION. What one part fixes and what the manual leaves open: opaque constants, so that no proof can see a value of them. -/

namespace Sys2Proof.Config

/-- A free byte: a byte the manual calls undefined or does not state, one for each draw (log 3). -/
opaque freeByte : Nat → Byte
/-- A free 64-bit value: a value the manual leaves open, one for each draw (log 3). -/
opaque freeWord : Nat → W64
/-- A free bit, one for each draw (log 3). -/
opaque freeBit : Nat → Bool
/-- Where an allocator begins its search, for each draw: which free frame, LBA or buffer it takes is not given (log 4). -/
opaque allocHint : Nat → Nat
/-- The part is of grade DXU1-1800-LQ and not DXU1-2200-LQ, set by fuses (R3). -/
opaque grade1800 : Bool
/-- The part's serial number (R557), set by fuses. -/
opaque serial : W64
/-- The straps POS_ID[3:0]: the device's position in its bent (R298). -/
opaque posId : BitVec 4

/-- AES-256-GCM (NIST SP 800-38D), its keystream: key with salt, segment counter, flit of the segment. A standard's function, left uninterpreted (log 23). -/
opaque gcmStream (key counter flit : Nat) : Block
/-- AES-256-GCM, its tag over additional data and ciphertext (log 23). -/
opaque gcmTag (key counter : Nat) (aad cipher : List Byte) : BitVec 128
/-- HKDF with SHA-384 of 36 bytes: input key, salt, info (log 23). -/
opaque hkdf (ikm salt info : List Byte) : BitVec 288
/-- MACsec GCM-AES-XPN-256 (IEEE 802.1AE), its keystream: key, packet number, byte of the frame (log 23). -/
opaque xpnStream (sak pn i : Nat) : Byte
/-- MACsec, its integrity check value (log 23). -/
opaque xpnIcv (sak pn : Nat) (frame : List Byte) : BitVec 128

/-- MKA (IEEE 802.1X-2020): the SAK that a frame distributes under a port's CKN and CAK, if it does (log 37). -/
opaque mkaSak (cak : Nat) (frame : List Byte) : Option Nat
/-- MKA: the frame with which a port with this CAK answers a frame, if it does (log 37). -/
opaque mkaAnswer (cak : Nat) (frame : List Byte) : Option (List Byte)
/-- MKA: the frame that a port with this CAK sends at a moment, distributing a SAK if one is new (log 37). -/
opaque mkaFrame (cak : Nat) (sak : Option Nat) (clk : Nat) : List Byte
/-- IEEE 1588: at this moment the boundary clock sends a message on this hall port (log 38). -/
opaque ptpDue (port clk : Nat) : Bool
/-- IEEE 1588: the message it sends then, as a frame of the port's transport (log 38). -/
opaque ptpFrame (port clk : Nat) : List Byte
/-- IEEE 1588: the message with which a hall port answers one received, if it does (log 38). -/
opaque ptpAnswer (port clk : Nat) (frame : List Byte) : Option (List Byte)

/-- AES-256-XTS (IEEE 1619-2018): byte i of an LBA that was written under one key and tweak, read under another; both are coded as numbers, none for an LBA
that was never written (log 23). -/
opaque xtsByte (readAs : Nat) (writtenAs : Option Nat) (bs : List Byte) (i : Nat) : Byte

/-- Granules that the virtual output queue of a fabric port's adapter holds for each VC (R329); the manual gives no size (log 26). -/
opaque voqDepth : Nat → Nat
/-- TRS_EGRESS_STATUS of a core port that carries memory and host transfers only, at a moment (log 26). -/
opaque trussLoad (core clk : Nat) : W64

/-- SHA-384 (FIPS 180-4) (log 23). -/
opaque sha384 : List Byte → BitVec 384
/-- ECDSA P-384 with SHA-384 verifies: public key, message, signature (log 23). -/
opaque ecdsaOk (key msg sig : List Byte) : Bool
/-- ML-DSA-87 (FIPS 204, pure, empty context) verifies: public key, message, signature (log 23). -/
opaque mldsaOk (key msg sig : List Byte) : Bool
/-- A copy of a fuse word: the word and the copy (R460). Words 0 to 3 are the key hashes, 4 holds the revoke bits, 5 svn, 6 lifecycle and 7 the PUF helper
data (R468). -/
opaque fuseCopy (word copy : Nat) : BitVec 384
/-- The ROM's debug public keys by key index: ECDSA and ML-DSA (R480). -/
opaque debugKey : Bool → Nat → List Byte
/-- The 32 bytes SEC_DEBUG_NONCE shows after a draw of the random generator (R481). -/
opaque nonce : Nat → BitVec 256
/-- The vendor ID assigned to the maker (R513). -/
opaque vendorId : W16
/-- Reset values of configuration space beside R513, by function and dword: the PCIe base specification and this part fix them (log 69). -/
opaque cfgReset : Nat → Nat → W32
/-- Writable bits of configuration space, by function and dword; a feature that Table Host-1 does not list is not writable (R512, log 69). -/
opaque cfgMask : Nat → Nat → W32
/-- The dword that holds MSI-X Message Control, with the function mask in bit 30 (log 69). -/
opaque msixCap : Nat
/-- The dword that holds SR-IOV Control, with VF Enable in bit 0 (log 69). -/
opaque sriovCtl : Nat
/-- The code of a state sensor's state, by sensor and state in the order of Table Host-7 (log 70). -/
opaque stateCode : Nat → Nat → Int

end Sys2Proof.Config
end

