-- ==== Sys2Proof/Machine/State.lean ====
section
/-! DEFINITION. The state of the block: every register, queue, buffer, table, mode and pin the manual gives the DXU-1, as plain data.
A field's default is its reset value; `State.reset` is the state with every field at its default. -/

namespace Sys2Proof.Machine

open Sys2Proof

/-- A table indexed by a number: the listed entries, in rising index; an index not listed holds the table's reset entry. -/
abbrev Map (α : Type) := List (Nat × α)

/-- A memory: the listed (address, byte) pairs, in rising address, none of them zero; a byte not listed reads zero (log 5). -/
abbrev Mem := List Host.Cell

/-- Why a step stops with a fault. -/
inductive Fault where
  /-- The command's operand is no datum of its row (a LINK_BLOCK without 16 flits). Raised by the step of such a row. Safe: the hardware has no such event. -/
  | illFormed
deriving DecidableEq, Repr

/-- Why a step is refused. -/
inductive Refusal where
  /-- The command has no meaning in this model yet. Raised by the dispatch alone. Safe. -/
  | notModelled (mnemonic : String)
deriving DecidableEq, Repr

/-- Status codes of a completion (Table Cmd-6). -/
inductive Status where
  | ok | lateCancel | cancelled | badOpcode | badRsv | badGen | quota | noPlank | staleRole | fenced
  | torn | peerLost | timeout | integrity | diverged | access | preempted | overflowSat | breach | arithMismatch
deriving DecidableEq, Repr

/-- A status with its detail word: how a piece of work fails. -/
structure Err where
  /-- the status -/
  st : Status
  /-- the detail word -/
  det : Nat := 0
deriving DecidableEq, Repr

/-- Physical places of stored bytes. -/
inductive Space where
  /-- the Loft, by physical byte: bay × 2^24 + offset -/
  | loft
  /-- HBM, by physical byte: frame × 65,536 + offset -/
  | hbm
  /-- the benches: array × 2^18 + offset -/
  | bench
deriving DecidableEq, Repr

/-- A run of bytes a command has written: a place, its first byte and its length (R387, R389). -/
structure Extent where
  /-- where -/
  sp : Space
  /-- first physical byte -/
  a : Nat
  /-- bytes -/
  n : Nat
deriving DecidableEq, Repr

/-! ### What leaves the device -/

/-- Something the device sends out: the log of these, in order, is all that the outside sees of it. -/
inductive Out where
  /-- a posted write to host memory -/
  | hostWrite (fn : Nat) (addr : Nat) (bs : List Byte)
  /-- a read request to host memory -/
  | hostRead (tag fn addr n : Nat)
  /-- an MSI-X message -/
  | msix (fn vec : Nat)
  /-- a completion for a host read of BAR0, BAR2, BAR4 or configuration space -/
  | completion (fn : Nat) (bs : List Byte)
  /-- a configuration completion with Request Retry Status -/
  | retryStatus (fn : Nat)
  /-- a completion with Unsupported Request -/
  | unsupported (fn : Nat)
  /-- a packet whose transmission starts on a fabric port -/
  | packet (port vc : Nat) (lc : Bool) (k : Packet)
  /-- a block of a bent or cube port, on its half: 1,056 bytes (Table Link-2) -/
  | block (port half : Nat) (bs : List Byte)
  /-- a hall frame -/
  | frame (port : Nat) (f : List Byte)
  /-- an NVMe request to an SSD: 0 read, 1 write, 2 flush; plank position -/
  | nvme (ssd op lba : Nat)
  /-- a management or security response over DOE, MCTP or I3C -/
  | response (bs : List Byte)
  /-- a platform event message of a sensor (R532) -/
  | platformEvent (sensor state : Nat)
  /-- a pin driven to a level -/
  | pin (name : String) (level : Bool)
deriving DecidableEq, Repr

/-! ### Queues, commands and pegs (chapter 2) -/

/-- A fetched command that has not been granted (R30, R41). -/
structure Fetched where
  /-- its ring slot, free-running -/
  slot : BitVec 32
  /-- the 64-byte command packet (Table Cmd-2) -/
  pkt : Block
  /-- wait 0 has held (R41) -/
  latched0 : Bool := false
  /-- wait 1 has held -/
  latched1 : Bool := false
  /-- when it reached the issue point, if it has -/
  reached : Option Nat := none
  /-- DVT_ROUTE: its parameter block, read when it reached the issue point (R214) -/
  blk : List Byte := []
  /-- DVT_ROUTE: how that read failed, where it did: status and detail -/
  blkErr : Option (Status × Nat) := none
  /-- acct_detail of its partition was set when it reached the issue point (R431) -/
  acct : Bool := false
deriving DecidableEq, Repr

/-- How a command ended: its status, result and detail, before the record is written. -/
structure Fin' where
  /-- final status -/
  st : Status
  /-- result field -/
  result : W64 := 0
  /-- detail word without the informational bits [31:28] of R54 -/
  det : W32 := 0
  /-- a failure of the checks of R36: the signal is never applied -/
  r36 : Bool := false
deriving DecidableEq, Repr

/-- A completion record as it stands when step 3 of R49 begins: all of Table Cmd-6a but the phase bit, which is that of the slot it is written to (R50, R558). -/
structure Rec where
  /-- status -/
  st : Status
  /-- result -/
  result : W64
  /-- detail -/
  det : W32
  /-- hall time when the step began -/
  hall : W64
deriving DecidableEq, Repr

/-- How far a granted (or rejected, cancelled or CANCEL) command has come. -/
inductive Stage where
  /-- granted, or a CANCEL just fetched; its work has not begun -/
  | granted
  /-- its work runs and ends by a later event -/
  | running
  /-- its work has ended -/
  | ended (f : Fin')
  /-- ended and its signal applied; its record is kept or held back by rec_err (R558) -/
  | held (r : Rec)
deriving DecidableEq, Repr

/-- A command between its grant and its completion record (R44 to R52). -/
structure InFlight where
  /-- its ring slot, free-running -/
  slot : BitVec 32
  /-- its packet -/
  pkt : Block
  /-- stage -/
  stage : Stage := .granted
  /-- it was granted, so it counts against max_inflight (R44); a rejected or cancelled command and a CANCEL are not -/
  counted : Bool := true
  /-- the completion queue an entry of which is reserved for it (R51); none until one can be reserved -/
  cq : Option Nat := some 0
  /-- a late cancel named it (R47, detail bit 30) -/
  late : Bool := false
  /-- a saturation occurred (detail bit 28) -/
  sat : Bool := false
  /-- a breach fell within it (detail bit 29), with the ring index of the open record -/
  breach : Option Nat := none
  /-- it read a torn plank under ACCEPT_TORN (detail bit 31) -/
  tornRead : Bool := false
  /-- what it has written (R387, R389) -/
  wrote : List Extent := []
  /-- DET is in effect for it, as it was at grant (R437) -/
  det : Bool := false
  /-- DVT_ROUTE: its parameter block as read at the issue point (R214) -/
  blk : List Byte := []
  /-- DVT_ROUTE: how that read failed, where it did -/
  blkErr : Option (Status × Nat) := none
  /-- Dovetail step: the layer entries in force at its grant (R163) -/
  layers : Map Block := []
  /-- Dovetail step: the normalisation tables in force at its grant -/
  tables : Map (List Nat) := []
  /-- acct_detail was 1 when it reached the issue point (R431) -/
  acct : Bool := false
  /-- its place in the order in which commands were granted (R176) -/
  order : Nat := 0
  /-- when it was granted [ns] -/
  since : Nat := 0
  /-- the value of the named peg at grant (PEG_READ, R37) -/
  atGrant : W64 := 0
  /-- progress of running work, in the unit of its result -/
  acc : Nat := 0
  /-- 16 MiB parts of its Loft space whose bay was changed after its grant (R371) -/
  gone : List Nat := []
deriving DecidableEq, Repr

/-- A work queue: the state behind its doorbell and its WQ registers. -/
structure Queue where
  /-- last accepted producer index (Table Cmd-1) -/
  producer : BitVec 32 := 0
  /-- WQ_HEAD: next slot to fetch -/
  head : BitVec 32 := 0
  /-- WQ_STATUS.halted (R32) -/
  halted : Bool := false
  /-- WQ_STATUS.fetch_err (R31) -/
  fetchErr : Bool := false
  /-- WQ_STATUS.doorbell_err (R29) -/
  doorbellErr : Bool := false
  /-- fetched commands, the first at the issue point -/
  fetched : List Fetched := []
  /-- granted and uncompleted commands, oldest first -/
  inflight : List InFlight := []
  /-- a ring read of host memory is outstanding, with its tag -/
  fetching : Option Nat := none
deriving DecidableEq, Repr

/-- A command whose completion record is kept or held (R558). -/
structure Record where
  /-- the work queue -/
  q : Nat
  /-- the slot of the command -/
  slot : BitVec 32
deriving DecidableEq, Repr

/-- A completion queue: the state behind its doorbell and its CQ registers. -/
structure Cq where
  /-- records written, free-running (R33) -/
  tail : BitVec 32 := 0
  /-- last accepted consumer index -/
  consumer : BitVec 32 := 0
  /-- entries reserved and not yet written (R51) -/
  reserved : Nat := 0
  /-- records written since the last message (R59) -/
  unsignalled : Nat := 0
  /-- when the oldest unsignalled record was written -/
  oldest : Option Nat := none
  /-- CQ_CFG.cq_err (R33) -/
  cqErr : Bool := false
  /-- CQ_CFG.rec_err (R558) -/
  recErr : Bool := false
  /-- the kept record and the held records, in order (R558) -/
  kept : List Record := []
deriving DecidableEq, Repr

/-- What a host read is for (R559). -/
inductive ReadFor where
  /-- the ring slot at WQ_HEAD of a queue -/
  | ring (q : Nat)
  /-- the source of a COPY -/
  | copy (q : Nat) (slot : BitVec 32)
  /-- the source of an FW_WRITE -/
  | fw (q : Nat) (slot : BitVec 32)
deriving DecidableEq, Repr

/-- An outstanding host read (R528, R560). -/
structure HostRead where
  /-- function that owns it -/
  fn : Nat
  /-- what waits for it -/
  for_ : ReadFor
  /-- bytes that have not come -/
  n : Nat
  /-- bytes that have come of a granule that is not whole yet (R102) -/
  part : List Byte := []
  /-- the owner was stopped: the completion's data are discarded (R528) -/
  dead : Bool := false
deriving DecidableEq, Repr

/-- An update of a peg: an add or a set (R38). -/
inductive PegUpd where
  | add (v : W64)
  | set (v : W64)
deriving DecidableEq, Repr

/-- What one CLK_CTL cycle has brought to a peg so far (R39). -/
structure PegCycle where
  /-- the nanosecond of the cycle -/
  at_ : Nat
  /-- value before the cycle -/
  base : W64
  /-- updates, in ascending source order -/
  ups : List (Nat × PegUpd)
  /-- conditions on the peg that the cycle found pending: of fetched commands (queue, slot, wait 0 and wait 1) -/
  conds : List (Nat × BitVec 32 × Bool × Bool)
  /-- and of arrays that wait for it -/
  waits : List Nat
deriving DecidableEq, Repr

/-- The queues, pegs and outstanding host reads. -/
structure CmdState where
  /-- work queues -/
  wq : Map Queue := []
  /-- completion queues -/
  cq : Map Cq := []
  /-- pegs (R38) -/
  pegs : Map W64 := []
  /-- the last CLK_CTL cycle that updated each peg (R39, log 6) -/
  cycles : Map PegCycle := []
  /-- outstanding host reads by tag -/
  reads : Map HostRead := []
  /-- next host read tag -/
  nextRead : Nat := 0
  /-- queues of these partitions are stopped by R459 until a partition reset -/
  stopped : List Nat := []
  /-- commands granted so far, by which their order is told (R176) -/
  grants : Nat := 0
deriving DecidableEq, Repr
/-! ### Matrix arrays, their sequencers and the Planes (chapters 3 to 6) -/

/-- The stochastic-rounding key of SETKEY (R80, R120). -/
structure SrKey where
  /-- seed -/
  seed : W64 := 0
  /-- tensor id -/
  tensor : W32 := 0
  /-- idx_base -/
  base : BitVec 48 := 0
  /-- idx_stride -/
  stride : BitVec 48 := 0
deriving DecidableEq, Repr

/-- The resident image of a sequencer (R113). -/
structure Image where
  /-- address within the partition -/
  addr : Nat
  /-- loc -/
  tiered : Bool
  /-- the 64-byte header (Table Prog-1) -/
  hdr : Block
  /-- the instructions, 32 bytes each -/
  code : List (BitVec 256)
deriving DecidableEq, Repr

/-- What an array does (SEQ_STATUS.state). -/
inductive Phase where
  | idle | loading | running | waiting | saving | preempted
deriving DecidableEq, Repr

/-- The launch that holds an array (R116, R117). -/
structure ArrLaunch where
  /-- the KLAUNCH (or the PAR_RESUME that resumed it) -/
  cmd : CmdRef
  /-- index of the array within the launch -/
  index : Nat := 0
  /-- the launch carries DET_REQUIRED or runs in a partition in DET -/
  det : Bool := false
  /-- the array has executed END or has stopped -/
  ended : Bool := false
  /-- why it stopped, if it failed -/
  err : Option Err := none
  /-- the mark it stopped at for a preemption -/
  mark : Option Nat := none
  /-- it saturated in this launch -/
  sat : Bool := false
deriving DecidableEq, Repr

/-- A GATHER that has issued and not fired (R128, R131). -/
structure Gather where
  /-- its index in the image -/
  pc : Nat
  /-- the instruction -/
  k : BitVec 256
  /-- when it issued -/
  at_ : Nat
  /-- arrival peg -/
  peg : Nat
  /-- consumed count of its ring -/
  used : W64
  /-- when the arrivals first became nonzero -/
  nonzero : Option Nat := none
deriving DecidableEq, Repr

/-- What a defect of arithmetic hardware does to the values the unit forms (R83, R151). A unit without a defect has the default, and no row of the table
brings a defect about (log 122): it is a condition of the part, not of its programs. -/
structure Upset where
  /-- added to every block product that is rebuilt -/
  prod : Int := 0
  /-- added to every working sum -/
  sum : Int := 0
  /-- the two copies of the alignment shifter differ -/
  align : Bool := false
  /-- the two copies of the requantizer differ -/
  requant : Bool := false
  /-- the two copies of an index decoder differ -/
  index : Bool := false
deriving DecidableEq, Repr

/-- A matrix array: sequencer, VLU, drain and their registers. The cell registers and lanes hold nothing between instructions (R99). -/
structure Arr where
  /-- resident image; none while image_valid is 0 -/
  image : Option Image := none
  /-- s0 to s15 -/
  s : Map W32 := []
  /-- VLU registers: register × 64 + lane -/
  vregs : Map W32 := []
  /-- lookup tables: table × 1,024 + entry -/
  tables : Map W32 := []
  /-- stochastic-rounding key -/
  key : SrKey := {}
  /-- consumed counts, by gather ring base granule -/
  consumed : Map W64 := []
  /-- VLU input queue: up to 8 slots of output (R107) -/
  vluQueue : List (List Byte) := []
  /-- index of the oldest unfinished instruction -/
  pc : Nat := 0
  /-- state -/
  phase : Phase := .idle
  /-- last_mark -/
  lastMark : W16 := 0
  /-- gcount -/
  gcount : W16 := 0
  /-- fault_instr -/
  faultInstr : BitVec 10 := 0
  /-- the launch -/
  launch : Option ArrLaunch := none
  /-- while waiting: the wait word, and whether its condition has held -/
  wait : Option (Nat × Bool) := none
  /-- when the waiting instruction issued -/
  since : Nat := 0
  /-- the GATHER that has issued and not fired -/
  gather : Option Gather := none
  /-- a FILL chain is open (R562) -/
  chainOpen : Bool := false
  /-- target exponents of the open chain: vector × 4 + output block; an output block not listed has had no contributing pair -/
  chain : Map Int := []
  /-- contributing block pairs of the open EXPLICIT chain (R76): vector × 128 + output column -/
  pairs : Map Nat := []
  /-- ACC48 results of the chains that the open EXPLICIT chain was split from (R76): vector × 128 + output column -/
  carry : Map Int := []
  /-- slots of the last segment of the fill run in progress -/
  segment : Option Nat := none
  /-- MXA_ARRAY_STATUS.runs -/
  runs : W32 := 0
  /-- MXA_ARRAY_STATUS.mode -/
  mode : Nat := 0
  /-- MXA_PERF_VALID -/
  validSlots : W64 := 0
  /-- MXA_PERF_LOST.bubbles -/
  bubbles : W32 := 0
  /-- MXA_PERF_LOST.frozen -/
  frozen : W32 := 0
  /-- SEQ_GATHER_PERF: by_target, by_deadline, by_close -/
  gatherPerf : W16 × W16 × W16 := (0, 0, 0)
  /-- MXA_ARITH_STATUS.residue_errs -/
  residueErrs : W16 := 0
  /-- MXA_ARITH_STATUS.sat_events -/
  satEvents : W32 := 0
  /-- MXA_ARITH_STATUS.residue_fault -/
  residueFault : Bool := false
  /-- MXA_ARITH_STATUS.sat_seen -/
  satSeen : Bool := false
  /-- the array's defect, where it has one -/
  upset : Upset := {}
deriving DecidableEq, Repr

/-- A Plane's status register. -/
structure PlaneStatus where
  /-- blocks -/
  blocks : W32 := 0
  /-- index_errs -/
  indexErrs : W16 := 0
  /-- the Plane's defect, where it has one -/
  upset : Upset := {}
deriving DecidableEq, Repr


/-! ### The Dovetail (chapters 7 to 9) -/

/-- A score array (DVT_SCORE_STATUS). -/
structure ScoreArr where
  /-- residue_errs -/
  residueErrs : W16 := 0
  /-- sat_events -/
  satEvents : W32 := 0
  /-- residue_fault -/
  residueFault : Bool := false
  /-- sat_seen -/
  satSeen : Bool := false
  /-- the score array's defect, where it has one -/
  upset : Upset := {}
deriving DecidableEq, Repr

/-- A credit plan in force (R181). -/
structure Plan where
  /-- header (Table Cap-1) -/
  hdr : Block
  /-- layout epoch for which it holds; a switch may advance it (R206) -/
  epoch : W16
  /-- entries, four instance words for each expert (Table Cap-2) -/
  words : List Nat
deriving DecidableEq, Repr

/-- A credit bank: what an admitting step took at its grant (R188, R197, R207). -/
structure Bank where
  /-- the step's command -/
  cmd : CmdRef
  /-- its partition -/
  part : Nat
  /-- layout epoch at grant -/
  epoch : W16
  /-- layout table at grant: layer to instance words -/
  table : Map (List Nat)
  /-- availability at grant: layer × 2^14 + expert to out bits [3:0] and quarantined [4] -/
  avail : Map (BitVec 5)
  /-- the plans in force at grant, by layer, from which the bank is filled (R186, R188) -/
  plans : Map Plan := []
deriving DecidableEq, Repr

/-- The logits of one token: values at the logit exponent, and what saturated. -/
structure Logits where
  /-- logits -/
  l : List Int
  /-- clamp32 saturated -/
  sat : Bool := false
  /-- score arrays whose chain sum saturated (R173) -/
  arrays : List Nat := []
deriving DecidableEq, Repr

/-- One half of the logit store: the logits and exit logits of the tokens of a sub-batch; none for a token that is exited_in (R175). -/
structure Half where
  /-- the step -/
  cmd : CmdRef
  /-- first token -/
  first : Nat
  /-- its tokens -/
  toks : List (Option (Logits × Logits))
deriving DecidableEq, Repr

/-- What selection decides for a token (R168). -/
structure Select where
  /-- count -/
  count : Nat := 0
  /-- candidates: expert and p, in rank order -/
  cand : List (Nat × Nat) := []
  /-- m -/
  m : Int := 0
  /-- S -/
  sum : Nat := 0
  /-- experts that reach τ -/
  n : Nat := 0
deriving DecidableEq, Repr

/-- What a token's record holds (Table Score-4). -/
structure TokenScore where
  /-- selection -/
  sel : Select := {}
  /-- exited_in -/
  exited : Bool := false
  /-- exit_now -/
  exitNow : Bool := false
  /-- clamp32 saturated on its logits or exit logits -/
  sat : Bool := false
  /-- exit margin -/
  margin : Nat := 0
  /-- score arrays whose chain sum saturated -/
  arrays : List Nat := []
deriving DecidableEq, Repr

/-- What admission decides for one choice (R190). -/
structure Admitted where
  /-- choice -/
  c : Nat
  /-- expert served, or the chosen expert when dropped -/
  expert : Nat
  /-- instance -/
  inst : Nat := 0
  /-- rank served, or c -/
  rank : Nat
  /-- 0 ADMITTED, 1 OVERFLOWED, 2 SPILLED, 3 DROPPED -/
  disp : Nat
  /-- the chosen expert was quarantined -/
  qhit : Bool
  /-- gate weight -/
  g : Nat := 0
deriving DecidableEq, Repr

/-- What admission decides for a token. -/
structure AdmitToken where
  /-- count -/
  count : Nat
  /-- choices -/
  ch : List Admitted
  /-- A -/
  a : Nat
  /-- B -/
  b : Nat
deriving DecidableEq, Repr

/-- A step's credits as it spends them (R190, R191). -/
structure Spend where
  /-- credits spent: expert × 4 + instance -/
  used : Map Nat := []
  /-- cursors, by expert -/
  cursor : Map Nat := []
deriving DecidableEq, Repr

/-- What a Dovetail step does: it scores, it admits what was scored before, or it routes. -/
inductive StepKind where
  | score | admission | route
deriving DecidableEq, Repr

/-- A Dovetail step at work: a DVT_SCORE, a DVT_ADMIT, or a DVT_ROUTE until its units are formed. -/
structure DvtRun where
  /-- the command -/
  cmd : CmdRef
  /-- its partition -/
  part : Nat
  /-- LC -/
  lc : Bool
  /-- its place in the order of grants -/
  order : Nat
  /-- what it does -/
  kind : StepKind
  /-- its DVT_SCORE or DVT_ADMIT block -/
  blk : List Byte
  /-- its layer entry -/
  entry : Block
  /-- its normalisation table -/
  table : List Nat := []
  /-- tokens that the score arrays have taken -/
  scored : Nat := 0
  /-- tokens selected, in order -/
  picked : List TokenScore := []
  /-- tokens admitted, in order -/
  admitted : List AdmitToken := []
  /-- the credits it has spent -/
  spend : Spend := {}
deriving DecidableEq, Repr

/-- Where the return of a choice stands (R219). -/
inductive RetState where
  /-- not yet handed over: the step waits for a unit buffer (R410) -/
  | queued
  /-- sent, no return yet -/
  | sent
  /-- its return came with status OK and stands in the return buffer -/
  | served
  /-- returned unserved -/
  | unserved
deriving DecidableEq, Repr

/-- A dispatched choice of a combine slot (R219). -/
structure SlotChoice where
  /-- token index -/
  token : Nat
  /-- choice c -/
  c : Nat
  /-- expert served -/
  expert : Nat
  /-- instance -/
  inst : Nat
  /-- disposition -/
  disp : Nat
  /-- p of its rank -/
  p : Nat
  /-- g at admission -/
  g : Nat
  /-- ordinal (R211) -/
  ordinal : Nat
  /-- the host it was last sent to -/
  host : Nat
  /-- the layout epoch it was last sent under -/
  epoch : W16
  /-- return state -/
  st : RetState := .sent
  /-- it has been resent (R217) -/
  bounced : Bool := false
  /-- vfmt of its return -/
  vfmt : Nat := 0
deriving DecidableEq, Repr

/-- A combine slot that is held (R219). -/
structure CombineSlot where
  /-- the DVT_ROUTE that opened it -/
  cmd : CmdRef
  /-- its partition -/
  part : Nat
  /-- slot sequence number -/
  seq : Byte
  /-- layout epoch at the step's grant -/
  epoch : W16
  /-- DVT_ROUTE parameter block (Table Disp-3) -/
  blk : List Byte := []
  /-- layer -/
  layer : Nat := 0
  /-- tokens -/
  v : Nat := 0
  /-- elements of a vector -/
  d : Nat := 0
  /-- A of each token -/
  mass : List Nat := []
  /-- dispatched choices, by ordinal -/
  choices : List SlotChoice := []
  /-- per-opcode detail bits 0 to 3 of the step (R199) -/
  bits : Nat := 0
  /-- units handed over and choices dropped -/
  sentN : Nat := 0
  /-- choices dropped -/
  dropped : Nat := 0
  /-- the step runs with DET -/
  det : Bool := false
  /-- LC -/
  lc : Bool := false
  /-- DVT_ROUTE waits for its units to be written or refused -/
  routing : Bool := true
  /-- a return with grace = 1 came -/
  grace : Bool := false
  /-- a unit was resent -/
  resent : Bool := false
  /-- the DVT_COMBINE that waits on it -/
  comb : Option CmdRef := none
  /-- its parameter block (Table Disp-5) -/
  combBlk : List Byte := []
  /-- when it was granted -/
  combAt : Nat := 0
  /-- combine buffers drawn from the Yard: token and handle (R220, R410) -/
  bufs : List (Nat × Nat) := []
deriving DecidableEq, Repr

/-- A unit a host has received and may return (R216, R218). -/
structure RecvUnit where
  /-- expert -/
  expert : Nat
  /-- instance -/
  inst : Nat
  /-- unit number -/
  u : Nat
  /-- its descriptor (Table Disp-2) -/
  desc : Block
  /-- LC -/
  lc : Bool
  /-- it was served under a grace list -/
  grace : Bool
  /-- it has been returned -/
  returned : Bool := false
deriving DecidableEq, Repr

/-- An instance of a receive window (Table Disp-4) with its counts. -/
structure RecvInst where
  /-- the 32-byte entry -/
  entry : BitVec 256
  /-- next unit number -/
  next : Nat := 0
  /-- units taken against cap -/
  capUsed : Nat := 0
  /-- units taken against bounce_slots -/
  bounceUsed : Nat := 0
  /-- units taken against spill_slots -/
  spillUsed : Nat := 0
deriving DecidableEq, Repr

/-- An open receive window (R215). -/
structure RecvWin where
  /-- partition -/
  part : Nat
  /-- layer -/
  layer : Nat
  /-- step number -/
  step : Nat
  /-- instances -/
  insts : List RecvInst
  /-- units received -/
  units : List RecvUnit := []
deriving DecidableEq, Repr

/-- A unit that is being assembled (R563). -/
structure PartUnit where
  /-- source device ID of its packets -/
  src : Nat
  /-- return tag -/
  tag : Nat
  /-- kind -/
  kind : Nat
  /-- length of the whole unit -/
  len : Nat
  /-- payloads by offset -/
  pieces : Map (List Byte) := []
deriving DecidableEq, Repr

/-- The layout tables of a partition (R203 to R208). -/
structure Layout where
  /-- current table: layer to instance words -/
  current : Map (List Nat) := []
  /-- current layout epoch -/
  epoch : W16 := 0
  /-- layers loaded since the last switch -/
  staged : Map (List Nat) := []
  /-- previous table: the layers that the last switch replaced -/
  previous : Map (List Nat) := []
  /-- epoch before the last switch -/
  prevEpoch : Option W16 := none
  /-- grace list of the last switch: expert word and instance -/
  grace : List (Nat × Nat) := []
  /-- when its grace time ends -/
  graceEnd : Nat := 0
deriving DecidableEq, Repr

/-- The Dovetail. -/
structure DvtState where
  /-- valid layer entries (Table Score-1) -/
  layers : Map Block := []
  /-- valid normalisation tables, 1,024 entries each -/
  tables : Map (List Nat) := []
  /-- score arrays -/
  arrays : Map ScoreArr := []
  /-- the defect of the combine hardware, where it has one (R221) -/
  combineUpset : Upset := {}
  /-- DVT_ENGINE_STATUS.ucode_ver -/
  ucodeVer : W16 := 0
  /-- DVT_ENGINE_STATUS.logit_sat -/
  logitSat : W16 := 0
  /-- DVT_PERF_SEL.raised -/
  raised : W32 := 0
  /-- DVT_PERF_SEL.capped -/
  capped : W32 := 0
  /-- DVT_PERF_EXIT.exits -/
  exits : W32 := 0
  /-- DVT_PERF_EXIT.skipped -/
  skipped : W32 := 0
  /-- DVT_PERF_ADMIT.overflowed -/
  overflowed : W32 := 0
  /-- DVT_PERF_ADMIT.dropped -/
  dropped : W32 := 0
  /-- DVT_PERF_SPILL.spill_sent -/
  spillSent : W32 := 0
  /-- DVT_PERF_SPILL.spill_accepted -/
  spillAccepted : W32 := 0
  /-- DVT_PERF_HOST.spill_rejected -/
  spillRejected : W32 := 0
  /-- DVT_PERF_HOST.refused -/
  refused : W32 := 0
  /-- DVT_PERF_ROUTE.units_sent -/
  unitsSent : W32 := 0
  /-- DVT_PERF_ROUTE.bounces -/
  bounces : W16 := 0
  /-- DVT_PERF_ROUTE.stale_refused -/
  staleRefused : W16 := 0
  /-- DVT_PERF_COMBINE.grace_served -/
  graceServed : W32 := 0
  /-- DVT_PERF_COMBINE.missing -/
  missing : W32 := 0
  /-- DVT_RECV_STATUS.discarded -/
  discarded : W16 := 0
  /-- DVT_RECV_STATUS.stale_returns -/
  staleReturns : W16 := 0
  /-- plans in force by layer -/
  plans : Map Plan := []
  /-- availability: layer × 2^14 + expert to out bits [3:0] and quarantined [4] (R187) -/
  avail : Map (BitVec 5) := []
  /-- credit banks 0 to 3 held by steps -/
  banks : Map Bank := []
  /-- layout tables by partition -/
  layouts : Map Layout := []
  /-- steps at work (R175, R176) -/
  runs : List DvtRun := []
  /-- the sub-batch that streams on the score arrays: its step, its first token and its tokens -/
  stream : Option (CmdRef × Nat × Nat) := none
  /-- the halves of the logit store that hold logits -/
  halves : List Half := []
  /-- the step whose token the selection unit holds -/
  sel : Option CmdRef := none
  /-- combine slots held -/
  slots : Map CombineSlot := []
  /-- running DVT_ROUTEs whose combine slot a DVT_COMBINE has freed, by the slot's number (R222) -/
  loose : Map CombineSlot := []
  /-- slot sequence numbers (R211) -/
  slotSeq : Map Byte := []
  /-- open receive windows -/
  windows : Map RecvWin := []
  /-- units being assembled -/
  parts : List PartUnit := []
  /-- units returned through an open window, for a resend after a LOSS: window, destination, return tag, LC, bytes -/
  returns : List (Nat × Nat × Nat × Bool × List Byte) := []
deriving DecidableEq, Repr

/-! ### The Purlin (chapter 10) -/

/-- A loaded group (R228 to R230). -/
structure PrlGroup where
  /-- partition -/
  part : Nat
  /-- member device IDs by rank -/
  members : List Nat
  /-- group tag -/
  tag : W32
  /-- rank of this device -/
  rank : Nat
  /-- switch reduction context; 0xFF none -/
  swCtx : Byte
  /-- regular (R230) -/
  regular : Bool
deriving DecidableEq, Repr

/-- A message of a collective: its stage, the peer it goes to or comes from by rank (n for the switch), its kind and its units. -/
structure PrlMsg where
  /-- stage (Table Purlin-4) -/
  stage : Nat
  /-- peer -/
  peer : Nat
  /-- kind (Table Purlin-5) -/
  kind : Nat
  /-- first unit: a block of the row, or a granule -/
  lo : Nat
  /-- units -/
  n : Nat
deriving DecidableEq, Repr

/-- A contribution to a block: 32 terms, or none where no member contributed. -/
abbrev Terms := Option (List Int)

/-- A collective at work (R240 to R252). -/
structure Coll where
  /-- the command -/
  cmd : CmdRef
  /-- its partition -/
  part : Nat
  /-- group index -/
  gi : Nat
  /-- the group -/
  g : PrlGroup
  /-- opcode -/
  opc : Nat
  /-- parameter block (Table Purlin-2) -/
  blk : List Byte
  /-- it uses SW stages; blocks of a switch chunk, and chunk slots of a plane -/
  sw : Option (Nat × Nat) := none
  /-- send table and receive table of PRL_ALLTOALLV: offset and length or capacity -/
  tables : List (Nat × Nat) × List (Nat × Nat) := ([], [])
  /-- Yard buffers taken: use, draw and handle -/
  bufs : List (Nat × Nat × Nat) := []
  /-- POSTs sent: stage, part and rank. The part is 0, or the switch chunk that is resent directly (R246, log 55) -/
  posted : List (Nat × Nat × Nat) := []
  /-- POSTs held: stage, part, rank and bytes granted (R242) -/
  posts : List (Nat × Nat × Nat × Nat) := []
  /-- POSTs refused: stage, part, rank and when they are resent (R242) -/
  retry : List (Nat × Nat × Nat × Nat) := []
  /-- messages sent -/
  sent : List PrlMsg := []
  /-- messages received -/
  got : List PrlMsg := []
  /-- exponents received by block: none for a block without contribution -/
  exps : Map (List (Option Int)) := []
  /-- contributions received by block, with the stage they came in -/
  terms : Map (List (Nat × Terms)) := []
  /-- members' blocks received in in_fmt, by block -/
  raw : Map (List (Nat × List Int × Option Int)) := []
  /-- result blocks known: elements and scale -/
  res : Map (List Byte × List Byte) := []
  /-- destination units visible -/
  wrote : List (Nat × Nat) := []
  /-- chunks, or source regions, added to the chunk peg -/
  added : Nat := 0
  /-- all-to-all: source ranks whose region is settled -/
  regions : List Nat := []
  /-- all-to-all: bytes of a source's whole region, once known -/
  totals : Map Nat := []
  /-- ranks refused, or refusing (R249) -/
  refused : List Nat := []
  /-- DONEs sent: stage, part and rank -/
  doneTo : List (Nat × Nat × Nat) := []
  /-- DONEs received: stage, part and rank -/
  doneFrom : List (Nat × Nat × Nat) := []
  /-- switch chunks resent directly (R246) -/
  direct : List Nat := []
deriving DecidableEq, Repr

/-- A POST held in the early-post table (R242). -/
structure EarlyPost where
  /-- group tag -/
  tag : W32
  /-- collective sequence number -/
  seq : W16
  /-- stage -/
  stage : Nat
  /-- poster's device ID -/
  src : Nat
  /-- its offset, which names the switch chunk of a direct resend -/
  off : Nat
  /-- bytes granted -/
  granted : Nat
  /-- bytes 0 to 39 of its parameter block -/
  blk : List Byte
deriving DecidableEq, Repr

/-- A group that a relay still forwards after its own collective has ended (R250). -/
structure Relay where
  /-- group tag -/
  tag : W32
  /-- collective sequence number -/
  seq : W16
  /-- device ID of the group's sender -/
  src : Nat
  /-- bytes still to come -/
  left : Nat
  /-- its staging buffers -/
  bufs : List Nat
deriving DecidableEq, Repr

/-- The Purlin. -/
structure PrlState where
  /-- loaded groups -/
  groups : Map PrlGroup := []
  /-- collectives at work -/
  colls : List Coll := []
  /-- early-post table -/
  early : List EarlyPost := []
  /-- messages this device forwarded as a relay, for a LOSS (R250) -/
  staged : List Packet := []
  /-- groups still being relayed for collectives that have ended here (R250) -/
  relays : List Relay := []
  /-- the defect of the adders and requantizers (R238, log 122) -/
  upset : Upset := {}
  /-- PRL_STATUS.sat_events -/
  satEvents : W16 := 0
  /-- PRL_STATUS.stale_msgs -/
  staleMsgs : W16 := 0
  /-- PRL_PERF_BYTES.switch_gran -/
  switchGran : W32 := 0
  /-- PRL_PERF_BYTES.direct_gran -/
  directGran : W32 := 0
  /-- PRL_PERF_EVENTS.refused -/
  refused : W16 := 0
  /-- PRL_PERF_EVENTS.retries -/
  retries : W16 := 0
  /-- PRL_PERF_EVENTS.plane_resends -/
  planeResends : W16 := 0
  /-- PRL_PERF_EVENTS.relayed -/
  relayed : W16 := 0
deriving DecidableEq, Repr
/-! ### Links, routing and scheduling (chapters 11 to 13) -/

/-- Port states (Table Link-11), by code 0x0 to 0x8. -/
inductive PortState where
  | disabled | detect | equalize | align | card | check | up | managementOnly | failed
deriving DecidableEq, Repr

/-- A packet waiting at a port's egress (R335). -/
structure Queued where
  /-- the packet; route epoch and member epoch are stamped when it starts if this device injected it -/
  k : Packet
  /-- VC index (R262) -/
  vc : Nat
  /-- its shaper, if it has one -/
  shaper : Option Nat := none
  /-- injected by this device -/
  injected : Bool := false
  /-- when it was queued at the port -/
  at_ : Nat := 0
  /-- when it arrived at or was injected by the device -/
  since : Nat := 0
deriving DecidableEq, Repr

/-- A packet whose flits the replay buffer still holds (R310). -/
structure Sent where
  /-- the packet as sent -/
  k : Packet
  /-- VC index -/
  vc : Nat
  /-- sequence number after its last flit, on hall ports the frame sequence after its last frame; none while flits of it are still to leave -/
  last : Option W32
deriving DecidableEq, Repr

/-- A packet being received: its header and the payload flits so far. -/
structure Partial where
  /-- header -/
  hdr : Block
  /-- payload flits -/
  flits : List Block := []
deriving DecidableEq, Repr

/-- The long packet open on the transmit side (R275). -/
structure OpenTx where
  /-- the packet as it leaves -/
  k : Packet
  /-- payload flits sent -/
  next : Nat := 0
  /-- payload flits sent since its last preemption; 4 or more allow another -/
  spacing : Nat := 4
  /-- short packets in the present run -/
  run : Nat := 0
deriving DecidableEq, Repr

/-- A fabric port: its link layer, its registers and its egress. -/
structure Port where
  /-- PORT_STATUS.state -/
  st : PortState := .disabled
  /-- when the state was entered -/
  entered : Nat := 0
  /-- PORT_STATUS.reason -/
  reason : Nat := 0
  /-- halves active towards the peer, and from it: one bit each -/
  txHalves : Nat := 0
  /-- halves active from the peer -/
  rxHalves : Nat := 0
  /-- halves being trained again after widen, with the time it began -/
  widening : Option (Nat × Nat) := none
  /-- PORT_STATUS.version -/
  version : Byte := 0
  /-- PORT_STATUS.bound; none before a peer is bound -/
  bound : Option Nat := none
  /-- PORT_STATUS.peer_feature -/
  peerFeature : W16 := 0
  /-- PORT_STATUS.peer_epoch -/
  peerEpoch : W16 := 0
  /-- PEER: node kind, port, device ID, cube, plane, fenced -/
  peerKind : Nat := 0
  /-- PEER.peer_port -/
  peerPort : Nat := 0
  /-- PEER.peer_id -/
  peerId : BitVec 20 := 0
  /-- PEER.cube -/
  peerCube : Nat := 0
  /-- PEER.plane -/
  peerPlane : Nat := 0
  /-- PEER.fenced -/
  peerFenced : Bool := false
  /-- ERR.crc_errs -/
  crcErrs : W16 := 0
  /-- ERR.replays -/
  replays : W16 := 0
  /-- ERR.auth_errs -/
  authErrs : W16 := 0
  /-- ERR.degrades -/
  degrades : Byte := 0
  /-- ERR.link_downs -/
  linkDowns : Byte := 0
  /-- EVENT: bits 0 up, 1 down, 2 degrade, 3 swap, 4 mgmt_only, 5 version_fail, 6 malformed -/
  event : BitVec 7 := 0
  /-- DELAY -/
  delay : W32 := 0
  /-- it has been UP under the current route epoch (R299) -/
  upThisEpoch : Bool := false
  /-- when it last entered DETECT, or ALIGN after a link down -/
  trainAt : Nat := 0
  /-- while it establishes keys: the state it will enter -/
  target : Option PortState := none
  /-- CARD0 of a card that is not complete -/
  cardHalf : Option Block := none
  /-- hall: hall time at which the last IEEE 1588 message was received (R295) -/
  ptpAt : Option W64 := none
  /-- the peer's card, once complete -/
  card : Option (List Byte) := none
  /-- a CARD_ACK for this side's card has arrived -/
  cardAcked : Bool := false
  /-- when the card was last sent -/
  cardSent : Nat := 0
  /-- transmit: next new sequence number -/
  txSeq : W16 := 0
  /-- transmit: unacknowledged sequenced flits with their kinds, oldest first, as first transmitted (R267) -/
  replay : List (Nat × Block) := []
  /-- transmit: next sequence number to go out; behind txSeq while flits wait or are replayed (R269) -/
  sendAt : W16 := 0
  /-- transmit: link-control flits waiting that are not sequenced -/
  ctl : List Block := []
  /-- transmit: blocks sent under the present mapping, which choose the half (R257) -/
  blocks : Nat := 0
  /-- transmit: the mask that a WIDTH of the peer asks for, until the block with its ack leaves (R289) -/
  txNext : Option Nat := none
  /-- receive: the mapping under which the peer sends its blocks, one bit a half (R289) -/
  rxMap : Nat := 0
  /-- receive: blocks received under that mapping (R257) -/
  rxBlocks : Nat := 0
  /-- transmit: the long packet that is open (R275) -/
  txOpen : Option OpenTx := none
  /-- an acknowledgement has to go out (R268, R294) -/
  ackDue : Bool := false
  /-- transmit: packets with unacknowledged flits -/
  sent : List Sent := []
  /-- receive: next sequence number expected -/
  rxSeq : W16 := 0
  /-- receive: WAIT, with the RETRY_REQs sent for this number and the time of the last -/
  wait : Option (Nat × Nat) := none
  /-- transmit credits by VC index -/
  credits : Map Nat := []
  /-- last freed count accepted, by VC index -/
  freedIn : Map W16 := []
  /-- VCs whose freed count has changed since it was last sent (R273) -/
  creditDue : List Nat := []
  /-- flits freed here, by VC index (R273) -/
  freedOut : Map W16 := []
  /-- the long packet open on the receive side, by VC index, and the payload flits since the last preemption -/
  rxOpen : Option (Nat × Partial) := none
  /-- payload flits received since the last preemption; 4 or more allow another -/
  rxSpacing : Nat := 4
  /-- short packets in the present preemption run -/
  rxRun : Nat := 0
  /-- received flits of the open segment, with their kinds (R279) -/
  rxSegment : List (Nat × Block) := []
  /-- sequence number of the open receive segment's first flit -/
  rxSegSeq : W16 := 0
  /-- tag failures of one segment in a row -/
  tagFails : Nat := 0
  /-- transmit: flits of the open segment with their kinds, and when it opened (R277) -/
  txSegment : List (Nat × Block) := []
  /-- when the transmit segment opened -/
  txSegAt : Nat := 0
  /-- transmit segment counter -/
  txCounter : W64 := 0
  /-- transmit key slot in use -/
  txSlot : Nat := 0
  /-- receive key slot in use -/
  rxSlot : Nat := 0
  /-- link keys, 32 bytes of key and 4 of salt: slots 0 and 1 transmit, 2 and 3 receive (R476, R477) -/
  keys : Map Nat := []
  /-- key steps taken: transmit, receive (R477) -/
  steps : Nat × Nat := (0, 0)
  /-- no segment has verified under the keys of the last CHECK (R478) -/
  rxFirst : Bool := true
  /-- the TIME exchange of CHECK that this side started: t1, t2, t3 (R476) -/
  exMine : Option (W64 × W64 × W64) := none
  /-- the exchange that the peer started -/
  exPeer : Option (W64 × W64 × W64) := none
  /-- hall: header and payload flits that ride in the next DATA frame -/
  txFlits : List (Nat × Block) := []
  /-- hall: next frame sequence to send -/
  txFrame : W32 := 0
  /-- hall: the kinds and flits of the unacknowledged DATA frames, oldest first (R294) -/
  frames : List (List (Nat × Block)) := []
  /-- hall: next frame sequence expected -/
  rxFrame : W32 := 0
  /-- hall: when the last NAK was sent -/
  nakAt : Option Nat := none
  /-- hall: when an ack last advanced -/
  ackAt : Nat := 0
  /-- hall: MACsec secure association key, a handle; when it was last changed; packet numbers used -/
  sak : Option Nat := none
  /-- when the SAK was installed or MKA last heard -/
  sakAt : Nat := 0
  /-- hall: MACsec transmit packet number -/
  pn : W64 := 0
  /-- hall: lowest MACsec packet number that is still accepted -/
  rxPn : W64 := 0
  /-- when a flit or frame last passed its check -/
  heard : Nat := 0
  /-- when a HEARTBEAT was last sent -/
  beat : Nat := 0
  /-- when every credit count was last repeated -/
  creditAt : Nat := 0
  /-- when a TIME exchange was last begun -/
  timeAt : Nat := 0
  /-- virtual time V (R337) -/
  vtime : W32 := 0
  /-- finish tags F by flow: VC index × 2 + LC -/
  finish : Map W32 := []
  /-- flows whose head packet has its tag -/
  headed : List Nat := []
  /-- egress queue in order of arrival; a flow is the packets of one VC and LC flag -/
  queue : List Queued := []
  /-- when a REPORT last started here (R462) -/
  reportAt : Option Nat := none
  /-- last CTRL VC served -/
  ctrlNext : Nat := 0
  /-- header-sampling LFSRs: ingress, egress (R341) -/
  lfsrIn : W16 := 0
  /-- egress LFSR -/
  lfsrOut : W16 := 0
deriving DecidableEq, Repr

/-- An ordered flow (R313): destination × 2^16 + partition key. -/
structure Flow where
  /-- path key of its last packet: output port, plane, alternate position -/
  path : Nat × Option Nat × Option Nat := (0, none, none)
  /-- it is in REPATH -/
  repath : Bool := false
  /-- outstanding requests, by tag, in issue order -/
  open_ : List Nat := []
  /-- those of them declared lost -/
  lost : List Nat := []
deriving DecidableEq, Repr

/-- A neighbour a sweep packet may come from: a port and, through a cube plane, a position. -/
abbrev Neighbour := Nat × Nat

/-- Sweep participation (R319 to R322). -/
structure Sweep where
  /-- last number taken part in -/
  number : Option W32 := none
  /-- this device is the root of it -/
  root : Bool := false
  /-- parent -/
  parent : Option Neighbour := none
  /-- the root device -/
  rootId : BitVec 20 := 0
  /-- start hall time -/
  start : W64 := 0
  /-- member epoch in the last packet of each child (R321) -/
  epochs : List (Neighbour × W16) := []
  /-- it is in progress -/
  running : Bool := false
  /-- probes unanswered, with the time each was sent -/
  probes : List (Neighbour × Nat) := []
  /-- children, with the time each was last heard and whether each has sent SWEEP_DONE -/
  children : List (Neighbour × Nat × Bool) := []
  /-- devices in the subtree reported by children -/
  devices : Nat := 0
  /-- a child was lost or incomplete -/
  incomplete : Bool := false
  /-- late answers -/
  late : Nat := 0
  /-- when SWEEP_ALIVE was last sent -/
  aliveAt : Nat := 0
  /-- when the root's last sweep ended PARTIAL -/
  partialAt : Option Nat := none
  /-- follow-ups in a row -/
  followups : Nat := 0
  /-- ring entries written -/
  ringAt : Nat := 0
  /-- SWEEP_STATUS.ring_overflow -/
  overflow : Bool := false
  /-- SWEEP_STATUS.state -/
  state : Nat := 0
  /-- SWEEP_STATUS.number, devices and late -/
  status : W32 × Nat × Nat := (0, 0, 0)
  /-- when a sweep packet last started on each port (R319) -/
  lastSent : Map Nat := []
deriving DecidableEq, Repr

/-- A packet at the adapter of its source, in that source's queue order (R324, R329). -/
structure Crossing where
  /-- source endpoint (Table Truss-1): a fabric port, or an engine -/
  src : Nat
  /-- destination endpoint -/
  dst : Nat
  /-- the VC by which it came over a link, while the link's credits for it have not been returned (R273, R329) -/
  owed : Option Nat := none
  /-- the packet, as it will stand in the egress buffer -/
  q : Queued
  /-- frames of it that have been admitted -/
  cut : Nat := 0
deriving DecidableEq, Repr

/-- A frame inside the Truss (R324). The last frame of a packet stands for the packet's arrival. -/
structure TrussFrame where
  /-- source endpoint, destination endpoint and class, as one stream -/
  stream : Nat × Nat × Nat
  /-- LC bit of its Truss class -/
  lc : Bool
  /-- sequence number -/
  seq : BitVec 12
  /-- granules -/
  len : Nat
  /-- the packet, in its last frame -/
  whole : Option Queued
deriving DecidableEq, Repr

/-- A shaper's state (R338). -/
structure Shaper where
  /-- credit c in units of 2^-16 granule -/
  credit : Int := 0
  /-- time of the last update, in CLK_TRS cycles -/
  last : Nat := 0
  /-- calendar slot it waits in, counted from reset -/
  slot : Option Nat := none
deriving DecidableEq, Repr

/-- A queue sample (TRS_QSAMPLE). -/
structure QSample where
  /-- max_delay -/
  maxDelay : W16 := 0
  /-- delay -/
  delay : W16 := 0
  /-- max_depth -/
  maxDepth : W16 := 0
  /-- depth -/
  depth : W16 := 0
deriving DecidableEq, Repr

/-- The fabric: ports, routing tables, scheduling, sweeps. -/
structure FabState where
  /-- ports by fabric port number (R341) -/
  ports : Map Port := []
  /-- current copies of the table registers, by the staged register's BAR0 offset (R299) -/
  current : Map W64 := []
  /-- RTE_EPOCH.current_epoch -/
  epoch : W16 := 0
  /-- RTE_EPOCH.state: 0 RUN, 1 DRAIN, 2 SWITCH pending -/
  drain : Nat := 0
  /-- when the drain began -/
  drainAt : Nat := 0
  /-- RTE_DRAIN_STATUS: held_snap, rx_snap -/
  snap : W32 × W32 := (0, 0)
  /-- non-CTRL packets received or injected since the last snapshot -/
  rx : W32 := 0
  /-- RTE_ROUTE_ERR.no_route -/
  noRoute : W16 := 0
  /-- RTE_ROUTE_ERR.stale_route -/
  staleRoute : W16 := 0
  /-- RTE_ROUTE_ERR.in_doubt -/
  inDoubt : W16 := 0
  /-- RTE_ROUTE_ERR.hop_limit -/
  hopLimit : Byte := 0
  /-- RTE_ROUTE_ERR.wiring_err -/
  wiringErr : Byte := 0
  /-- planes reported down, by position: bit p set when PLANE_STATE reported plane p down since its port last entered UP (R302) -/
  planeDown : Map Nat := []
  /-- rotation of pick: the plane last taken, by destination position -/
  rotation : Map Nat := []
  /-- packets at the Truss adapters of which some frame is not admitted (R324, R326, R329) -/
  waiting : List Crossing := []
  /-- frames in the middle buffers: buffer, output core port and frame; the frames of one buffer and port are a FIFO (R325, R327) -/
  middle : List (Nat × Nat × TrussFrame) := []
  /-- frames that have reached their output and wait for an earlier one or for the rest of their packet (R328) -/
  arrived : List TrussFrame := []
  /-- frames admitted, by stream (R324) -/
  framesIn : Map (BitVec 12) := []
  /-- frames delivered in sequence, by stream (R328) -/
  framesOut : Map (BitVec 12) := []
  /-- the output core port last served, by input core port × 8 + level (R332) -/
  served : Map Nat := []
  /-- TRS_EGRESS_STATUS.max_used by core port -/
  egressMax : Map W16 := []
  /-- TRS_EGRESS_STATUS.bp_cycles by core port -/
  bpCycles : Map W32 := []
  /-- packets held at ingress for a staged epoch: port and packet (R315) -/
  held : List (Nat × Packet) := []
  /-- packets held at the source while the device drains: partition, the port of a packet that is never routed, and packet (R316) -/
  heldTx : List (Option Nat × Option Nat × Packet) := []
  /-- packets delivered to this device and not yet taken by an engine: port of arrival and packet -/
  inbox : List (Nat × Packet) := []
  /-- hall time at which the first port of the device reached UP or MANAGEMENT_ONLY (R320) -/
  firstUp : Option W64 := none
  /-- the hall port that the best master clock algorithm has chosen to receive time (R295) -/
  timePort : Option Nat := none
  /-- ordered flows (R313) -/
  flows : Map Flow := []
  /-- sweep -/
  sweep : Sweep := {}
  /-- shapers -/
  shapers : Map Shaper := []
  /-- queue samples: fabric port × 32 + VC index -/
  qsample : Map QSample := []
  /-- when the queues were last sampled -/
  sampledAt : Nat := 0
  /-- TEL_HDR_PROD.prod -/
  telProd : W32 := 0
  /-- TEL_HDR_PROD.dropped -/
  telDropped : W32 := 0
  /-- sample number -/
  telNumber : W32 := 0
deriving DecidableEq, Repr


/-! ### Remote operations and the Clamp (chapter 14) -/

/-- A tag in use: an outstanding request (R352, R353). -/
structure Tag where
  /-- the command it belongs to -/
  cmd : CmdRef
  /-- where its bytes begin in the command -/
  off : Nat
  /-- its bytes -/
  len : Nat
  /-- the request as last issued -/
  k : Packet
  /-- when it was last issued -/
  at_ : Nat
deriving DecidableEq, Repr

/-- A remote-operation command at work (R349, R358). -/
structure RemJob where
  /-- the command -/
  cmd : CmdRef
  /-- its partition -/
  part : Nat
  /-- the peer device -/
  peer : Nat
  /-- the window record as it was when the command began (Table Rem-1) -/
  win : BitVec 256
  /-- bytes for which requests have been issued -/
  next : Nat := 0
  /-- bytes in all -/
  total : Nat
  /-- bytes whose reply was OK -/
  good : Nat := 0
  /-- the failure at the lowest offset so far -/
  fail : Option (Nat × Err) := none
  /-- no further request is issued: its own memory failed -/
  halted : Bool := false
  /-- result of an atomic operation -/
  result : W64 := 0
deriving DecidableEq, Repr

/-- A served record (R355), with the detail of its status. -/
structure Served where
  /-- incarnation -/
  inc : W16 := 0
  /-- status -/
  st : Status := .ok
  /-- its detail -/
  det : Nat := 0
  /-- result -/
  result : W64 := 0
deriving DecidableEq, Repr

/-- An open read entry of the Clamp (R360). -/
structure ReadEntry where
  /-- partition key -/
  key : Nat
  /-- target address -/
  addr : Nat
  /-- length -/
  len : Nat
  /-- its space -/
  sp : Space
  /-- the physical granules it covers -/
  grans : List Nat
  /-- when it was opened -/
  at_ : Nat
deriving DecidableEq, Repr

/-- A fetch-add that waits in a group or a batch (R361 to R365). -/
structure FaddMember where
  /-- requester -/
  src : Nat
  /-- tag -/
  tag : Nat
  /-- incarnation -/
  inc : W16
  /-- addend -/
  addend : W64
  /-- partition -/
  part : Nat
  /-- target byte address in the partition's Loft space -/
  addr : Nat
  /-- accept_torn -/
  accept : Bool
  /-- partition key -/
  key : Nat
  /-- LC -/
  lc : Bool
  /-- the combined packet it came in, by number -/
  comb : Option Nat := none
  /-- the Yard buffer of the group it opened (R410) -/
  buf : Option Nat := none
  /-- ORDERED (R357) -/
  ordered : Bool := false
deriving DecidableEq, Repr

/-- The Clamp's groups on one Loft word that has an update in progress (R361). -/
structure HotWord where
  /-- when the update in progress started -/
  started : Nat := 0
  /-- groups and batches closed and not yet applied, oldest first, each with the status of its members -/
  closed : List (Status × List FaddMember) := []
  /-- the open group, with the time it was opened -/
  open_ : Option (Nat × List FaddMember) := none
deriving DecidableEq, Repr

/-- A batch that is not complete (R363). -/
structure Batch where
  /-- physical Loft byte of the word -/
  word : Nat
  /-- batch id -/
  id : Nat
  /-- batch_n -/
  n : Nat
  /-- arrival of the first member -/
  first : Nat
  /-- members, in order of arrival -/
  members : List FaddMember
deriving DecidableEq, Repr

/-- An MFADD whose reply is owed (R366). -/
structure Combined where
  /-- the port it arrived on -/
  port : Nat
  /-- the request -/
  k : Packet
  /-- member requester, tag, incarnation, and its outcome once known -/
  members : List (Nat × Nat × W16 × Option (Err × W64))
deriving DecidableEq, Repr

/-- The remote-operation engine and the Clamp. -/
structure RemState where
  /-- valid entries of the Remote Window Table (Table Rem-1) -/
  windows : Map (BitVec 256) := []
  /-- tags in use -/
  tags : Map Tag := []
  /-- incarnation of each tag -/
  incs : Map W16 := []
  /-- when a tag was freed -/
  freedAt : Map Nat := []
  /-- commands at work, oldest first -/
  jobs : List RemJob := []
  /-- served table: source in-cube position × 65,536 + tag -/
  served : Map Served := []
  /-- open read entries -/
  reads : List ReadEntry := []
  /-- words with an update in progress, by physical Loft byte -/
  words : Map HotWord := []
  /-- incomplete batches -/
  batches : List Batch := []
  /-- MFADDs whose reply is owed, by number -/
  combs : Map Combined := []
  /-- next number -/
  nextComb : Nat := 0
  /-- requests that have passed checks 1 to 3 of R354 and wait, with the port they came by, in order of arrival (R357, R361, R371) -/
  waiting : List (Nat × Packet) := []
  /-- REM_CLAMP_PERF.reads_combined -/
  readsCombined : W32 := 0
  /-- REM_CLAMP_PERF.fadds_combined -/
  faddsCombined : W32 := 0
  /-- REM_ERR.misrouted -/
  misrouted : W16 := 0
  /-- REM_ERR.stale -/
  stale : W16 := 0
  /-- REM_ERR.repeats -/
  repeats : W16 := 0
  /-- REM_ERR.batch_timeouts -/
  batchTimeouts : W16 := 0
deriving DecidableEq, Repr

/-! ### Memory tiers (chapter 15) -/

/-- Tier of a plank (Table Tier-2). -/
inductive Tier where
  | none | hbm | flash | both | moving
deriving DecidableEq, Repr

/-- A plank map entry (Table Tier-2). -/
structure Plank where
  /-- tier -/
  tier : Tier := .none
  /-- HBM content differs from the flash copy -/
  dirty : Bool := false
  /-- torn -/
  torn : Bool := false
  /-- digest_valid -/
  digestValid : Bool := false
  /-- member of the checkpoint set -/
  ckpt : Bool := false
  /-- bit i set when the copy in Ledger slot i differs -/
  cdirty : BitVec 2 := 0
  /-- DEMOTE skips the plank -/
  pinned : Bool := false
  /-- HBM frame -/
  frame : Nat := 0
  /-- SSD of the flash copy -/
  ssd : Nat := 0
  /-- first LBA of the flash copy -/
  lba : Nat := 0
  /-- digest (R380) -/
  digest : W64 := 0
  /-- last remote writer -/
  writer : BitVec 20 := 0
  /-- remote_valid -/
  remoteValid : Bool := false
  /-- hall time [µs] of that write -/
  time : W32 := 0
  /-- while MOVING: the tier it leaves and whether it ends in FLASH (DEMOTE) or BOTH (CLEAN) -/
  move : Option (Tier × Bool) := Option.none
  /-- while MOVING: the dirty bit it had -/
  wasDirty : Bool := false
  /-- a FLASH plank being promoted: its frame is taken and its read is outstanding -/
  loading : Bool := false
deriving DecidableEq, Repr

/-- An entry of the Loft plank table (R373): one for each 64 KiB of the Loft. -/
structure LoftPlank where
  /-- torn -/
  torn : Bool := false
  /-- last remote writer -/
  writer : BitVec 20 := 0
  /-- remote_valid -/
  remoteValid : Bool := false
  /-- hall time [µs] of that write -/
  time : W32 := 0
deriving DecidableEq, Repr

/-- States of a KV sequence (R391). -/
inductive SeqState where
  | queued | running | suspended | gone
deriving DecidableEq, Repr

/-- An entry of the sequence table (R390). -/
structure Seq where
  /-- LC class -/
  lc : Bool := false
  /-- priority, 0 highest -/
  prio : Nat := 0
  /-- speculative depth -/
  d : Nat := 0
  /-- tokens -/
  len : Nat := 0
  /-- KV bytes per token -/
  kvb : Nat := 1
  /-- first plank -/
  first : Nat := 0
  /-- max planks -/
  max : Nat := 0
  /-- planks held -/
  held : Nat := 0
  /-- state -/
  st : SeqState := .gone
  /-- arrival number -/
  arrival : Nat := 0
  /-- the partition -/
  part : Nat := 0
  /-- the waiting SEQ_JOIN -/
  join : Option CmdRef := Option.none
  /-- the pending SEQ_LEAVE -/
  leave : Option CmdRef := Option.none
deriving DecidableEq, Repr

/-- State of an SSD (FLS_SSD_STATUS). -/
inductive SsdState where
  | absent | ready | failed | removed
deriving DecidableEq, Repr

/-- An SSD behind the NVMe root ports (R384). -/
structure Ssd where
  /-- state -/
  st : SsdState := .absent
  /-- flash planks in the namespace -/
  capacity : W32 := 0
  /-- commands failed by the SSD -/
  errors : W16 := 0
  /-- I/O queue pairs -/
  ioQueues : BitVec 4 := 0
deriving DecidableEq, Repr

/-- A Ledger of one partition (R393): where its slots and record copies lie, and its current record. -/
structure Ledger where
  /-- LEDGER_OPEN completed -/
  isOpen : Bool := false
  /-- CKPT_COMMIT in progress -/
  committing : Bool := false
  /-- slot of the current record -/
  slot : Nat := 0
  /-- sequence of the current record -/
  sequence : Nat := 0
  /-- Ledger id -/
  id : W64 := 0
  /-- SSD mask -/
  mask : Nat := 0
  /-- slot capacity in planks -/
  cap : Nat := 0
  /-- base LBA of slot 0 and slot 1 -/
  base : Nat × Nat := (0, 0)
  /-- SSD and LBA of record copy 0 -/
  rec0 : Nat × Nat := (0, 0)
  /-- SSD and LBA of record copy 1 -/
  rec1 : Nat × Nat := (0, 0)
  /-- the plank at each slot position: the position each ckpt plank took at its first commit -/
  pos : List Nat := []
  /-- flash planks charged -/
  charged : Nat := 0
  /-- storage tag bound into its key when it was opened (R472) -/
  tag : W64 := 0
  /-- the record that a commit in progress writes (R394) -/
  record : List Byte := []
deriving DecidableEq, Repr

/-- A key of flash contents (R382, Table Sec-4). -/
inductive StoreKey where
  /-- the flash tier key of a partition, as drawn for the gen-th time -/
  | tier (part gen : Nat)
  /-- a Ledger key: it depends on the Ledger id and the storage tag -/
  | ledger (id tag : W64)
deriving DecidableEq, Repr

/-- What an LBA of flash was encrypted with: its key, and the plank and the use in its tweak (R382). -/
structure Seal where
  /-- key -/
  key : StoreKey
  /-- plank index -/
  plank : Nat
  /-- use: 0 tier copy, 1 and 2 Ledger slots, 3 Ledger record -/
  use : Nat
deriving DecidableEq, Repr

/-- What an outstanding NVMe operation is for. -/
inductive NvmeFor where
  /-- the flash write of a MOVING plank, by map key -/
  | save (key : Nat)
  /-- the flash read of a plank being promoted -/
  | load (key : Nat)
  /-- the writes of LEDGER_OPEN, CKPT_COMMIT or CKPT_RESTORE at their given phase, of a partition -/
  | ledger (part phase : Nat)
deriving DecidableEq, Repr

/-- An outstanding NVMe operation (R384). -/
structure NvmeOp where
  /-- the SSD -/
  ssd : Nat
  /-- purpose -/
  for_ : NvmeFor
  /-- the command it belongs to -/
  cmd : CmdRef
  /-- first LBA -/
  lba : Nat := 0
  /-- 0 read, 1 write, 2 Flush -/
  dir : Nat := 0
  /-- it has been sent; otherwise it waits, since 64 plank transfers are outstanding on its SSD (R385) -/
  sent : Bool := true
deriving DecidableEq, Repr

/-- A SEQ_STEP in progress (R392). -/
structure SeqStep where
  /-- the command -/
  cmd : CmdRef
  /-- record array -/
  recs : Nat
  /-- the records so far: 8 bytes each -/
  out : List Byte := []
  /-- a sequence has been suspended at this boundary -/
  suspendedAny : Bool := false
  /-- admitted, suspended, left, completed NO_PLANK -/
  counts : Nat × Nat × Nat × Nat := (0, 0, 0, 0)
  /-- every phase is done; only moves are awaited -/
  last : Bool := false
  /-- flash planks that its suspensions may still take, held against the quota (R376) -/
  held : Nat := 0
deriving DecidableEq, Repr

/-- The tiers: planks, sequences, SSDs and Ledgers. -/
structure TierState where
  /-- plank maps: partition × 2^26 + plank index -/
  planks : Map Plank := []
  /-- Loft plank table -/
  loftPlanks : Map LoftPlank := []
  /-- poisoned granules (R446) of the Loft -/
  loftPoison : List Nat := []
  /-- poisoned granules of HBM -/
  hbmPoison : List Nat := []
  /-- poisoned granules of the benches -/
  benchPoison : List Nat := []
  /-- LFT_BAY_CFG.busy with the time it was set -/
  bayBusy : Map Nat := []
  /-- sequence table -/
  seqs : Map Seq := []
  /-- HBM_TIER_ERR.digest_mismatch -/
  digestMismatch : W16 := 0
  /-- HBM_TIER_ERR.torn_marked -/
  tornMarked : W32 := 0
  /-- HBM_TIER_ERR.cancelled_demotes -/
  cancelledDemotes : W16 := 0
  /-- the scrubber's place: the last (partition × 2^26 + plank) visited -/
  scrubAt : Option Nat := Option.none
  /-- when the scrubber last visited a plank -/
  scrubTime : Nat := 0
  /-- SSDs -/
  ssds : Map Ssd := []
  /-- rotation of tier copies over the SSDs (R385) -/
  ssdNext : Nat := 0
  /-- outstanding NVMe operations by tag -/
  nvme : Map NvmeOp := []
  /-- next NVMe tag -/
  nextNvme : Nat := 0
  /-- SEQ_STEP in progress by partition -/
  steps : Map SeqStep := []
  /-- Ledgers by partition -/
  ledgers : Map Ledger := []
  /-- how flash is encrypted, by LBA: SSD × 2^44 + LBA (R382) -/
  seals : Map Seal := []
  /-- how often a partition's flash tier key has been drawn (Table Sec-4) -/
  tierKeys : Map Nat := []
  /-- writes from devices declared dead: (device, hall time of the bump [µs]) (Table Tier-5) -/
  dead : List (BitVec 20 × W32) := []
deriving DecidableEq, Repr

/-! ### The Yard buffer pool (chapter 16) -/

/-- A request that waits in the Yard (R407): a YARD_ALLOC, or an engine's draw for a command. -/
structure YardWait where
  /-- use code of the drawer: 0 a YARD_ALLOC (Table Yard-3) -/
  use : Nat
  /-- the command -/
  cmd : CmdRef
  /-- which of the command's draws: a reduce stage, or the sender whose group is relayed -/
  ix : Nat := 0
  /-- LC -/
  lc : Bool
  /-- buffers -/
  n : Nat
deriving DecidableEq, Repr

/-- A valid pool (R397, R398). Its free ring and state words lie in its metadata region. -/
structure Pool where
  /-- the pool is in FAULT -/
  faulty : Bool := false
  /-- use code -/
  use : Nat
  /-- log2 of the buffer size -/
  log2 : Nat
  /-- buffers -/
  count : Nat
  /-- the buffer area lies in the tiered space -/
  tiered : Bool
  /-- its base -/
  base : Nat
  /-- metadata base in the tiered space -/
  meta_ : Nat
  /-- owning partition -/
  owner : Nat
  /-- cached indices, the most recently returned first (R405) -/
  cache : List Nat
  /-- ring entries taken -/
  head : Nat
  /-- ring entries written -/
  tail : Nat
  /-- buffers removed from the pool (R405) -/
  gone : List Nat := []
  /-- waiting requests, in order of arrival -/
  waiters : List YardWait := []
deriving DecidableEq, Repr

/-- The Yard. -/
structure YardState where
  /-- valid pools -/
  pools : Map Pool := []
  /-- handles served to waiting engine draws and not yet taken up by the engine -/
  served : List (YardWait × Nat) := []
  /-- YRD_ERR.double_free -/
  doubleFree : W16 := 0
  /-- YRD_ERR.stale -/
  stale : W16 := 0
  /-- YRD_ERR.ref_err -/
  refErr : W16 := 0
  /-- YRD_ERR.lost -/
  lost : W16 := 0
  /-- YRD_DF_LOG.valid -/
  logValid : Bool := false
  /-- YRD_DF_LOG: kind, src, handle of the last event logged, if there was one -/
  log : Option (Bool × Nat × W32) := none
deriving DecidableEq, Repr

/-! ### Partitions (chapter 17) -/

/-- An open breach (R434). -/
structure Breach where
  /-- breach id -/
  id : Nat
  /-- partition -/
  part : Nat
  /-- guarantee broken -/
  broken : Nat
  /-- guarantee kept -/
  kept : Nat
  /-- cause (Table Part-6) -/
  cause : Nat
  /-- queue, if one is named -/
  queue : Option Nat := none
  /-- start, hall time -/
  start : W64
  /-- cause detail -/
  detail : W64
  /-- ring index of the open record -/
  index : Nat
deriving DecidableEq, Repr

/-- A breach ring's counters (PAR_BREACH_STATUS). -/
structure BreachRing where
  /-- records written -/
  prod : W32 := 0
  /-- records dropped -/
  dropped : W16 := 0
deriving DecidableEq, Repr

/-- What one array saved at a preemption (R135 to R137). -/
structure SavedArr where
  /-- the array -/
  array : Nat
  /-- sequencer record, listed VLU registers and tables; the rest zero -/
  arr : Arr
  /-- listed bench bytes, by bench offset -/
  lines : List (Nat × List Byte)
  /-- listed Loft bytes, by address in the partition's Loft space -/
  grans : List (Nat × List Byte)
  /-- where its share of the save area begins, and its bytes -/
  at_ : Nat
  /-- save size -/
  n : Nat
deriving DecidableEq, Repr

/-- A resume entry (R425). -/
structure Resume where
  /-- partition -/
  part : Nat
  /-- the launch's command -/
  cmd : CmdRef
  /-- its packet -/
  pkt : Block
  /-- the arrays saved, in the order in which they stopped -/
  arrs : List SavedArr := []
  /-- the launch has completed PREEMPTED -/
  stopped : Bool := false
  /-- acct_detail was 1 when the launch reached the issue point (R431) -/
  acct : Bool := false
deriving DecidableEq, Repr

/-- A PAR_PREEMPT in progress (R424). -/
structure Preempt where
  /-- the command -/
  cmd : CmdRef
  /-- target partition -/
  part : Nat
  /-- save area in the target's tiered space -/
  area : Nat
  /-- its length -/
  len : Nat
  /-- bytes used -/
  used : Nat := 0
  /-- launches under request that have not completed -/
  launches : List CmdRef := []
  /-- granted Dovetail steps that a preemption of the whole partition waits for (R176) -/
  steps : List CmdRef := []
  /-- launches completed PREEMPTED -/
  done : Nat := 0
  /-- launches that passed a mark -/
  passed : List CmdRef := []
deriving DecidableEq, Repr

/-- Partition bookkeeping. -/
structure ParState where
  /-- breach rings by partition -/
  rings : Map BreachRing := []
  /-- next breach id -/
  breachId : Nat := 0
  /-- open breaches -/
  breaches : List Breach := []
  /-- PAR_QDONE.completed by queue -/
  completed : Map (BitVec 48) := []
  /-- PAR_QDONE.preempts by queue -/
  preempts : Map W16 := []
  /-- PAR_QWAIT by queue -/
  waitNs : Map W64 := []
  /-- the accounting buffer (R431): updates that have not reached their counters, oldest first: a queue and its wait, or a PREEMPTED record -/
  acctBuffer : List (Nat × Option Nat) := []
  /-- regulators (R419), with their credit: 6 × partition + 2 × point + class -/
  regs : Map Shaper := []
  /-- partitions whose queues are held by a PAR_PREEMPT of scope PARTITION (R424) -/
  held : List Nat := []
  /-- PAR_PREEMPTs in progress -/
  requests : List Preempt := []
  /-- resume entries taken, 0 to 255 -/
  resumes : Map Resume := []
  /-- serials of the resume entries -/
  serials : Map Byte := []
  /-- resume entries that a PAR_RESUME has still to restore, with its command: their arrays are not free (R428) -/
  resuming : List (CmdRef × Nat) := []
  /-- DET_STATUS.sr_refused by partition -/
  srRefused : Map W16 := []
  /-- DET_STATUS.combine_breaches by partition -/
  combineBreaches : Map W16 := []
  /-- DET_STATUS.unbatched_fadd by partition -/
  unbatchedFadd : Map W32 := []
  /-- partitions reset since the device was fenced (R452) -/
  resetSince : List Nat := []
deriving DecidableEq, Repr

/-! ### Faults, leases and verdicts (chapter 19) -/

/-- Reports a kingpost is merging (R462). -/
structure Merge where
  /-- the suspect -/
  suspect : BitVec 20
  /-- kind of the first report -/
  kind : Nat
  /-- level it came at: 0 to a kingpost, 1 to the cube kingpost -/
  level : Nat
  /-- reporters merged -/
  count : Nat
  /-- when the first arrived -/
  first : Nat
  /-- hall time of the first suspicion -/
  suspected : W64
  /-- the merged report has been sent -/
  closed : Bool := false
deriving DecidableEq, Repr

/-- Fault, lease and verdict state. -/
structure FltState where
  /-- FLT_LEASE.fenced -/
  fenced : Bool := false
  /-- member epoch -/
  epoch : W16 := 0
  /-- FLT_MEMBER.lease_en -/
  leaseEn : Bool := false
  /-- member mask of the cube -/
  mask : W64 := 0
  /-- latest echoed send time -/
  echo : W64 := 0
  /-- when the lease began or was last extended, for expiry -/
  leaseFrom : Option W64 := none
  /-- verdict history: 16 entries (epoch, dead, valid), newest last -/
  hist : Map W64 := []
  /-- next history entry to evict -/
  histNext : Nat := 0
  /-- FLT_STATUS.stale_epoch -/
  staleEpoch : W16 := 0
  /-- FLT_STATUS.fenced_sent -/
  fencedSent : W16 := 0
  /-- FLT_STATUS.reports_merged -/
  reportsMerged : W16 := 0
  /-- FLT_STATUS.verdicts -/
  verdicts : Byte := 0
  /-- FLT_STATUS.gap -/
  gap : Bool := false
  /-- FLT_EVENT_PROD.prod -/
  evProd : W32 := 0
  /-- FLT_EVENT_PROD.dropped -/
  evDropped : W32 := 0
  /-- last class-0 record of each source unit × 256 + instance -/
  class0 : Map Nat := []
  /-- last LEASE_REQ from each in-cube position -/
  lastReq : Map Nat := []
  /-- when the device last sent LEASE_REQ -/
  reqSent : Option Nat := none
  /-- merges in progress or closed -/
  merges : List Merge := []
  /-- suspects reported in this member epoch -/
  reported : List (BitVec 20) := []
  /-- in-cube positions reported SILENT or SELF_FENCED in this member epoch, with the kind (R450) -/
  leaseReported : List (Nat × Nat) := []
  /-- when FENCED was last sent on each port -/
  fencedAt : Map Nat := []
deriving DecidableEq, Repr
/-! ### Security (chapter 20) -/

/-- Keys and boot state of the security core. -/
structure SecState where
  /-- fabric key, 32 bytes as a number; none while none is held -/
  fabricKey : Option Nat := none
  /-- SEC_KEY_STATUS.fabric_gen -/
  fabricGen : W32 := 0
  /-- CKN and CAK of each hall port, 48 bytes as a number -/
  cak : Map Nat := []
  /-- SEC_KEY_STATUS.part_keys -/
  partKeys : Byte := 0
  /-- SEC_STATUS.unlock_fails -/
  unlockFails : Nat := 0
  /-- SEC_STATUS.lifecycle -/
  lifecycle : BitVec 4 := 2
  /-- SEC_STATUS.debug_level -/
  debugLevel : BitVec 4 := 0
  /-- SEC_STATUS.reset_cause: bits 0 voltage to 4 debug unlock -/
  resetCause : BitVec 5 := 0
  /-- SEC_STATUS.storage_root -/
  storageRoot : Bool := true
  /-- SEC_STATUS.identity_ok -/
  identityOk : Bool := true
  /-- SEC_STATUS.boot_ok -/
  bootOk : Bool := true
  /-- the seed is disabled until power-on or PERST# (R481) -/
  seedOff : Bool := false
  /-- SEC_BOOT_STATUS.select_seq, whole -/
  selectSeq : W64 := 0
  /-- SEC_BOOT_STATUS.image_svn -/
  imageSvn : Byte := 0
  /-- SEC_BOOT_STATUS.fused_svn -/
  fusedSvn : Byte := 0
  /-- SEC_BOOT_STATUS.fail_this -/
  failThis : Byte := 0
  /-- SEC_BOOT_STATUS.fail_other -/
  failOther : Byte := 0
  /-- SEC_BOOT_STATUS.slot -/
  slot : Nat := 0
  /-- which draw of the random generator SEC_DEBUG_NONCE shows -/
  nonceAt : Nat := 0
  /-- words of SEC_FM_ANCHOR written since the last reset -/
  anchored : List Nat := []
  /-- open secured sessions; true where mutual authentication has succeeded (R474) -/
  sessions : List Bool := []
  /-- boot flash, by byte -/
  xspi : Mem := []
deriving DecidableEq, Repr

/-! ### Power, the Brace, clocks, hall time and resets (chapter 21) -/

/-- Power, clocks, hall time and reset state. Currents are in units of 10 mA. -/
structure PwrState where
  /-- VAUX3P3 is in range -/
  aux : Bool := true
  /-- the regulators run from VIN12 -/
  rails : Bool := true
  /-- PERST# is asserted -/
  perst : Bool := false
  /-- configuration is ready: the device answers BAR accesses (R525) -/
  ready : Bool := true
  /-- RST_STATUS.fw_ready -/
  fwReady : Bool := false
  /-- RST_STATUS.last_reset -/
  lastReset : BitVec 4 := 0
  /-- RST_STATUS.part_busy: partitions whose reset is in progress -/
  partBusy : List Nat := []
  /-- partition resets that wait for an FLR of their function (R510) -/
  partPending : List Nat := []
  /-- the Brace's target T -/
  target : Nat := 0
  /-- PWR_BRACE.burn, in 64ths of 10 mA -/
  burn : Nat := 0
  /-- PWR_BRACE.duty in 64ths -/
  duty : Nat := 0
  /-- the duty cap of R496 in 64ths -/
  dutyCap : Nat := 64
  /-- PWR_BRACE.steps_down -/
  stepsDown : W16 := 0
  /-- 50 MHz steps of CLK_ARR below the grade's frequency: PWR_STATUS.clk_arr -/
  stepsBelow : Nat := 0
  /-- when CLK_ARR last stepped -/
  stepAt : Option Nat := none
  /-- when the duty cap last moved -/
  capAt : Option Nat := none
  /-- BRAKE_N is asserted -/
  brakeN : Bool := false
  /-- PWR_STATUS.braked -/
  braked : Bool := false
  /-- PWR_STATUS.thermtrip -/
  thermtrip : Bool := false
  /-- PWR_STATUS.hotspot -/
  hotspot : Bool := false
  /-- PWR_STATUS.vin_low -/
  vinLow : Bool := false
  /-- VIN12 has been below 11.2 V since it was last 11.2 V: the brake of R499 holds -/
  vinBrake : Bool := false
  /-- PWR_STATUS.limited -/
  limited : Bool := false
  /-- PWR_STATUS.unmet -/
  unmet : Bool := false
  /-- ALERT_N is asserted -/
  alert : Bool := false
  /-- CLK_STATUS.locked -/
  locked : BitVec 25 := 0
  /-- CLK_STATUS.ref_lost -/
  refLost : BitVec 5 := 0
  /-- TIM_STATUS.state: 0 FREE, 1 ACQUIRING, 2 LOCKED, 3 HOLDOVER -/
  timState : BitVec 4 := 0
  /-- TIM_STATUS.offset -/
  timOffset : W32 := 0
  /-- the counter has been stepped to the source since the source was chosen -/
  stepped : Bool := false
  /-- nanoseconds still to be slewed (R504) -/
  slew : Int := 0
  /-- progress towards the next slewed nanosecond, in millionths -/
  slewAt : Nat := 0
  /-- TIME_1PPS_OUT: when it last rose -/
  ppsAt : Option Nat := none
deriving DecidableEq, Repr


/-! ### Host interface (chapter 22) -/

/-- A function's error log (R524): CSR_ERR_LOG. -/
structure ErrLog where
  /-- an event is latched -/
  valid : Bool := false
  /-- kind of the first event -/
  kind : BitVec 4 := 0
  /-- width code -/
  width : BitVec 3 := 0
  /-- events since valid was last clear -/
  count : Byte := 0
  /-- BAR code -/
  bar : BitVec 2 := 0
  /-- a write -/
  write : Bool := false
  /-- offset in the BAR -/
  offset : BitVec 36 := 0
deriving DecidableEq, Repr

/-- Who holds the device for a firmware update (R534). -/
inductive Updater where
  | pldm | commands | recovery
deriving DecidableEq, Repr

/-- Steps of a PLDM firmware update (R533). -/
inductive UpdateStep where
  | idle | download | verify | apply
deriving DecidableEq, Repr

/-- Host-side state: error logs, MSI-X, firmware update, management endpoint. -/
structure HostState where
  /-- error logs by function -/
  errLog : Map ErrLog := []
  /-- vectors that the MSI-X table does not mask: function × 2,048 + vector; a vector is masked at reset (PCIe base specification) -/
  unmasked : List Nat := []
  /-- functions whose MSI-X function mask is set -/
  fnMask : List Nat := []
  /-- pending bits: function × 2,048 + vector -/
  pendingBits : List Nat := []
  /-- configuration registers written by the host: function × 4,096 + dword -/
  cfgRegs : Map W32 := []
  /-- MGT_FW_STATUS.feature_level -/
  featureLevel : W16 := 0
  /-- MGT_FW_STATUS.fw_version -/
  fwVersion : W32 := 0
  /-- MGT_FW_STATUS.boot_state -/
  bootState : Byte := 0
  /-- the firmware update that holds the device, with the time of its last progress -/
  updater : Option (Updater × Nat) := none
  /-- an FW_VERIFY with code 0 has completed since the last FW_WRITE -/
  verified : Bool := false
  /-- PLDM update step -/
  pldm : UpdateStep := .idle
  /-- bytes of the image that the PLDM update has received -/
  fwAt : Nat := 0
  /-- bytes of the image that the PLDM update announced -/
  fwLen : Nat := 0
  /-- MGT_RECOV_STATUS.code -/
  recovCode : Byte := 0
  /-- MGT_RECOV_STATUS.state -/
  recovState : BitVec 4 := 0
  /-- I3C dynamic address -/
  i3cAddr : Option (BitVec 7) := none
  /-- MCTP endpoint ID -/
  eid : Byte := 0
  /-- PLDM sensor readings, in thousandths of their unit or state codes, at the last refresh -/
  sensors : Map Int := []
  /-- PLDM sensor threshold state at the last refresh: 0 normal, 1 warning, 2 critical -/
  sensorState : Map Nat := []
  /-- functions in an FLR that waits for host reads -/
  flr : List Nat := []
  /-- FLRs that wait for a partition reset of their function's partition (R510) -/
  flrPending : List Nat := []
deriving DecidableEq, Repr

/-- The state of the DXU-1. -/
structure State where
  /-- commands and events waiting, first in first out -/
  pending : List Instr := []
  /-- the model's time [ns] since reset (log 2) -/
  clk : Nat := 0
  /-- draws of free values made so far: the model's own counter (log 3) -/
  draws : Nat := 0
  /-- what has left the device, oldest first -/
  out : List Out := []
  /-- software-written registers of BAR0, by byte offset; one not listed holds its reset value -/
  csr : Map W64 := []
  /-- the Loft, by physical byte -/
  loft : Mem := []
  /-- HBM, by physical byte -/
  hbm : Mem := []
  /-- the benches -/
  bench : Mem := []
  /-- flash, by SSD × 2^56 + byte -/
  flash : Mem := []
  /-- TIM_NOW: hall time [ns] -/
  hall : W64 := 0
  /-- queues, pegs and host reads -/
  cmd : CmdState := {}
  /-- matrix arrays -/
  arrs : Map Arr := []
  /-- Plane status by compute tile -/
  planes : Map PlaneStatus := []
  /-- memory tiers -/
  tier : TierState := {}
  /-- the Dovetail -/
  dvt : DvtState := {}
  /-- remote operations and the Clamp -/
  rem : RemState := {}
  /-- the Yard -/
  yrd : YardState := {}
  /-- the Purlin -/
  prl : PrlState := {}
  /-- links, routing and scheduling -/
  fab : FabState := {}
  /-- partitions -/
  par : ParState := {}
  /-- faults, leases, verdicts -/
  flt : FltState := {}
  /-- host interface and management -/
  host : HostState := {}
  /-- security -/
  sec : SecState := {}
  /-- power, clocks, hall time, resets -/
  pwr : PwrState := {}
deriving DecidableEq, Repr

/-- The machine right after reset. -/
def State.reset : State := {}

end Sys2Proof.Machine
end

