-- ==== Sys2Proof/Machine/Ops.lean ====
section
/-! DEFINITION. The named operations over bit fields, byte strings, tables and memories. -/

namespace Sys2Proof.Machine

/-- The first `some` that `f` answers over a list. -/
def firstSome {α β : Type} (f : α → Option β) : List α → Option β
  | [] => none
  | x :: xs => match f x with
    | some y => some y
    | none => firstSome f xs

/-! ### Free values -/

/-- The next draw of a free value: the counter's value, and the state with the counter advanced. -/
def State.draw (s : State) : Nat × State := (s.draws, { s with draws := s.draws + 1 })

/-- `n` free bytes. -/
def State.freeBytes (s : State) (n : Nat) : List Byte × State :=
  ((List.range n).map fun i => Config.freeByte (s.draws + i), { s with draws := s.draws + n })

/-- Sends something out of the device. -/
def State.emit (s : State) (o : Out) : State := { s with out := s.out ++ [o] }

/-! ### Changing one part of the state -/

/-- Changes the queues, pegs and host reads. -/
def State.onCmd (s : State) (f : CmdState → CmdState) : State := { s with cmd := f s.cmd }
/-- Changes the memory tiers. -/
def State.onTier (s : State) (f : TierState → TierState) : State := { s with tier := f s.tier }
/-- Changes the Dovetail. -/
def State.onDvt (s : State) (f : DvtState → DvtState) : State := { s with dvt := f s.dvt }
/-- Changes the remote-operation engine. -/
def State.onRem (s : State) (f : RemState → RemState) : State := { s with rem := f s.rem }
/-- Changes the Purlin. -/
def State.onPrl (s : State) (f : PrlState → PrlState) : State := { s with prl := f s.prl }
/-- Changes the Yard. -/
def State.onYrd (s : State) (f : YardState → YardState) : State := { s with yrd := f s.yrd }
/-- Changes the partition bookkeeping. -/
def State.onPar (s : State) (f : ParState → ParState) : State := { s with par := f s.par }
/-- Changes the fabric state. -/
def State.onFab (s : State) (f : FabState → FabState) : State := { s with fab := f s.fab }
/-- Changes the fault state. -/
def State.onFlt (s : State) (f : FltState → FltState) : State := { s with flt := f s.flt }
/-- Changes the host-side state. -/
def State.onHost (s : State) (f : HostState → HostState) : State := { s with host := f s.host }

/-- Changes every work queue. -/
def State.mapQueues (s : State) (f : Nat → Queue → Queue) : State :=
  s.onCmd fun c => { c with wq := c.wq.map fun e => (e.1, f e.1 e.2) }

end Sys2Proof.Machine
end

