-- ==== Sys2Proof/Machine/Regs.lean ====
section
/-! DEFINITION. The software-written registers of BAR0: where each lies, its reset value, and its fields. -/

namespace Sys2Proof.Machine

/-- Block bases in BAR0 (Table Host-3). -/
def blockBase (i : Nat) : Nat := i * 0x1000000

/-- The reset value of the bent entry for position r (R284): valid, leading to port (r − s − 1) mod 16; 0 for the device's own position. -/
def bentReset (r : Nat) : W64 :=
  let s := Config.posId.toNat
  if r = s then 0 else BitVec.ofNat 64 (16 + (r + 31 - s) % 16)

/-- The reset value of a software-written register that does not reset to zero, by BAR0 offset. -/
def regReset (off : Nat) : W64 :=
  if off = 0x04000208 then 0x000000FA00002710                                   -- HBM_SCRUB_CFG
  else if 0x08000400 ≤ off ∧ off < 0x08000418 then 0x0000000000040408            -- TRS_WFQ_CFG
  else if off = 0x08000500 then 0x10                                            -- TRS_QSAMPLE_CFG
  else if 0x0C000000 ≤ off ∧ off < 0x0C000A00 ∧ off % 0x100 = 0x40 then 0xC6A1000000200280 -- LNKH_UDP_CFG
  else if off = 0x0D000008 then 0x30032                                         -- RTE_CFG
  else if 0x0D000100 ≤ off ∧ off < 0x0D000130 then BitVec.ofNat 64 (0x10 + (off - 0x0D000100) / 8)  -- RTE_HALL_DIR
  else if 0x0D000200 ≤ off ∧ off < 0x0D000280 then bentReset ((off - 0x0D000200) / 8)               -- RTE_BENT_ENTRY
  else if off = 0x0E000000 then 0x00003E803E87D003                              -- REM_CFG
  else if off = 0x16000000 then                                                 -- PWR_CFG, by grade (R3)
    (if Config.grade1800 then 0x0007086400010642 else 0x0008986400010642)
  else 0

/-- A software-written register. -/
def State.reg (s : State) (off : Nat) : W64 := getD s.csr off (regReset off)

/-- Sets a software-written register. -/
def State.setReg (s : State) (off : Nat) (v : W64) : State := { s with csr := put s.csr off v }

/-- WQ_RING_BASE of queue q. -/
def State.wqBase (s : State) (q : Nat) : W64 := s.reg (0x0F000000 + 0x40 * q)
/-- WQ_CFG of queue q. -/
def State.wqCfg (s : State) (q : Nat) : W64 := s.reg (0x0F000008 + 0x40 * q)
/-- CQ_RING_BASE of completion queue c. -/
def State.cqBase (s : State) (c : Nat) : W64 := s.reg (0x0F010000 + 0x40 * c)
/-- CQ_CFG of completion queue c; its W1C bits are kept in the queue's own state. -/
def State.cqCfg (s : State) (c : Nat) : W64 := s.reg (0x0F010008 + 0x40 * c)
/-- PAR_CFG of partition p. -/
def State.parCfg (s : State) (p : Nat) : W64 := s.reg (0x12000000 + 8 * p)
/-- PAR_QUOTA of partition p. -/
def State.parQuota (s : State) (p : Nat) : W64 := s.reg (0x12000040 + 8 * p)
/-- PAR_BREACH_RING of partition p. -/
def State.breachRing (s : State) (p : Nat) : W64 := s.reg (0x12000080 + 0x10 * p)
/-- PAR_BREACH_CONS of partition p. -/
def State.breachCons (s : State) (p : Nat) : W64 := s.reg (0x12000100 + 8 * p)
/-- PAR_RANGE of partition p and resource kind k (Table Part-1). -/
def State.parRange (s : State) (p k : Nat) : W64 := s.reg (0x12000400 + 0x80 * p + 8 * k)
/-- LFT_BAY_CFG of bay b, without busy. -/
def State.bayCfg (s : State) (b : Nat) : W64 := s.reg (0x03000000 + 8 * b)
/-- HBM_MAP_CFG of partition p. -/
def State.mapCfg (s : State) (p : Nat) : W64 := s.reg (0x04000000 + 0x10 * p)
/-- HBM_SCRUB_CFG. -/
def State.scrubCfg (s : State) : W64 := s.reg 0x04000208
/-- DET_CFG of partition p: its det bit. -/
def State.det (s : State) (p : Nat) : Bool := bit (s.reg (0x13000000 + 8 * p)) 0
/-- FLT_EVENT_RING. -/
def State.evRing (s : State) : W64 := s.reg 0x14000028
/-- FLT_EVENT_CONS. -/
def State.evCons (s : State) : W64 := s.reg 0x14000038
/-- MGT_BAR4_WIN of function f. -/
def State.bar4Win (s : State) (f : Nat) : W64 := s.reg (0x00000200 + 8 * f)

/-- Partition p is valid (R413). -/
def State.parValid (s : State) (p : Nat) : Bool := bit (s.parCfg p) 0
/-- The function a partition is bound to. -/
def State.parFn (s : State) (p : Nat) : Nat := fld (s.parCfg p) 39 36
/-- A partition's key (R415). -/
def State.parKey (s : State) (p : Nat) : Nat := fld (s.parCfg p) 63 48

/-- Resource i of kind k lies in partition p's range (R414). -/
def State.inRange (s : State) (p k i : Nat) : Bool :=
  let r := s.parRange p k
  decide (fld r 31 0 ≤ i) && decide (i < fld r 31 0 + fld r 63 32)

/-- How many units of kind k partition p has. -/
def State.rangeCount (s : State) (p k : Nat) : Nat := fld (s.parRange p k) 63 32

/-- The valid partition whose range of kind k holds i. -/
def State.ownerOf (s : State) (k i : Nat) : Option Nat := pick (fun p => s.parValid p && s.inRange p k i) (List.range 8)

/-- The partition a queue belongs to (R411). -/
def State.partOfQueue (s : State) (q : Nat) : Option Nat := s.ownerOf 0 q

/-- The partition bound to a function, if it owns a valid one (R411). -/
def State.partOfFn (s : State) (fn : Nat) : Option Nat := pick (fun p => s.parValid p && s.parFn p == fn) (List.range 8)

/-- The partition whose key is given (R415). -/
def State.partOfKey (s : State) (key : Nat) : Option Nat := pick (fun p => s.parValid p && s.parKey p == key) (List.range 8)

/-- The governed units get no clock pulse: at the brake level (R492), or with the duty cap at 0 (R489, R496). They hold their state until pulses come again. -/
def State.stilled (s : State) : Bool := s.pwr.braked || s.pwr.dutyCap == 0

/-- Hall time in µs, modulo 2^32. -/
def State.hallUs (s : State) : W32 := BitVec.ofNat 32 (s.hall.toNat / 1000)

/-! ### The error log (R524) and MSI-X (R516) -/

/-- Logs an access of a function: kind, width code, BAR, direction and offset (R524). -/
def logErr (fn kind width bar : Nat) (write : Bool) (off : Nat) (s : State) : State :=
  let l := getD s.host.errLog fn {}
  let l' : ErrLog :=
    if l.valid then { l with count := satAdd l.count 1 }
    else { valid := true, kind := BitVec.ofNat 4 kind, width := BitVec.ofNat 3 width, count := 1,
           bar := BitVec.ofNat 2 bar, write := write, offset := BitVec.ofNat 36 off }
  { s with host := { s.host with errLog := put s.host.errLog fn l' } }

/-- The width code of an access (CSR_ERR_LOG); a width between two codes takes the wider. -/
def widthCode (n : Nat) : Nat := if n ≤ 1 then 0 else if n ≤ 2 then 1 else if n ≤ 4 then 2 else if n ≤ 8 then 3 else 4

/-- Logs a dropped 64-bit BAR0 write. -/
def logWrite (fn kind off : Nat) (s : State) : State := logErr fn kind 3 0 true off s

/-- A write through BAR0 or BAR2 of a function that reaches the device: it is dropped before configuration is ready (R525) and during an FLR of
the function (R528); after a halt of the boot it is dropped and logged, except in the MGT and SEC blocks where the fuses are intact (R529). -/
def barWrite (fn off : Nat) (act : State → State) (s : State) : State :=
  if !s.pwr.ready || s.host.flr.contains fn then s
  else if s.host.bootState == 4 || (decide (s.host.bootState.toNat ≥ 2) && off / 2 ^ 24 != 0 && off / 2 ^ 24 != 0x15) then logWrite fn 7 off s
  else act s

/-- Sends an MSI-X message on a vector of a function, or sets its pending bit when the vector is masked (R516). -/
def msix (fn vec : Nat) (s : State) : State :=
  let v := fn * 2048 + vec
  if s.host.unmasked.contains v && !s.host.fnMask.contains fn then s.emit (.msix fn vec)
  else if s.host.pendingBits.contains v then s
  else { s with host := { s.host with pendingBits := s.host.pendingBits ++ [v] } }

end Sys2Proof.Machine
end

