-- ==== Sys2Proof/Machine/Access.lean ====
section
/-! DEFINITION. Access to a partition's memory: the Loft space, the tiered space and the benches, with the plank map, torn marks and poison. -/

namespace Sys2Proof.Machine

/-! ### Details of failures -/

/-- The detail word of an INTEGRITY completion (Table Fault-1). -/
def intDetail (unit check inst : Nat) : Nat := unit * 2 ^ 24 + check * 2 ^ 8 + inst % 256

/-- INTEGRITY with its detail. -/
def integrity (unit check inst : Nat) : Err := ⟨.integrity, intDetail unit check inst⟩

/-- BAD_RSV at byte `off` of place `pl` (R554). -/
def badRsv (pl off : Nat) : Err := ⟨.badRsv, pl * 2 ^ 30 + off⟩

/-- BAD_GEN of a structure kind, its generation field at byte `off` (R553). -/
def badGen (kind off : Nat) : Err := ⟨.badGen, kind * 2 ^ 16 + off⟩

/-- ACCESS with a detail. -/
def accessErr (d : Nat) : Err := ⟨.access, d⟩

/-! ### The two spaces of a partition -/

/-- Bay b is a SCRATCH bay of partition p. -/
def State.scratchBay (s : State) (p b : Nat) : Bool :=
  let c := s.bayCfg b
  bit c 0 && bit c 1 && fld c 10 8 == p

/-- The SCRATCH bays of a partition in ascending number (R368). -/
def State.scratchBays (s : State) (p : Nat) : List Nat := (List.range 32).filter (s.scratchBay p)

/-- A bay of partition p is being written back and zeroed: accesses of the partition wait (R371, log 10). -/
def State.bayWaits (s : State) (p : Nat) : Bool := s.tier.bayBusy.any fun e => bit (s.bayCfg e.1) 0 && fld (s.bayCfg e.1) 10 8 == p

/-! ### Regulators (R417 to R419)

The points of Table Part-2 that PAR_REG_CFG regulates: 0 HBM, 1 Loft, 2 Truss. Each has a shaper for each partition and class, which follows R338. -/

/-- PAR_REG_CFG of a partition at a point for a class. -/
def State.regCfg (s : State) (p k : Nat) (lc : Bool) : W64 := s.reg (0x12001000 + 0x40 * p + 0x10 * k + 8 * b2n lc)
/-- Number of a regulator. -/
def regKey (p k : Nat) (lc : Bool) : Nat := 6 * p + 2 * k + b2n lc
/-- Cycles of a point's clock since reset (Table Part-2): CLK_HBMC at 1.2 GHz, CLK_LFT and CLK_TRS at 2.0 GHz. -/
def State.pointNow (s : State) (k : Nat) : Nat := if k = 0 then s.clk * 6 / 5 else 2 * s.clk

/-- update (R338): credit grows at the rate, up to the burst. -/
def regUpdate (cfg : W64) (now : Nat) (x : Shaper) : Shaper :=
  { x with credit := min (x.credit + (fld cfg 47 16 * (now - x.last) : Nat)) ((fld cfg 63 48 * 65536 : Nat) : Int), last := now }

/-- An updated regulator is eligible: its credit is not negative, and its calendar slot has come (R338). -/
def Shaper.open_ (x : Shaper) : Bool := decide (x.credit ≥ 0) && (match x.slot with
  | some t => decide (16 * t ≤ x.last)
  | none => true)

/-- A regulator is eligible (R338); a disabled one always is (R419). -/
def State.regOpen (s : State) (p k : Nat) (lc : Bool) : Bool :=
  !bit (s.regCfg p k lc) 0 || (regUpdate (s.regCfg p k lc) (s.pointNow k) (getD s.par.regs (regKey p k lc) {})).open_

/-- charge (R338) for n granules accepted one after another at one time (log 97): what finds the regulator in debt is bulk and charges nothing;
with hard set it waits, and is charged all the same. -/
def regCharge (cfg : W64) (now n : Nat) (x : Shaper) : Shaper :=
  let x := regUpdate cfg now x
  let m := if bit cfg 1 then n else if x.open_ then min n (x.credit.toNat / 65536 + 1) else 0
  let c := x.credit - (m * 65536 : Nat)
  if m = 0 then x else { x with credit := c, slot := if c < 0 then some (ceilDiv (now + ceilDiv (-c).toNat (fld cfg 47 16)) 16) else none }

/-- A point accepts n granules of a partition and class. -/
def chargePoint (p k : Nat) (lc : Bool) (n : Nat) (s : State) : State :=
  if bit (s.regCfg p k lc) 0 then
    { s with par := { s.par with regs := upd s.par.regs (regKey p k lc) {} (regCharge (s.regCfg p k lc) (s.pointNow k) n) } }
  else s

/-- The HBM or the Loft accepts an access of a partition and class to n bytes of its space. -/
def chargeAccess (p : Nat) (lc tiered : Bool) (a n : Nat) (s : State) : State :=
  if n = 0 then s else chargePoint p (if tiered then 0 else 1) lc (ceilDiv (a % 64 + n) 64) s

/-- The HBM or the Loft does not serve a partition's class: its regulator there is hard and not eligible (R418). -/
def State.regWaits (s : State) (p : Nat) (lc : Bool) : Bool :=
  [0, 1].any fun k => bit (s.regCfg p k lc) 1 && !s.regOpen p k lc

/-- A write of PAR_REG_CFG (R419): on enable the credit is the burst (R338); any other write takes effect at the next update. -/
def setReg419 (i : Nat) (v : W64) (s : State) : State :=
  let p := i / 8
  let k := i % 8 / 2
  let lc := i % 2 == 1
  let first := bit v 0 && !bit (s.regCfg p k lc) 0
  let s := s.setReg (0x12001000 + 8 * i) (v &&& 0xFFFFFFFFFFFF0003)
  if first then { s with par := { s.par with regs := put s.par.regs (regKey p k lc) { credit := (fld v 63 48 * 65536 : Nat), last := s.pointNow k } } } else s

/-- The physical Loft byte at a Loft-space address of partition p (R368). -/
def State.loftPlace (s : State) (p a : Nat) : Except Err Nat :=
  match (s.scratchBays p)[a / 2 ^ 24]? with
  | some b => .ok (b * 2 ^ 24 + a % 2 ^ 24)
  | none => .error (accessErr 0xE1)

/-- The key of a plank map entry. -/
def plankKey (p i : Nat) : Nat := p * 2 ^ 26 + i

/-- A plank map entry of partition p. -/
def State.plank (s : State) (p i : Nat) : Plank := getD s.tier.planks (plankKey p i) {}

/-- How many planks partition p's map has; none while log2_planks is 0 (R372). -/
def State.mapPlanks (s : State) (p : Nat) : Nat :=
  let n := fld (s.mapCfg p) 4 0
  if n = 0 then 0 else 2 ^ n

/-- A plank of this tier is served (R374). -/
def Tier.served : Tier → Bool
  | .hbm | .both | .moving => true
  | .none | .flash => false

/-- The tier keeps a flash copy, charged to the flash quota (Table Tier-3). -/
def Tier.onFlash : Tier → Bool
  | .flash | .both | .moving => true
  | .none | .hbm => false

/-- The physical HBM byte at a tiered address of partition p (R372, R374). -/
def State.tieredPlace (s : State) (p a : Nat) : Except Err Nat :=
  let i := a / 65536
  if i ≥ s.mapPlanks p then .error (accessErr 0xE1)
  else
    let e := s.plank p i
    match e.tier with
    | .none => .error (accessErr 0xE1)
    | .flash => .error (accessErr 0xE3)
    | _ => .ok (e.frame * 65536 + a % 65536)

/-- The physical byte at an address of a partition's Loft space or tiered space. -/
def State.place (s : State) (p : Nat) (tiered : Bool) (a : Nat) : Except Err Nat :=
  if tiered then s.tieredPlace p a else s.loftPlace p a

/-- The space behind a loc bit. -/
def locSpace (tiered : Bool) : Space := if tiered then .hbm else .loft

/-- The memory of a space. -/
def State.mem (s : State) : Space → Mem
  | .loft => s.loft
  | .hbm => s.hbm
  | .bench => s.bench

/-- The state with the memory of a space replaced. -/
def State.setMem (s : State) (sp : Space) (m : Mem) : State :=
  match sp with
  | .loft => { s with loft := m }
  | .hbm => { s with hbm := m }
  | .bench => { s with bench := m }

/-! ### Torn marks -/

/-- A device declared dead wrote the plank within torn_window of the bump (Table Tier-5). -/
def State.deadWrote (s : State) (valid : Bool) (writer : BitVec 20) (time : W32) : Bool :=
  valid && s.tier.dead.any fun d => d.1 == writer && decide ((d.2 - time).toNat ≤ fld s.scrubCfg 47 32)

/-- A plank of the tiered space reads as torn: marked, or last written by a device that died soon after. -/
def State.plankTorn (s : State) (e : Plank) : Bool := e.torn || s.deadWrote e.remoteValid e.writer e.time

/-- A plank of the Loft reads as torn. -/
def State.loftTorn (s : State) (phys : Nat) : Bool :=
  let e := getD s.tier.loftPlanks (phys / 65536) {}
  e.torn || s.deadWrote e.remoteValid e.writer e.time

/-- The detail of TORN: bit 31 for the tiered space, and the plank index (R388). -/
def tornDetail (tiered : Bool) (a : Nat) : Nat := b2n tiered * 2 ^ 31 + (a / 65536) % 2 ^ 26

/-- The granule at an address reads as torn. -/
def State.tornAt (s : State) (p : Nat) (tiered : Bool) (a : Nat) : Bool :=
  if tiered then s.plankTorn (s.plank p (a / 65536))
  else match s.loftPlace p a with
    | .ok ph => s.loftTorn ph
    | .error _ => false

/-- The granule at a physical byte is poisoned (R446): what a read of it answers. -/
def State.poisoned (s : State) (sp : Space) (phys : Nat) : Option Err :=
  match sp with
  | .loft => if s.tier.loftPoison.contains (phys / 64) then some (integrity 4 1 (phys / 2 ^ 24)) else none
  | .hbm => if s.tier.hbmPoison.contains (phys / 64) then some (integrity 6 1 (phys / 65536 % 8)) else none
  | .bench => if s.tier.benchPoison.contains (phys / 64) then some (integrity 5 1 (phys / 2 ^ 18)) else none

/-- The first granules of a range of addresses, one address each, in ascending order. -/
def granules (a n : Nat) : List Nat :=
  if n = 0 then [] else (List.range ((a + n - 1) / 64 - a / 64 + 1)).map fun i => if i = 0 then a else (a / 64 + i) * 64

/-- Why a read of one granule fails, if it does: the access, then the torn mark, then poison. -/
def State.readFault (s : State) (p : Nat) (tiered accept : Bool) (a : Nat) : Option Err :=
  match s.place p tiered a with
  | .error e => some e
  | .ok ph => if s.tornAt p tiered a && !accept then some ⟨.torn, tornDetail tiered a⟩ else s.poisoned (locSpace tiered) ph

/-- The byte at an address of a partition, where it is served. -/
def State.byteAt (s : State) (p : Nat) (tiered : Bool) (a : Nat) : Byte :=
  match s.place p tiered a with
  | .ok ph => memGet (s.mem (locSpace tiered)) ph
  | .error _ => 0

/-- Reads n bytes of a partition's space: the first failing granule ends the read (R374, R388, R446). -/
def State.read (s : State) (p : Nat) (tiered : Bool) (a n : Nat) (accept : Bool := false) : Except Err (List Byte) :=
  match firstSome (s.readFault p tiered accept) (granules a n) with
  | some e => .error e
  | none => .ok ((List.range n).map fun i => s.byteAt p tiered (a + i))

/-- Some granule of the range reads as torn. -/
def State.rangeTorn (s : State) (p : Nat) (tiered : Bool) (a n : Nat) : Bool := (granules a n).any (s.tornAt p tiered)

/-! ### Writes -/

/-- What a write does to a plank's map entry (R375). -/
def Plank.written (e : Plank) : Plank :=
  { e with digestValid := false, cdirty := if e.ckpt then 3 else e.cdirty,
           dirty := e.dirty || e.tier == .both || e.tier == .moving }

/-- The state with one map entry changed. -/
def State.updPlank (s : State) (p i : Nat) (f : Plank → Plank) : State :=
  { s with tier := { s.tier with planks := upd s.tier.planks (plankKey p i) {} f } }

/-- The state with one Loft plank entry changed. -/
def State.updLoftPlank (s : State) (i : Nat) (f : LoftPlank → LoftPlank) : State :=
  { s with tier := { s.tier with loftPlanks := upd s.tier.loftPlanks i {} f } }

/-- A write that covers a whole granule clears its poison (R446). -/
def State.clearPoison (s : State) (sp : Space) (g : Nat) : State :=
  match sp with
  | .loft => { s with tier := { s.tier with loftPoison := s.tier.loftPoison.erase g } }
  | .hbm => { s with tier := { s.tier with hbmPoison := s.tier.hbmPoison.erase g } }
  | .bench => { s with tier := { s.tier with benchPoison := s.tier.benchPoison.erase g } }

/-- The bookkeeping of a write to the plank at an address; a PUT also records its source and the time (R375). -/
def State.noteWrite (s : State) (p : Nat) (tiered : Bool) (a : Nat) (src : Option (BitVec 20)) : State :=
  if tiered then
    s.updPlank p (a / 65536) fun e =>
      let e := { e with torn := s.plankTorn e }.written
      match src with
      | some d => { e with writer := d, remoteValid := true, time := s.hallUs }
      | none => e
  else match src, s.loftPlace p a with
    | some d, .ok ph => s.updLoftPlank (ph / 65536) fun e =>
        { e with torn := s.loftTorn ph, writer := d, remoteValid := true, time := s.hallUs }
    | _, _ => s

/-- The position of an element in a list. -/
def indexOf (x : Nat) : List Nat → Nat
  | [] => 0
  | y :: r => if x = y then 0 else indexOf x r + 1

/-- A write of n granules from granule g closes the Clamp's read entries that cover one of them (R360). -/
def closeRange (sp : Space) (g n : Nat) (s : State) : State :=
  { s with rem := { s.rem with reads := s.rem.reads.filter fun e => !(e.sp == sp && e.grans.any fun x => decide (g ≤ x) && decide (x < g + n)) } }

/-- A write to a granule closes the Clamp's read entries that cover it (R360). -/
def State.closeReads (s : State) (sp : Space) (g : Nat) : State :=
  { s with rem := { s.rem with reads := s.rem.reads.filter fun e => !(e.sp == sp && e.grans.contains g) } }

/-- Writes bytes within one granule. -/
def State.writeGranule (s : State) (p : Nat) (tiered : Bool) (a : Nat) (bs : List Byte) (src : Option (BitVec 20)) : Except Err State :=
  match s.place p tiered a with
  | .error e => .error e
  | .ok ph =>
    let sp := locSpace tiered
    let s := s.setMem sp (memWrite (s.mem sp) ph bs)
    let s := (if bs.length = 64 then s.clearPoison sp (ph / 64) else s).closeReads sp (ph / 64)
    .ok (s.noteWrite p tiered a src)

/-- Writes bytes granule by granule; the first failing access ends it (R374, R386). Answers the state, the bytes written and the failure. -/
def State.writeSome (s : State) (p : Nat) (tiered : Bool) (a : Nat) (bs : List Byte) (src : Option (BitVec 20)) :
    (fuel : Nat) → State × Nat × Option Err
  | 0 => (s, 0, none)
  | fuel + 1 =>
    if bs.isEmpty then (s, 0, none)
    else
      let n := 64 - a % 64
      match s.writeGranule p tiered a (bs.take n) src with
      | .error e => (s, 0, some e)
      | .ok s' =>
        let r := s'.writeSome p tiered (a + n) (bs.drop n) src fuel
        (r.1, r.2.1 + (bs.take n).length, r.2.2)

/-- Writes bytes to a partition's space. Answers the state, the bytes written and the failure that stopped it. -/
def State.writeFor (s : State) (p : Nat) (tiered : Bool) (a : Nat) (bs : List Byte) (src : Option (BitVec 20) := none) :
    State × Nat × Option Err :=
  s.writeSome p tiered a bs src (bs.length + 1)

/-- Writes bytes to a partition's space, as far as they go. -/
def State.write (s : State) (p : Nat) (tiered : Bool) (a : Nat) (bs : List Byte) : State := (s.writeFor p tiered a bs).1

/-- Why a write of the range would fail, if it would. -/
def State.writeFault (s : State) (p : Nat) (tiered : Bool) (a n : Nat) : Option Err :=
  firstSome (fun g => match s.place p tiered g with
    | .error e => some e
    | .ok _ => none) (granules a n)

/-- The physical runs behind a range of a partition's space, one a granule. -/
def State.extents (s : State) (p : Nat) (tiered : Bool) (a n : Nat) : List Extent :=
  (granules a n).filterMap fun g => match s.place p tiered g with
    | .ok ph => some ⟨locSpace tiered, ph, min (64 - g % 64) (a + n - g)⟩
    | .error _ => none

/-- The plank map key of the plank held in a frame. -/
def State.plankOfFrame (s : State) (f : Nat) : Option Nat :=
  (pick (fun (e : Nat × Plank) => (e.2.tier.served || e.2.loading) && e.2.frame == f) s.tier.planks).map (·.1)

/-- Marks torn the plank that holds a physical byte, counting it once (R387). -/
def State.tearByte (s : State) (x : Extent) : State :=
  match x.sp with
  | .bench => s
  | .loft =>
    if (getD s.tier.loftPlanks (x.a / 65536) {}).torn then s
    else
      let s := s.updLoftPlank (x.a / 65536) ({ · with torn := true })
      { s with tier := { s.tier with tornMarked := satAdd s.tier.tornMarked 1 } }
  | .hbm =>
    match s.plankOfFrame (x.a / 65536) with
    | none => s
    | some k =>
      if (getD s.tier.planks k {}).torn then s
      else { s with tier := { s.tier with planks := upd s.tier.planks k {} ({ · with torn := true }),
                                          tornMarked := satAdd s.tier.tornMarked 1 } }

/-- Marks torn every plank a stopped burst touched (R387). -/
def State.tear (s : State) (xs : List Extent) : State := xs.foldl State.tearByte s

/-- The 64 KiB of a space from physical plank k are covered, granule by granule. -/
def covered (xs : List Extent) (sp : Space) (k : Nat) : Bool :=
  (List.range 1024).all fun g =>
    let a := k * 65536 + g * 64
    xs.any fun x => x.sp == sp && decide (x.a ≤ a) && decide (a + 64 ≤ x.a + x.n)

/-- Clears the torn mark of the plank that holds a written run, when the runs cover it whole. -/
def mendOne (xs : List Extent) (s : State) (x : Extent) : State :=
  match x.sp with
  | .bench => s
  | .loft =>
    if covered xs .loft (x.a / 65536) then s.updLoftPlank (x.a / 65536) ({ · with torn := false, remoteValid := false }) else s
  | .hbm =>
    if covered xs .hbm (x.a / 65536) then
      match s.plankOfFrame (x.a / 65536) with
      | some i => { s with tier := { s.tier with planks := upd s.tier.planks i {} ({ · with torn := false, remoteValid := false }) } }
      | none => s
    else s

/-- Clears the torn mark of every plank that one command has written whole (R389). -/
def State.mend (s : State) (xs : List Extent) : State := xs.foldl (mendOne xs) s

/-! ### Benches -/

/-- The array belongs to partition p (R412). -/
def State.ownsArray (s : State) (p a : Nat) : Bool := bit (s.parCfg p) (40 + a / 32)

/-- The physical byte of a bench address. -/
def benchAt (array off : Nat) : Nat := array * 2 ^ 18 + off % 2 ^ 18

/-- Reads n bytes of an array's bench; a poisoned granule gives INTEGRITY. -/
def State.readBench (s : State) (array off n : Nat) : Except Err (List Byte) :=
  match firstSome (fun g => s.poisoned .bench (benchAt array g)) (granules off n) with
  | some e => .error e
  | none => .ok ((List.range n).map fun i => memGet s.bench (benchAt array (off + i)))

/-- Writes bytes to an array's bench; a run past the end goes on at its beginning (R120). -/
def State.writeBench (s : State) (array off : Nat) (bs : List Byte) : State :=
  let o := off % 2 ^ 18
  let n := 2 ^ 18 - o
  let s := { s with bench := memWrite (memWrite s.bench (array * 2 ^ 18 + o) (bs.take n)) (array * 2 ^ 18) (bs.drop n) }
  let whole := (granules o bs.length).filter fun g => g % 64 == 0 && decide (g + 64 ≤ o + bs.length)
  whole.foldl (fun s g => s.clearPoison .bench (benchAt array g / 64)) s

/-! ### Frames and flash planks -/

/-- How many HBM planks of partition p count against its quota (Table Tier-3). -/
def State.hbmUsed (s : State) (p : Nat) : Nat :=
  (s.tier.planks.filter fun e => e.1 / 2 ^ 26 == p && (e.2.tier.served || e.2.loading)).length

/-- How many flash planks of partition p count against its quota: copies, Ledger slots and record planks, and what a SEQ_STEP in progress may still take. -/
def State.flashUsed (s : State) (p : Nat) : Nat :=
  (s.tier.planks.filter fun e => e.1 / 2 ^ 26 == p && e.2.tier.onFlash).length + (getD s.tier.ledgers p {}).charged +
    (match find? s.tier.steps p with
    | some x => x.held
    | none => 0)

/-- The frame holds a plank, or lies in a plank map region (R373). -/
def State.frameTaken (s : State) (f : Nat) : Bool :=
  (s.plankOfFrame f).isSome ||
  (List.range 8).any fun p =>
    let c := s.mapCfg p
    s.mapPlanks p != 0 && decide (fld c 63 12 * 4096 / 65536 ≤ f) &&
      decide (f ≤ (fld c 63 12 * 4096 + 32 * s.mapPlanks p - 1) / 65536)

/-- The number of HBM frames (R556). -/
def frames : Nat := 6291456

/-- The first index from h on, modulo m, that satisfies p, within the given number of tries. -/
def scan (p : Nat → Bool) (m h : Nat) : Nat → Option Nat
  | 0 => none
  | n + 1 => if p (h % m) then some (h % m) else scan p m (h + 1) n

/-- A free frame: the first one from a free starting point on (log 4). -/
def State.freeFrame (s : State) : Option Nat :=
  scan (fun f => !s.frameTaken f) frames (Config.allocHint s.draws) frames

/-- Planks of a Ledger slot's table: 16 bytes a position (R393). -/
def tablePlanks (cap : Nat) : Nat := ceilDiv (16 * cap) 65536

/-- SSDs of a mask, ascending. -/
def maskSsds (m : Nat) : List Nat := (List.range 8).filter m.testBit

/-- LBAs a Ledger slot takes on each SSD of its mask: data positions and the table after them (log 12). -/
def slotSpan (mask cap : Nat) : Nat := 16 * ceilDiv (cap + tablePlanks cap) (max 1 (maskSsds mask).length)

/-- The flash plank at an SSD and first LBA is taken by a tier copy, a Ledger slot or a record copy. -/
def State.lbaTaken (s : State) (ssd lba : Nat) : Bool :=
  (s.tier.planks.any fun e => e.2.tier.onFlash && e.2.ssd == ssd && e.2.lba / 16 == lba / 16) ||
  (s.tier.ledgers.any fun e =>
    let l := e.2
    l.charged != 0 && ((l.rec0.1 == ssd && l.rec0.2 / 16 == lba / 16) || (l.rec1.1 == ssd && l.rec1.2 / 16 == lba / 16) ||
      (l.mask.testBit ssd && [l.base.1, l.base.2].any fun b => decide (b ≤ lba) && decide (lba < b + slotSpan l.mask l.cap))))

/-- The next present SSD in rotation (R385). -/
def State.nextSsd (s : State) : Option Nat :=
  pick (fun i => (getD s.tier.ssds i {}).st == .ready) ((List.range 8).map fun i => (s.tier.ssdNext + i) % 8)

/-- A free flash plank on an SSD: the first one from a free starting point on (log 4). -/
def State.freeLba (s : State) (ssd : Nat) : Option Nat :=
  let cap := (getD s.tier.ssds ssd {}).capacity.toNat
  (scan (fun i => !s.lbaTaken ssd (i * 16)) cap (Config.allocHint s.draws) cap).map (· * 16)

/-- The flash address of a byte of an SSD. -/
def flashAt (ssd lba off : Nat) : Nat := ssd * 2 ^ 56 + lba * 4096 + off

/-! ### Encryption of flash (R382) -/

/-- The keys of a partition that becomes valid are drawn (Table Sec-4). -/
def drawKeys (p : Nat) (s : State) : State :=
  { s with sec := { s.sec with partKeys := setFld s.sec.partKeys p p 1 }, tier := { s.tier with tierKeys := upd s.tier.tierKeys p 0 (· + 1) } }

/-- The key of an LBA among the seals. -/
def lbaKey (ssd lba : Nat) : Nat := ssd * 2 ^ 44 + lba
/-- A seal as a number. -/
def Seal.code (x : Seal) : Nat :=
  (x.use * 2 ^ 26 + x.plank) * 2 ^ 129 + (match x.key with
    | .tier p g => 8 * g + p
    | .ledger i t => 2 ^ 128 + i.toNat * 2 ^ 64 + t.toNat)
/-- The seal of partition p's tier copy of plank i. -/
def State.tierSeal (s : State) (p i : Nat) : Seal := ⟨.tier p (getD s.tier.tierKeys p 0), i, 0⟩
/-- The seal of a tier copy by its map key. -/
def State.keySeal (s : State) (k : Nat) : Seal := s.tierSeal (k / 2 ^ 26) (k % 2 ^ 26)

/-- Writes whole LBAs under a seal. State.flash holds their plaintext beside the seal (log 23). -/
def flashPut (x : Seal) (ssd lba : Nat) (bs : List Byte) (s : State) : State :=
  { s with
    flash := memWrite (memZero s.flash (flashAt ssd lba 0) bs.length) (flashAt ssd lba 0) bs
    tier := { s.tier with seals := (List.range (ceilDiv bs.length 4096)).foldl (fun m j => put m (lbaKey ssd (lba + j)) x) s.tier.seals } }

/-- One LBA read under a seal: its bytes if it was written so; otherwise what decryption makes of it. -/
def State.lbaGet (s : State) (x : Seal) (ssd lba : Nat) : List Byte :=
  let bs := memRead s.flash (flashAt ssd lba 0) 4096
  let w := find? s.tier.seals (lbaKey ssd lba)
  if w = some x then bs else (List.range 4096).map (Config.xtsByte x.code (w.map Seal.code) bs)

/-- Reads n LBAs under a seal. -/
def State.flashGet (s : State) (x : Seal) (ssd lba n : Nat) : List Byte := (List.range n).flatMap fun j => s.lbaGet x ssd (lba + j)

end Sys2Proof.Machine
end

