-- ==== Sys2Proof/Machine/Operands.lean ====
section
/-! DEFINITION. Operands: the fields of a command packet, the address forms, and the checks of reserved fields and legal values (R34 to R37, R554, R555). -/

namespace Sys2Proof.Machine

/-! ### Fields of a command packet (Table Cmd-2) -/

/-- n bytes of a packet from a byte offset. -/
def op (k : Block) (off n : Nat) : Nat := byteFld k off n
/-- Opcode. -/
def opcode (k : Block) : Nat := op k 0 2
/-- Generation. -/
def pktGen (k : Block) : Nat := fld k 19 16
/-- Flags. -/
def pktFlags (k : Block) : Nat := fld k 31 20
/-- Submitter's tag. -/
def pktTag (k : Block) : Nat := op k 4 4
/-- Wait word 0. -/
def wait0 (k : Block) : Nat := op k 8 8
/-- Wait word 1. -/
def wait1 (k : Block) : Nat := op k 16 8
/-- Signal word. -/
def signalWord (k : Block) : Nat := op k 24 8
/-- cond none. -/
def condNone (w : Nat) : Bool := nfld w 17 16 == 3
/-- Peg index of a wait or signal word. -/
def wordPeg (w : Nat) : Nat := nfld w 13 0
/-- Signal mode. -/
def signalMode (w : Nat) : Nat := nfld w 15 14

/-! ### Address forms -/

/-- An address within a partition: its space and its byte. -/
structure Addr where
  /-- loc 1: the tiered space; loc 0: the Loft -/
  tiered : Bool
  /-- byte address -/
  a : Nat
deriving DecidableEq, Repr

/-- The form of R154: loc in bit 0, address bits [63:6]. -/
def addr154 (w : Nat) : Addr := ⟨w.testBit 0, w / 64 * 64⟩
/-- The form of R347: loc in bit 0, address bits [63:3]. -/
def addr347 (w : Nat) : Addr := ⟨w.testBit 0, w / 8 * 8⟩

/-- A copy address (R378). -/
inductive CopyAddr where
  | loft (a : Nat)
  | tiered (a : Nat)
  | bench (array off : Nat)
  | host (iova : Nat)
  | bad
deriving DecidableEq, Repr

/-- The form of R378: space in [2:0], granule address in [63:6]. -/
def addr378 (w : Nat) : CopyAddr :=
  match w % 8 with
  | 0 => .loft (w / 64 * 64)
  | 1 => .tiered (w / 64 * 64)
  | 2 => .bench (nfld w 25 18) (nfld w 17 6 * 64)
  | 3 => .host (w / 64 * 64)
  | _ => .bad

/-! ### Reserved fields and legal values -/

/-- A reserved run of bits: its first bit and its width. -/
abbrev Rsv := Nat × Nat

/-- Whole reserved bytes. -/
def rb (off n : Nat) : Rsv := (8 * off, 8 * n)
/-- Reserved bits hi to lo of the word at a byte offset. -/
def rbits (off hi lo : Nat) : Rsv := (8 * off + lo, hi + 1 - lo)

/-- The byte of the first reserved run that is not zero (R554: the byte that holds the field's lowest bit, log 7). -/
def rsvFault (x : Nat) (rs : List Rsv) : Option Nat :=
  firstSome (fun r => if (x >>> r.1) % 2 ^ r.2 = 0 then none else some (r.1 / 8)) rs

/-- The lowest offset among failed checks (R554, log 7). -/
def lowest (cs : List (Nat × Bool)) : Option Nat :=
  cs.foldl (fun acc c => if c.2 then some (match acc with | some o => min o c.1 | none => c.1) else acc) none

/-- The lowest fault among reserved runs and legal values. -/
def fieldFault (x : Nat) (rs : List Rsv) (cs : List (Nat × Bool)) : Option Nat :=
  lowest (cs ++ rs.map fun r => (r.1 / 8, decide ((x >>> r.1) % 2 ^ r.2 ≠ 0)))

/-- Operands of a parameter address alone in bytes 32–39 (R154 form). -/
def rsvParam : List Rsv := [rbits 32 5 1, rb 40 24]
/-- Operands of an index in bytes 32–33 with the bits from `lo` reserved, and a record address in bytes 40–47 (R154 form). -/
def rsvLoad (lo : Nat) : List Rsv := [rbits 32 15 lo, rb 34 6, rbits 40 5 1, rb 48 16]
/-- A plank range in bytes 32–39 (R377). -/
def rsvRange : List Rsv := [rbits 32 31 26]

/-- The reserved operand fields of each opcode; none for an opcode that no chapter defines (R10, R37). -/
def opRsv (o : Nat) : Option (List Rsv) :=
  match o with
  | 0x0100 => some [rb 32 32]
  | 0x0101 => some [rbits 32 15 14, rb 34 6, rb 48 16]
  | 0x0102 => some [rbits 32 15 14, rb 34 6, rb 48 16]
  | 0x0103 => some [rbits 32 15 14, rb 34 30]
  | 0x0104 => some [rbits 32 15 10, rb 34 2, rb 40 24]
  | 0x0200 => some [rbits 32 5 3, rbits 40 5 3, rbits 52 7 2, rb 53 11]
  | 0x0201 => some (rsvRange ++ [rbits 40 7 1, rb 41 23])
  | 0x0202 => some (rsvRange ++ [rb 40 24])
  | 0x0203 => some (rsvRange ++ [rbits 40 7 2, rb 41 23])
  | 0x0204 => some (rsvRange ++ [rbits 40 5 3, rb 48 16])
  | 0x0205 => some (rsvRange ++ [rb 40 24])
  | 0x0210 => some rsvParam
  | 0x0211 => some [rbits 32 15 14, rb 34 30]
  | 0x0212 => some rsvParam
  | 0x02F0 => some rsvParam
  | 0x02F1 => some rsvParam
  | 0x02F2 => some rsvParam
  | 0x0300 => some [rbits 32 5 1, rbits 40 7 3, rbits 41 7 4, rb 42 2, rb 48 16]
  | 0x0301 => some [rbits 32 5 1, rbits 40 7 3, rbits 41 7 4, rb 42 22]
  | 0x0400 => some (rsvLoad 10)
  | 0x0401 => some [rbits 32 7 2, rb 33 7, rbits 40 5 1, rb 48 16]
  | 0x0402 => some [rbits 32 5 1, rbits 40 5 1, rb 48 16]
  | 0x0410 => some (rsvLoad 10)
  | 0x0411 => some [rbits 32 15 10, rbits 34 15 14, rbits 36 7 7, rb 37 27]
  | 0x0412 => some rsvParam
  | 0x0420 => some rsvParam
  | 0x0421 => some [rb 37 3, rbits 40 5 1, rb 48 16]
  | 0x0422 => some rsvParam
  | 0x0423 => some rsvParam
  | 0x0424 => some rsvParam
  | 0x0425 => some rsvParam
  | 0x0500 => some (rsvLoad 10)
  | 0x0501 => some [rbits 32 15 10, rb 34 30]
  | 0x0510 => some rsvParam
  | 0x0511 => some rsvParam
  | 0x0512 => some rsvParam
  | 0x0513 => some rsvParam
  | 0x0514 => some rsvParam
  | 0x0515 => some rsvParam
  | 0x0600 => some [rbits 32 15 12, rb 34 2, rbits 36 31 24, rbits 48 2 1, rb 56 8]
  | 0x0601 => some [rbits 32 15 12, rb 34 2, rbits 36 31 24, rbits 48 2 1, rb 56 8]
  | 0x0602 => some [rbits 32 15 12, rb 34 6, rb 58 6]
  | 0x0603 => some [rbits 32 15 12, rb 34 6]
  | 0x0604 => some [rbits 32 15 12, rb 34 6, rbits 48 63 50, rb 56 8]
  | 0x0610 => some (rsvLoad 12)
  | 0x0611 => some [rbits 32 15 12, rb 34 30]
  | 0x0700 => some [rbits 32 7 4, rb 34 6, rbits 40 2 1, rb 52 12]
  | 0x0701 => some [rbits 34 7 2, rbits 35 7 3, rb 36 28]
  | 0x0702 => some [rb 34 30]
  | 0x0780 => some [rbits 32 7 6, rb 33 7, rbits 40 5 1, rb 48 16]
  | 0x0781 => some [rbits 32 7 6, rb 33 31]
  | 0x0782 => some [rbits 32 7 6, rb 34 6, rbits 40 5 3, rb 48 16]
  | 0x0783 => some [rb 38 26]
  | 0x0784 => some [rb 38 26]
  | 0x0800 => some rsvParam
  | 0x0801 => some [rb 32 32]
  | 0x0802 => some [rb 32 32]
  | 0x0803 => some (rsvRange ++ [rbits 40 7 1, rb 41 23])
  | 0x0F00 => some [rb 34 30]
  | 0x0F10 => some [rbits 32 5 3, rb 48 16]
  | 0x0F11 => some [rb 32 32]
  | 0x0F12 => some [rb 32 32]
  | 0x0F40 => some rsvParam
  | 0x0F41 => some [rbits 33 7 1, rb 34 30]
  | _ => none

/-- A copy address field whose space is reserved, or a bench address with high bits set (R378). -/
def copyAddrBad (k : Block) (off : Nat) : List (Nat × Bool) :=
  let w := op k off 8
  [(off, decide (w % 8 ≥ 4)), (off + 3, w % 8 == 2 && decide (w / 2 ^ 26 ≠ 0))]

/-- A copy address of a command of another class than 0x02, which may not name a bench (R100, log 134). -/
def noBench (k : Block) (off : Nat) : List (Nat × Bool) := (off, op k off 1 % 8 == 2) :: copyAddrBad k off

/-- A plank range count outside 1 to the given maximum (R377). -/
def countBad (k : Block) (m : Nat) : List (Nat × Bool) := [(36, op k 36 4 == 0 || decide (op k 36 4 > m))]

/-- The array count of a launch, and its first group with it (R116). -/
def launchVals (k : Block) : List (Nat × Bool) :=
  let n := op k 41 1 % 16
  let bad := n == 0 || decide (n > 8)
  [(41, bad), (40, !bad && decide (op k 40 1 % 8 + n > 8))]

/-- Operand values outside their legal range, checked with the reserved fields (R555): offset and whether it is at fault. -/
def opVals (k : Block) : List (Nat × Bool) :=
  match opcode k with
  | 0x0104 => [(10, !condNone (wait0 k)), (18, !condNone (wait1 k))]
  | 0x0200 =>
    let n := op k 48 4
    copyAddrBad k 32 ++ copyAddrBad k 40 ++ [(48, n == 0 || n % 64 != 0), (52, nfld (op k 52 1) 1 0 == 3),
      (52, nfld (op k 52 1) 1 0 != 0 && (op k 40 1 % 8 != 0 || op k 32 1 % 8 == 3)),
      (32, op k 32 1 % 8 == op k 40 1 % 8 &&
        decide (op k 32 8 / 64 < op k 40 8 / 64 + n / 64 ∧ op k 40 8 / 64 < op k 32 8 / 64 + n / 64))]
  | 0x0201 => countBad k (2 ^ 26)
  | 0x0202 => countBad k (2 ^ 26)
  | 0x0203 => countBad k (2 ^ 26)
  | 0x0204 => countBad k 65536 ++ copyAddrBad k 40
  | 0x0205 => countBad k 1
  | 0x0803 => countBad k (2 ^ 26)
  | 0x0300 => launchVals k
  | 0x0301 => launchVals k
  | 0x0411 => [(36, nfld (op k 36 1) 6 5 == 3)]
  | 0x0421 => [(36, decide (op k 36 1 > 64))]
  | 0x0600 => [(36, decide (op k 36 3 < 8) || decide (op k 36 3 > 16777208))]
  | 0x0601 => [(36, decide (op k 36 3 < 8) || decide (op k 36 3 > 16777208))]
  | 0x0602 => [(56, decide (op k 56 1 > 64))]
  | 0x0604 => [(54, decide (nfld (op k 48 8) 49 48 ≥ 2))]
  | 0x0700 => [(33, bit k (8 * 32 + 3) && op k 33 1 != 0), (40, op k 40 1 % 2 == 0), (48, op k 48 4 % 64 != 0)]
  | 0x0782 => noBench k 40 ++ [(33, op k 33 1 == 0 || decide (op k 33 1 > 16))]
  | 0x0783 => [(36, op k 36 2 == 0)]
  | 0x0784 => [(36, op k 36 2 == 0)]
  | 0x0F00 => [(32, !([1, 2, 3, 4, 5, 6, 7, 8, 9, 10, 11, 12, 13, 14, 15, 16, 17, 18, 32, 33, 34].contains (op k 32 2)))]
  | 0x0F10 => noBench k 32 ++ [(40, op k 40 4 % 256 != 0), (44, op k 44 4 % 256 != 0 || decide (op k 40 4 + op k 44 4 > 2 ^ 24))]
  | 0x0F41 => [(32, bit k (8 * 33) && decide (op k 32 1 > 3))]
  | _ => []

/-- The reserved fields of the packet's own 32 bytes: flags [11:8], wait bits [15:14] and the reserved signal mode (R34, R35). -/
def headRsv (k : Block) : List (Nat × Bool) :=
  [(3, nfld (pktFlags k) 11 8 != 0),
   (9, nfld (wait0 k) 15 14 != 0),
   (17, nfld (wait1 k) 15 14 != 0),
   (25, signalMode (signalWord k) == 3)]

/-- The indices of a packet that the grant checks, each with its byte offset (R36, R346): kind 1 pegs, kind 0 queues, kind 10 window handles. -/
def pktIndices (k : Block) : List (Nat × Nat × Nat) :=
  (if condNone (wait0 k) then [] else [(8, 1, wordPeg (wait0 k))]) ++
  (if condNone (wait1 k) then [] else [(16, 1, wordPeg (wait1 k))]) ++
  (if signalMode (signalWord k) = 2 then [] else [(24, 1, wordPeg (signalWord k))]) ++
  (match opcode k with
   | 0x0101 => [(32, 1, op k 32 2 % 2 ^ 14)]
   | 0x0102 => [(32, 1, op k 32 2 % 2 ^ 14)]
   | 0x0103 => [(32, 1, op k 32 2 % 2 ^ 14)]
   | 0x0104 => [(32, 0, op k 32 2 % 2 ^ 10)]
   | o => if [0x0600, 0x0601, 0x0602, 0x0603, 0x0604, 0x0610, 0x0611].contains o then [(32, 10, op k 32 2 % 2 ^ 12)] else [])

/-- Combinations that a rule rejects for a command of partition p: a PAR_PREEMPT of the whole own partition (R424). -/
def partVals (p : Nat) (k : Block) : List (Nat × Bool) :=
  if opcode k = 0x0700 then [(32, bit k (8 * 32 + 3) && op k 32 1 % 8 == p)] else []

/-- The checks of R36 on a command of partition p, in order: generation, opcode, reserved fields and legal values, indices. -/
def checkPkt (s : State) (p : Nat) (k : Block) : Option Err :=
  if pktGen k ≠ 1 then some (badGen 1 2)
  else match opRsv (opcode k) with
    | none => some ⟨.badOpcode, 0⟩
    | some rs =>
      match fieldFault k.toNat rs (headRsv k ++ opVals k ++ partVals p k) with
      | some o => some (badRsv 0 o)
      | none => (firstSome (fun (i : Nat × Nat × Nat) => if s.inRange p i.2.1 i.2.2 then none else some i.1) (pktIndices k)).map accessErr

/-! ### Reading a parameter block -/

/-- Reads a structure of n bytes at an address of partition p, of a generation field at a byte, and checks it:
the generation first, then reserved fields and legal values (R9, R555). -/
def readStruct (s : State) (p : Nat) (a : Addr) (n : Nat) (accept : Bool) (kind genOff : Nat)
    (rs : List Rsv) (vals : List Byte → List (Nat × Bool)) : Except Err (List Byte) :=
  match s.read p a.tiered a.a n accept with
  | .error e => .error e
  | .ok bs =>
    if le bs genOff 1 % 16 ≠ 1 then .error (badGen kind genOff)
    else match fieldFault (ofBytes bs) rs (vals bs) with
      | some o => .error (badRsv 1 o)
      | none => .ok bs

end Sys2Proof.Machine
end

