-- ==== Sys2Proof/Machine/Flags.lean ====
section
/-! DEFINITION. Command flags (Table Cmd-3), status codes and their effect on the signal and the detail word (Table Cmd-6, R54). -/

namespace Sys2Proof.Machine

/-- LC. -/
def flagLc (k : Block) : Bool := bit k 20
/-- DET_REQUIRED. -/
def flagDet (k : Block) : Bool := bit k 21
/-- ORDERED. -/
def flagOrdered (k : Block) : Bool := bit k 22
/-- ACCEPT_TORN. -/
def flagTorn (k : Block) : Bool := bit k 23
/-- NO_WAIT. -/
def flagNoWait (k : Block) : Bool := bit k 24
/-- SIGNAL_ON_ERROR. -/
def flagSoe (k : Block) : Bool := bit k 25
/-- SERIAL. -/
def flagSerial (k : Block) : Bool := bit k 26
/-- IRQ. -/
def flagIrq (k : Block) : Bool := bit k 27

/-- The code of a status (Table Cmd-6). -/
def Status.code : Status → Nat
  | .ok => 0x00 | .lateCancel => 0x01 | .cancelled => 0x02 | .badOpcode => 0x03 | .badRsv => 0x04
  | .badGen => 0x05 | .quota => 0x06 | .noPlank => 0x07 | .staleRole => 0x08 | .fenced => 0x09
  | .torn => 0x0A | .peerLost => 0x0B | .timeout => 0x0C | .integrity => 0x0D | .diverged => 0x0E
  | .access => 0x0F | .preempted => 0x10 | .overflowSat => 0x11 | .breach => 0x12 | .arithMismatch => 0x13

/-- The status with a code; unknown codes read as ACCESS. -/
def Status.ofCode (n : Nat) : Status :=
  match n with
  | 0x00 => .ok | 0x01 => .lateCancel | 0x02 => .cancelled | 0x03 => .badOpcode | 0x04 => .badRsv
  | 0x05 => .badGen | 0x06 => .quota | 0x07 => .noPlank | 0x08 => .staleRole | 0x09 => .fenced
  | 0x0A => .torn | 0x0B => .peerLost | 0x0C => .timeout | 0x0D => .integrity | 0x0E => .diverged
  | 0x10 => .preempted | 0x11 => .overflowSat | 0x12 => .breach | 0x13 => .arithMismatch
  | _ => .access

/-- The completed statuses (R54). -/
def Status.completed : Status → Bool
  | .ok | .lateCancel | .overflowSat | .breach => true
  | _ => false

/-- What a status does to the signal (R53): always, with SIGNAL_ON_ERROR, or never; a failure of R36 never signals. -/
def signals (st : Status) (r36 soe : Bool) : Bool :=
  match st with
  | .ok | .lateCancel | .overflowSat | .breach => true
  | .badOpcode | .badRsv | .badGen | .preempted => false
  | _ => soe && !r36

/-- The highest-ranked of the completed statuses that apply (R54): BREACH, OVERFLOW_SAT, LATE_CANCEL, OK. -/
def finalStatus (st : Status) (sat breach : Bool) : Status :=
  if st.completed then if breach then .breach else if sat then .overflowSat else st else st

/-- The detail word of a record: [27:0] of the outcome, the informational bits [31:28] of R54 on a completed status,
and the breach record index in [15:0] under BREACH. A status that is not completed keeps its own detail. -/
def finalDetail (f : Fin') (i : InFlight) : W32 :=
  if f.st.completed then
    let low := match i.breach with
      | some x => f.det.toNat % 2 ^ 28 / 2 ^ 16 * 2 ^ 16 + x % 2 ^ 16
      | none => f.det.toNat % 2 ^ 28
    BitVec.ofNat 32 (low + b2n i.sat * 2 ^ 28 + b2n i.breach.isSome * 2 ^ 29 + b2n i.late * 2 ^ 30 + b2n i.tornRead * 2 ^ 31)
  else f.det

end Sys2Proof.Machine
end

