-- ==== Sys2Proof/Machine/Events.lean ====
section
/-! DEFINITION. The rings the device writes for software: fault events (R447), breach records (R434). -/

namespace Sys2Proof.Machine

/-- What a fault event record says (Table Fault-3), beside its time and epoch. -/
structure Event where
  /-- class -/
  cls : Nat
  /-- partition, if one is named -/
  part : Option Nat := none
  /-- report kind -/
  kind : Nat := 0
  /-- detail -/
  det : Nat := 0
  /-- address, plank, expert word or device -/
  addr : Nat := 0
  /-- reporters merged -/
  merged : Nat := 0

/-- The 32 bytes of a fault event record (Table Fault-3). -/
def eventBytes (e : Event) (hall : W64) (epoch : W16) : List Byte :=
  toBytes 32 (layout [(0, 1, 1 + 16 * e.cls),
    (1, 1, match e.part with | some p => p % 8 | none => 8),
    (2, 1, e.kind), (4, 4, e.det), (8, 8, hall.toNat), (16, 8, e.addr), (24, 2, epoch.toNat), (26, 2, e.merged)])

/-- The number of entries of a ring whose register holds log2_entries in [4:0]. -/
def ringSize (r : W64) : Nat := if fld r 4 0 = 0 then 0 else 2 ^ fld r 4 0

/-- A class-0 record of the unit and instance may be appended: none was within the last millisecond (R447). -/
def class0Due (e : Event) (s : State) : Bool :=
  match find? s.flt.class0 (e.det / 2 ^ 24 * 256 + e.det % 256) with
  | none => true
  | some t => decide (s.clk - t ≥ 1000000)

/-- Counts a fault event as dropped. -/
def dropEvent (s : State) : State := { s with flt := { s.flt with evDropped := satAdd s.flt.evDropped 1 } }

/-- Notes when the last class-0 record of a unit and instance was appended. -/
def noteClass0 (e : Event) (s : State) : State :=
  if e.cls = 0 then { s with flt := { s.flt with class0 := put s.flt.class0 (e.det / 2 ^ 24 * 256 + e.det % 256) s.clk } } else s

/-- Writes a record to the fault event ring at its producer, with its message (R447). -/
def writeEvent (e : Event) (p : Nat) (s : State) : State :=
  let s := s.write p true (fld s.evRing 63 12 * 4096 + 32 * (s.flt.evProd.toNat % ringSize s.evRing)) (eventBytes e s.hall s.flt.epoch)
  let s := { s with flt := { s.flt with evProd := s.flt.evProd + 1 } }
  if bit s.evCons 43 && e.cls ≥ 1 then msix 0 (fld s.evCons 42 32) s else s

/-- Appends a record to the ring: dropped without a ring, without room or where its plank is not served. -/
def ringEvent (e : Event) (s : State) : State :=
  let n := ringSize s.evRing
  match s.partOfFn 0 with
  | none => dropEvent s
  | some p =>
    if n = 0 || diff32 s.flt.evProd (BitVec.ofNat 32 (fld s.evCons 31 0)) = n then dropEvent s
    else match s.writeFault p true (fld s.evRing 63 12 * 4096 + 32 * (s.flt.evProd.toNat % n)) 32 with
      | some _ => dropEvent s
      | none => writeEvent e p s

/-- Appends a record to the fault event ring (R447): a class-0 record only when it is due. -/
def appendEvent (e : Event) (s : State) : State := if e.cls = 0 && !class0Due e s then s else ringEvent e (noteClass0 e s)

/-- The 32 bytes of a breach record (Table Part-7). -/
def breachBytes (b : Breach) (close : Bool) (dur : Nat) : List Byte :=
  toBytes 32 (layout [(0, 1, 1 + 16 * b2n close), (1, 1, b.broken + 16 * b.kept), (2, 1, b.cause), (3, 1, b.part),
    (4, 2, match b.queue with | some q => q | none => 2 ^ 15), (8, 8, b.start.toNat),
    (16, 4, min dur 0xFFFFFFFF), (20, 4, b.id), (24, 8, b.detail.toNat)])

/-- Appends a breach record to a partition's ring, or counts it dropped (R434). -/
def breachRecord (p : Nat) (bs : List Byte) (s : State) : State :=
  let r := s.breachRing p
  let n := ringSize r
  let c := getD s.par.rings p {}
  let drop := { s with par := { s.par with rings := put s.par.rings p { c with dropped := satAdd c.dropped 1 } } }
  let a := fld r 63 12 * 4096 + 32 * (c.prod.toNat % n)
  if n = 0 || diff32 c.prod (BitVec.ofNat 32 (fld (s.breachCons p) 31 0)) = n then drop
  else match s.writeFault p true a 32 with
    | some _ => drop
    | none =>
      let s := s.write p true a bs
      { s with par := { s.par with rings := put s.par.rings p { c with prod := c.prod + 1 } } }

/-- Opens a breach (R434): writes its open record and keeps it until it ends. -/
def openBreach (p broken kept cause : Nat) (queue : Option Nat) (detail : Nat) (s : State) : State :=
  let b : Breach := ⟨s.par.breachId, p, broken, kept, cause, queue, s.hall, BitVec.ofNat 64 detail, (getD s.par.rings p {}).prod.toNat % 2 ^ 16⟩
  let s := breachRecord p (breachBytes b false 0) s
  { s with par := { s.par with breachId := s.par.breachId + 1, breaches := s.par.breaches ++ [b] } }

/-- Closes the open breaches that satisfy a predicate: writes their close records (R434). -/
def closeBreaches (sel : Breach → Bool) (s : State) : State :=
  let done := s.par.breaches.filter sel
  let s := { s with par := { s.par with breaches := s.par.breaches.filter fun b => !sel b } }
  done.foldl (fun s b => breachRecord b.part (breachBytes b true (s.hall - b.start).toNat) s) s

/-- A breach that begins and ends in one event: open and close records (R434). -/
def momentBreach (p broken kept cause : Nat) (queue : Option Nat) (detail : Nat) (s : State) : State :=
  let id := s.par.breachId
  closeBreaches (fun b => b.id == id) (openBreach p broken kept cause queue detail s)

/-- Appends the event of an uncorrectable fault, class 1 (R447). -/
def uncorrectable (p : Option Nat) (det addr : Nat) (s : State) : State :=
  appendEvent { cls := 1, part := p, det := det, addr := addr } s

end Sys2Proof.Machine
end

