-- ==== Sys2Proof/Machine/Pegs.lean ====
section
/-! DEFINITION. Pegs: their updates, and the wait conditions tested on them. -/

namespace Sys2Proof.Machine

/-- The value of a peg. -/
def State.pegVal (s : State) (p : Nat) : W64 := getD s.cmd.pegs p 0

/-- The value of a peg after an update of it: add is modulo 2^64, set replaces the value (R38). -/
def PegUpd.value (old : W64) : PegUpd → W64
  | .add v => old + v
  | .set v => v

/-- A wait condition of a command (Table Cmd-2): peg, cond and threshold of a wait word. -/
def condHolds (w : Nat) (val : W64) : Bool :=
  let thr := nfld w 63 18
  match nfld w 17 16 with
  | 0 => decide (val.toNat ≥ thr)
  | 1 => decide (val.toNat = thr)
  | 2 => decide (val.toNat ≠ thr)
  | _ => true

/-- The wait word names peg p and is not none. -/
def condOn (w p : Nat) : Bool := nfld w 17 16 != 3 && nfld w 13 0 == p

/-- Tests the conditions of a command that has reached the issue point on the present value of peg p (R41, R42). -/
def latchOn (p : Nat) (val : W64) (f : Fetched) : Fetched :=
  if f.reached.isNone then f
  else { f with latched0 := f.latched0 || (condOn (byteFld f.pkt 8 8) p && condHolds (byteFld f.pkt 8 8) val),
                latched1 := f.latched1 || (condOn (byteFld f.pkt 16 8) p && condHolds (byteFld f.pkt 16 8) val) }

/-- Tests what an array waits for or gathers on the present value of peg p (R41, R120, R128). -/
def latchArr (p now : Nat) (val : W64) (x : Arr) : Arr :=
  let x := match x.wait with
    | some (w, done) => { x with wait := some (w, done || (condOn w p && condHolds w val)) }
    | none => x
  match x.gather with
  | some g => if g.peg = p ∧ g.nonzero = none ∧ val ≠ g.used then { x with gather := some { g with nonzero := some now } } else x
  | none => x

/-- Tests every condition pending on peg p after an update of it (R41). -/
def latchPeg (p : Nat) (s : State) : State :=
  let s := s.mapQueues fun _ x => { x with fetched := x.fetched.map (latchOn p (s.pegVal p)) }
  { s with arrs := s.arrs.map fun e => (e.1, latchArr p s.clk (s.pegVal p) e.2) }

/-- One update of a peg, and the test of the conditions pending on it (R39, R41). -/
def applyUpd (p : Nat) (u : PegUpd) (s : State) : State :=
  latchPeg p { s with cmd := { s.cmd with pegs := put s.cmd.pegs p (u.value (s.pegVal p)) } }

/-- The update is an add. -/
def PegUpd.isAdd : PegUpd → Bool
  | .add _ => true
  | .set _ => false

/-- What an add adds; a set adds nothing. -/
def PegUpd.addend : PegUpd → W64
  | .add v => v
  | .set _ => 0

/-- The value after a set; an add, already counted in the sum, leaves it. -/
def PegUpd.setOver (v : W64) : PegUpd → W64
  | .add _ => v
  | .set w => w

/-- The sum of the adds among updates, modulo 2^64. -/
def sumAdds (us : List PegUpd) : W64 := us.foldl (fun acc u => acc + u.addend) 0

/-- One set among the updates of a cycle; an add was applied before. -/
def applySet (p : Nat) (s : State) (u : PegUpd) : State := if u.isAdd then s else applyUpd p u s

/-- The updates that reach one peg in one CLK_CTL cycle, given in ascending source order: first all adds as one update, then each set (R39). -/
def applyCycle (p : Nat) (us : List PegUpd) (s : State) : State :=
  us.foldl (applySet p) (if us.any PegUpd.isAdd then applyUpd p (.add (sumAdds us)) s else s)

/-! ### Cycles (R39) -/

/-- The ascending source order of R39: local queues by queue index, then PEG_VALUE writes, then remote signals by source device ID. -/
inductive PegSource where
  /-- a command's signal, PEG_ADD, PEG_SET or an engine's update: the queue that holds the command -/
  | queue (q : Nat)
  /-- SIGPEG: the queue of the KLAUNCH, and the array -/
  | array (q a : Nat)
  /-- a write of PEG_VALUE -/
  | value
  /-- a remote signal: source device ID -/
  | remote (src : Nat)

/-- A source's place in that order: the arrays of one launch stand after its queue's own updates, in ascending array number. -/
def PegSource.rank : PegSource → Nat
  | .queue q => q * 512
  | .array q a => q * 512 + 1 + a
  | .value => 1024 * 512
  | .remote src => 1024 * 512 + 1 + src

/-- An update takes its place among those of its cycle, after those of its own source. -/
def insertUpd (x : Nat × PegUpd) : List (Nat × PegUpd) → List (Nat × PegUpd)
  | [] => [x]
  | y :: r => if x.1 < y.1 then x :: y :: r else y :: insertUpd x r

/-- The conditions on peg p that are pending: each fetched command with the waits that name p and have not held. -/
def State.pendingConds (s : State) (p : Nat) : List (Nat × BitVec 32 × Bool × Bool) :=
  s.cmd.wq.flatMap fun e => e.2.fetched.filterMap fun f =>
    let a := f.reached.isSome && condOn (byteFld f.pkt 8 8) p && !f.latched0
    let b := f.reached.isSome && condOn (byteFld f.pkt 16 8) p && !f.latched1
    if a || b then some (e.1, f.slot, a, b) else none

/-- The arrays that wait for peg p. -/
def State.pendingWaits (s : State) (p : Nat) : List Nat :=
  s.arrs.filterMap fun e => match e.2.wait with
    | some (w, false) => if condOn w p then some e.1 else none
    | _ => none

/-- Whether an update of peg p that follows another one in the same nanosecond falls into the same CLK_CTL cycle is free (log 6). It does not where a condition
that the cycle found pending has already let its command or its array go on, which takes a later cycle (R44). -/
def PegCycle.joins (y : PegCycle) (n : Nat) (s : State) : Bool :=
  y.at_ == s.clk && Config.freeBit n &&
  y.conds.all (fun c => (getD s.cmd.wq c.1 {}).fetched.any fun f => f.slot == c.2.1) &&
  y.waits.all fun a => (getD s.arrs a {}).wait.isSome

/-- A pending condition has not held before its cycle's updates are seen. -/
def unlatch (cs : List (Nat × BitVec 32 × Bool × Bool)) (q : Nat) (f : Fetched) : Fetched :=
  match pick (fun c => c.1 == q && c.2.1 == f.slot) cs with
  | some (_, _, a, b) => { f with latched0 := f.latched0 && !a, latched1 := f.latched1 && !b }
  | none => f

/-- The state in which the updates of the cycle are still to come. -/
def PegCycle.undo (y : PegCycle) (p : Nat) (s : State) : State :=
  let s := s.mapQueues fun q x => { x with fetched := x.fetched.map (unlatch y.conds q) }
  { s with cmd := { s.cmd with pegs := put s.cmd.pegs p y.base },
           arrs := s.arrs.map fun e => (e.1, if y.waits.contains e.1 then { e.2 with wait := e.2.wait.map fun w => (w.1, false) } else e.2) }

/-- Notes what the cycle in progress has brought to a peg. -/
def setCycle (p : Nat) (y : PegCycle) (s : State) : State := s.onCmd fun c => { c with cycles := put c.cycles p y }

/-- An update that begins a cycle of its own. -/
def freshUpdate (p : Nat) (k : PegSource) (u : PegUpd) (s : State) : State :=
  applyCycle p [u] (setCycle p ⟨s.clk, s.pegVal p, [(k.rank, u)], s.pendingConds p, s.pendingWaits p⟩ s)

/-- An update that joins a cycle: the cycle is applied again from its beginning with the update in its place, so that no value between two of its adds
has been seen and its sets stand in source order (R39). -/
def joinUpdate (p : Nat) (k : PegSource) (u : PegUpd) (y : PegCycle) (s : State) : State :=
  let us := insertUpd (k.rank, u) y.ups
  applyCycle p (us.map (·.2)) (setCycle p { y with ups := us } (y.undo p s))

/-- An update of a peg by a source (R38, R39): in a cycle of its own, or in the cycle of the update before it. -/
def pegUpdate (p : Nat) (k : PegSource) (u : PegUpd) (s : State) : State :=
  match find? s.cmd.cycles p with
  | none => freshUpdate p k u s
  | some y =>
    if y.at_ ≠ s.clk then freshUpdate p k u s
    else
      let d := s.draw
      if y.joins d.1 s then joinUpdate p k u y d.2 else freshUpdate p k u d.2

/-- The value of a peg before an update of it by a source, which PEG_ADD and PEG_SET return: before the cycle for an add, and for a set after the adds of its cycle
and the sets that come before it. -/
def State.pegBefore (s : State) (p : Nat) (k : PegSource) (u : PegUpd) : W64 :=
  match find? s.cmd.cycles p with
  | none => s.pegVal p
  | some y =>
    if !y.joins s.draws s then s.pegVal p
    else if u.isAdd then y.base
    else
      let us := (y.ups.filter fun x => x.2.isAdd || decide (x.1 ≤ k.rank)).map (·.2)
      us.foldl PegUpd.setOver (y.base + sumAdds us)

end Sys2Proof.Machine
end

