-- ==== Sys2Proof/Machine/Cmd.lean ====
section
/-! DEFINITION. The life of a command between grant and completion: finding it, starting its work, what it reads and writes, and ending it. -/

namespace Sys2Proof.Machine

/-- The state of work queue q. -/
def State.queue (s : State) (q : Nat) : Queue := getD s.cmd.wq q {}
/-- The state with work queue q replaced. -/
def State.setQueue (s : State) (q : Nat) (x : Queue) : State := s.onCmd fun c => { c with wq := put c.wq q x }
/-- The state of completion queue c. -/
def State.cqOf (s : State) (c : Nat) : Cq := getD s.cmd.cq c {}
/-- The state with completion queue c replaced. -/
def State.setCq (s : State) (c : Nat) (x : Cq) : State := s.onCmd fun m => { m with cq := put m.cq c x }

/-- The granted, uncompleted command that a reference names. -/
def State.inflight (s : State) (c : CmdRef) : Option InFlight := pick (fun i => i.slot == c.slot) (s.queue c.q).inflight

/-- Changes the command that a reference names. -/
def State.updIn (s : State) (c : CmdRef) (f : InFlight → InFlight) : State :=
  let x := s.queue c.q
  s.setQueue c.q { x with inflight := x.inflight.map fun i => if i.slot = c.slot then f i else i }

/-- The partition a command belongs to (R411). -/
def State.cmdPart (s : State) (c : CmdRef) : Nat := (s.partOfQueue c.q).getD 0

/-- The function that owns a partition's queues. -/
def State.cmdFn (s : State) (c : CmdRef) : Nat := s.parFn (s.cmdPart c)

/-- How a piece of work ended. -/
structure Done where
  /-- the state after it -/
  s : State
  /-- its status -/
  st : Status := .ok
  /-- its result field -/
  result : Nat := 0
  /-- its detail -/
  det : Nat := 0

/-- What the end of a command's work does beside fixing its outcome: INTEGRITY tears every plank the command touched (R387) and is
reported (R447), as is DIVERGED; a completed status clears the torn mark of every plank it wrote whole (R389). -/
def endEffects (c : CmdRef) (i : InFlight) (st : Status) (det : Nat) (s : State) : State :=
  if st = .integrity then uncorrectable (some (s.cmdPart c)) det 0 (s.tear i.wrote)
  else if st = .diverged then appendEvent { cls := 5, part := some (s.cmdPart c), det := det, addr := i.acc } s
  else if st.completed then s.mend i.wrote else s

/-- Ends a command's work (R49): its outcome is fixed and waits for COMMAND_COMPLETE. -/
def endCmd (c : CmdRef) (st : Status) (result det : Nat) (s : State) : State :=
  match s.inflight c with
  | none => s
  | some i => (endEffects c i st det s).updIn c fun j => { j with stage := .ended ⟨st, BitVec.ofNat 64 result, BitVec.ofNat 32 det, false⟩ }

/-- Ends a command with a failure. -/
def failCmd (c : CmdRef) (e : Err) (s : State) : State := endCmd c e.st 0 e.det s

/-- The granted command of a reference whose work has not begun and may begin, when its opcode is the given one. While a bay of its partition is busy
(R371, log 10), or a regulator of its class holds back what it would access (R418, log 97), commands other than those of class 0x01, which access no memory, wait.
The Planes wait while they get no clock pulse (R492, log 143). -/
def State.ready (s : State) (c : CmdRef) (o : Nat) : Option InFlight :=
  match s.inflight c with
  | some i => if i.stage = .granted ∧ opcode i.pkt = o ∧ (o / 256 = 1 ∨ s.bayWaits (s.cmdPart c) = false ∧ s.regWaits (s.cmdPart c) (flagLc i.pkt) = false) ∧
      ([0x02F0, 0x02F1, 0x02F2].contains o && s.stilled) = false then some i else none
  | none => none

/-- The running command of a reference. -/
def State.running (s : State) (c : CmdRef) : Option InFlight :=
  match s.inflight c with
  | some i => if i.stage = .running then some i else none
  | none => none

/-- Notes a saturation of the command (detail bit 28). -/
def noteSat (c : CmdRef) (s : State) : State := s.updIn c ({ · with sat := true })

/-- Notes a torn plank read under ACCEPT_TORN (detail bit 31). -/
def noteTorn (c : CmdRef) (b : Bool) (s : State) : State := if b then s.updIn c ({ · with tornRead := true }) else s

/-- Notes a torn plank among memory that a command reads under ACCEPT_TORN (R388). -/
def noteReads (c : CmdRef) (p : Nat) (rs : List (Addr × Nat)) (s : State) : State :=
  noteTorn c (rs.any fun r => s.rangeTorn p r.1.tiered r.1.a r.2) s

/-- The parameter block, record or image that a command names in its packet. -/
def paramReads (k : Block) : List (Addr × Nat) :=
  let at_ (off n : Nat) : List (Addr × Nat) := [(addr154 (op k off 8), n)]
  match opcode k with
  | 0x0400 => at_ 40 64 | 0x0401 => at_ 40 2048 | 0x0410 => at_ 40 64 | 0x0500 => at_ 40 64 | 0x0610 => at_ 40 32 | 0x0780 => at_ 40 64
  | 0x0210 => at_ 32 32 | 0x0212 => at_ 32 24 | 0x0800 => at_ 32 64 | 0x0F40 => at_ 32 64
  | 0x02F0 => at_ 32 64 | 0x02F1 => at_ 32 64 | 0x02F2 => at_ 32 64 | 0x0402 => at_ 32 64 | 0x0412 => at_ 32 64 | 0x0420 => at_ 32 64 | 0x0422 => at_ 32 64
  | 0x0424 => at_ 32 64 | 0x0425 => at_ 32 64
  | o => if o / 16 = 0x051 then at_ 32 128 else []

/-- A parameter structure of the command lies on a torn plank, which it reads under ACCEPT_TORN. -/
def State.paramTorn (s : State) (p : Nat) (k : Block) : Bool := (paramReads k).any fun r => s.rangeTorn p r.1.tiered r.1.a r.2

/-- A command whose work is done whole: its body answers the end, or a failure that leaves the state as it was.
A reference that names no such granted command changes nothing (log 8). -/
def wholeCmd (c : CmdRef) (o : Nat) (f : Block → Nat → State → Except Err Done) (s : State) : State :=
  match s.ready c o with
  | none => s
  | some i => match f i.pkt (s.cmdPart c) s with
    | .ok d => endCmd c d.st d.result d.det (noteTorn c (s.paramTorn (s.cmdPart c) i.pkt) d.s)
    | .error e => failCmd c e s

/-- A command whose work begins now and ends by a later event. -/
def beginCmd (c : CmdRef) (o : Nat) (f : Block → Nat → State → Except Err State) (s : State) : State :=
  match s.ready c o with
  | none => s
  | some i => match f i.pkt (s.cmdPart c) (s.updIn c ({ · with stage := .running })) with
    | .ok s' => noteTorn c (s.paramTorn (s.cmdPart c) i.pkt) s'
    | .error e => failCmd c e s

/-- A command of class 0x0F: on a queue outside the PF's partition it completes ACCESS (R535), with a free detail (log 71). -/
def mgtOnly (c : CmdRef) (o : Nat) (act : State → State) (s : State) : State :=
  match s.ready c o with
  | none => s
  | some _ =>
    if s.cmdFn c = 0 then act s
    else
      let d := s.draw
      failCmd c (accessErr ((Config.freeWord d.1).toNat % 2 ^ 28)) d.2

/-- The address lies in a part of the Loft space whose bay was changed under the command (R371). -/
def State.bayGone (s : State) (c : CmdRef) (tiered : Bool) (a : Nat) : Bool :=
  !tiered && (match s.inflight c with
    | some i => i.gone.contains (a / 2 ^ 24)
    | none => false)

/-- Some address of the range does. -/
def State.rangeGone (s : State) (c : CmdRef) (ad : Addr) (n : Nat) : Bool := (granules ad.a n).any (s.bayGone c ad.tiered)

/-- Writes bytes granule by granule; those to a part whose bay is gone are lost (R371). -/
def writeAround (c : CmdRef) (p : Nat) (tiered : Bool) (a : Nat) (bs : List Byte) : (fuel : Nat) → State → State × Nat × Option Err
  | 0, s => (s, 0, none)
  | fuel + 1, s =>
    if bs.isEmpty then (s, 0, none)
    else
      let n := 64 - a % 64
      let w := if s.bayGone c tiered a then (s, none) else
        let r := s.writeFor p tiered a (bs.take n)
        (r.1, r.2.2)
      match w.2 with
      | some e => (w.1, 0, some e)
      | none =>
        let r := writeAround c p tiered (a + n) (bs.drop n) fuel w.1
        (r.1, r.2.1 + (bs.take n).length, r.2.2)

/-- The class of a command (R417). -/
def State.cmdLc (s : State) (c : CmdRef) : Bool := match s.inflight c with
  | some i => flagLc i.pkt
  | none => false

/-- The HBM or the Loft accepts an access of a command. -/
def chargeCmd (c : CmdRef) (p : Nat) (ad : Addr) (n : Nat) (s : State) : State := chargeAccess p (s.cmdLc c) ad.tiered ad.a n s

/-- A command writes bytes of its partition: the state with what it wrote noted, the bytes written, and the failure. -/
def cmdWrite (c : CmdRef) (p : Nat) (ad : Addr) (bs : List Byte) (s : State) : State × Nat × Option Err :=
  let r := if s.rangeGone c ad bs.length then writeAround c p ad.tiered ad.a bs (bs.length + 1) s else s.writeFor p ad.tiered ad.a bs
  let xs := if s.rangeGone c ad bs.length then
      ((granules ad.a r.2.1).filter fun g => !s.bayGone c ad.tiered g).flatMap fun g => s.extents p ad.tiered g (min (64 - g % 64) (ad.a + r.2.1 - g))
    else s.extents p ad.tiered ad.a r.2.1
  (chargeCmd c p ad r.2.1 (r.1.updIn c fun i => { i with wrote := i.wrote ++ xs }), r.2.1, r.2.2)

/-- A command reads bytes of its partition, with ACCEPT_TORN when it carries the flag; a part whose bay is gone reads as zeros (R371). -/
def cmdRead (c : CmdRef) (p : Nat) (ad : Addr) (n : Nat) (s : State) : Except Err (List Byte) :=
  let accept := match s.inflight c with
    | some i => flagTorn i.pkt
    | none => false
  if s.rangeGone c ad n then
    match firstSome (fun g => if s.bayGone c ad.tiered g then none else s.readFault p ad.tiered accept g) (granules ad.a n) with
    | some e => .error e
    | none => .ok ((List.range n).map fun i => if s.bayGone c ad.tiered (ad.a + i) then 0 else s.byteAt p ad.tiered (ad.a + i))
  else s.read p ad.tiered ad.a n accept

/-- A command reads a parameter block and checks it. -/
def cmdBlock (c : CmdRef) (p : Nat) (ad : Addr) (n kind genOff : Nat) (rs : List Rsv)
    (vals : List Byte → List (Nat × Bool)) (s : State) : Except Err (List Byte) :=
  readStruct s p ad n (match s.inflight c with
    | some i => flagTorn i.pkt
    | none => false) kind genOff rs vals

/-- Turns a failed check into its error. -/
def guardE (bad : Bool) (e : Err) : Except Err Unit := if bad then .error e else .ok ()

/-- Every granted, uncompleted command, with the queue it stands in. -/
def State.allInflight (s : State) : List (Nat × InFlight) := s.cmd.wq.flatMap fun e => e.2.inflight.map fun i => (e.1, i)

/-- The reference of a command of queue q. -/
def refOf (q : Nat) (i : InFlight) : CmdRef := ⟨Fin.ofNat 1024 q, i.slot⟩

/-- Some command with one of the given opcodes is granted and has not ended. -/
def State.busyWith (s : State) (p : Block → Bool) : Bool :=
  s.allInflight.any fun e => (e.2.stage = .granted || e.2.stage = .running) && p e.2.pkt

/-- The running or granted, unended commands of a partition. -/
def State.openCmds (s : State) (p : Nat) : List (Nat × InFlight) :=
  s.allInflight.filter fun e => s.partOfQueue e.1 == some p && (e.2.stage = .granted || e.2.stage = .running)

end Sys2Proof.Machine
end

