-- ==== Sys2Proof/Machine/Arith.lean ====
section
/-! DEFINITION. Shared-scale integer arithmetic (chapter 3): formats, block products, alignment, rounding, requantization and the stochastic-rounding generator. -/

namespace Sys2Proof.Machine

open Sys2Proof

/-! ### Formats (R64 to R68) -/

/-- Bytes of a block of 32 elements of w bits (Table Arith-1). -/
def blockBytesOf (w : Nat) : Nat := 4 * w

/-- Bytes of a scale of w-bit elements: E16 for ACC48, E8 otherwise (R67). -/
def scaleBytesOf (w : Nat) : Nat := if w = 48 then 2 else 1

/-- The elements of a block of 32 elements of w bits; packing is little-endian for every width (Table Arith-1). -/
def unpack (w n : Nat) (bs : List Byte) : List Int :=
  let x := ofBytes bs
  (List.range n).map fun i => signed w (x >>> (w * i))

/-- The bytes of elements of w bits. -/
def pack (w : Nat) (qs : List Int) : List Byte :=
  toBytes (qs.length * w / 8) (qs.foldr (fun q acc => bitsOf w q + (acc <<< w)) 0)

/-- An E8 scale; the zero-block code has no exponent (Table Arith-2). -/
def scale8 (b : Nat) : Option Int := if b % 256 = 0x80 then none else some (signed 8 b)

/-- The byte of an E8 scale. -/
def scale8Byte (e : Option Int) : Byte := match e with
  | none => 0x80
  | some e => BitVec.ofInt 8 e

/-- An invalid E16 code (Table Arith-2). -/
def bad16 (b : Nat) : Bool := decide (0x0400 ≤ b ∧ b ≤ 0x7FFF) || decide (0x8001 ≤ b ∧ b ≤ 0xFC00)

/-- An E16 scale; the zero-block code has no exponent. -/
def scale16 (b : Nat) : Option Int := if b = 0x8000 then none else some (signed 16 b)

/-- The code of an E16 scale. -/
def scale16Code (e : Option Int) : Nat := match e with
  | none => 0x8000
  | some e => bitsOf 16 e

/-- A block: its elements and its exponent, none for a block with the zero-block code (R68). -/
structure Blk where
  /-- 32 elements -/
  q : List Int
  /-- exponent -/
  e : Option Int
deriving DecidableEq, Repr

/-- A block of zeros with the zero-block code. -/
def Blk.zero : Blk := ⟨List.replicate 32 0, none⟩

/-- A block of SSI elements with its E8 byte: a zero-block code reads as zeros (R68). -/
def readBlk (w : Nat) (bs : List Byte) (scale : Nat) : Blk :=
  match scale8 scale with
  | none => Blk.zero
  | some e => ⟨unpack w 32 bs, some e⟩

/-- A block whose positions from n on read as zero (R66). -/
def Blk.keep (n : Nat) (b : Blk) : Blk := ⟨b.q.take n ++ List.replicate (32 - n) 0, b.e⟩

/-! ### Rounding, alignment and clamping (R74, R80) -/

/-- Right shift with round-half-to-even (R74). -/
def rshiftRne (x : Int) (s : Nat) : Int :=
  if s = 0 then x
  else if s ≥ 64 then 0
  else
    let q := x / 2 ^ s
    let r := x - q * 2 ^ s
    let h : Int := 2 ^ (s - 1)
    if r > h ∨ (r = h ∧ q % 2 = 1) then q + 1 else q

/-- Clamps to a range, and says whether it clamped (R81). -/
def clampTo (lo hi y : Int) : Int × Bool := if y > hi then (hi, true) else if y < lo then (lo, true) else (y, false)

/-- Clamps to 48 bits (R74). -/
def clamp48 (y : Int) : Int × Bool := clampTo (-2 ^ 47) (2 ^ 47 - 1) y

/-- Clamps to 64 bits. -/
def clamp64 (y : Int) : Int × Bool := clampTo (-2 ^ 63) (2 ^ 63 - 1) y

/-- Clamps to 32 bits. -/
def clamp32 (y : Int) : Int × Bool := clampTo (-2 ^ 31) (2 ^ 31 - 1) y

/-- Aligns a value of exponent e to exponent et (R74). A left shift by 64 or more clamps as one by 64 does. -/
def align (x e et : Int) : Int × Bool :=
  let d := e - et
  if d ≥ 0 then clamp48 (x * 2 ^ (min d.toNat 64)) else clamp48 (rshiftRne x (-d).toNat)

/-- The output function of the generator (R80). -/
def mix (z : W64) : W64 :=
  let z := (z ^^^ (z >>> 30)) * 0xBF58476D1CE4E5B9
  let z := (z ^^^ (z >>> 27)) * 0x94D049BB133111EB
  z ^^^ (z >>> 31)

/-- One draw (R80); an index enters modulo 2^48. -/
def srDraw (seed : W64) (tensor index : Nat) : W64 :=
  mix (mix (seed + (BitVec.ofNat 64 tensor + 1) * 0x9E3779B97F4A7C15) ^^^ BitVec.ofNat 64 (index % 2 ^ 48))

/-- Right shift with stochastic rounding (R80). -/
def rshiftSr (x : Int) (s : Nat) (r64 : W64) : Int :=
  if s > 63 then 0
  else
    let q := x / 2 ^ s
    let r := x - q * 2 ^ s
    let u : Int := (r64.toNat >>> (64 - s) : Nat)
    if r + u ≥ 2 ^ s then q + 1 else q

/-- A rounding mode: RNE, or SR with its seed, tensor id and first element index. -/
structure Rounding where
  /-- SR -/
  sr : Bool := false
  /-- seed -/
  seed : W64 := 0
  /-- tensor id -/
  tensor : Nat := 0
  /-- index of element 0 -/
  base : Nat := 0
deriving DecidableEq, Repr

/-- Shift of element i in a rounding mode (R77): a shift of 0 or less is exact. -/
def shiftIn (m : Rounding) (x s : Int) (i : Nat) : Int :=
  if s ≤ 0 then x * 2 ^ (-s).toNat
  else if m.sr then rshiftSr x s.toNat (srDraw m.seed m.tensor (m.base + i))
  else rshiftRne x s.toNat

/-! ### Requantization (R77) -/

/-- Number of bits of a magnitude. -/
def bitlen (m : Nat) : Nat := if m = 0 then 0 else Nat.log2 m + 1

/-- The elements shifted by s. -/
def shiftAll (m : Rounding) (v : List Int) (s : Int) : List Int := v.mapIdx fun i x => shiftIn m x s i

/-- A requantized block: its elements, its exponent (none for zero), and whether it saturated. -/
structure Requant where
  /-- elements -/
  q : List Int
  /-- E8 exponent -/
  e : Option Int
  /-- mark_saturation was called -/
  sat : Bool := false
deriving DecidableEq, Repr

/-- The zero block takes over a block that rounds to zeros. -/
def Requant.settle (r : Requant) : Requant := if r.q.all (· == 0) then ⟨r.q, none, r.sat⟩ else r

/-- The loop of requantize from shift s (R77, R78). -/
def requantLoop (v : List Int) (eIn : Int) (w : Nat) (m : Rounding) : (passes : Nat) → Int → Requant
  | 0, s => ⟨shiftAll m v s, some (eIn + s), false⟩
  | n + 1, s =>
    let lo : Int := -2 ^ (w - 1)
    let hi : Int := 2 ^ (w - 1) - 1
    if eIn + s > 127 then
      let t := (shiftAll m v (127 - eIn)).map (clampTo lo hi)
      ⟨t.map (·.1), some 127, t.any (·.2)⟩
    else
      let q := shiftAll m v s
      if q.all fun x => decide (lo ≤ x) && decide (x ≤ hi) then ⟨q, some (eIn + s), false⟩
      else requantLoop v eIn w m n (s + 1)

/-- Requantizes a block to w bits (R77). -/
def requantize (v : List Int) (eIn : Int) (w : Nat) (m : Rounding) : Requant :=
  let mx := v.foldl (fun a x => max a x.natAbs) 0
  if mx = 0 then ⟨v.map fun _ => 0, none, false⟩
  else
    let s : Int := bitlen mx - (w - 1 : Nat)
    let s := if eIn + s < -127 then -127 - eIn else s
    (requantLoop v eIn w m 3 s).settle

/-- Results of checks of the arithmetic hardware that failed (R83): residue mismatches, and disagreements of duplicated copies. -/
structure Checks where
  /-- residue mismatches -/
  residue : Nat := 0
  /-- disagreements -/
  copies : Nat := 0
deriving DecidableEq, Repr

/-- The failed checks of two parts together. -/
def Checks.add (a b : Checks) : Checks := ⟨a.residue + b.residue, a.copies + b.copies⟩

/-- Some check failed. -/
def Checks.any (c : Checks) : Bool := c.residue + c.copies != 0

/-- The check an INTEGRITY detail names: residue mismatch before duplicate disagreement (Table Fault-1). -/
def Checks.code (c : Checks) : Nat := if c.residue != 0 then 2 else 3

/-! ### Block products and sums (R70 to R76, R87) -/

/-- Guard shift G of an operand pair (Table Arith-3). -/
def guardShift (aw ww : Nat) : Int :=
  match max aw ww, min aw ww with
  | 4, _ => 19
  | 8, 4 => 15
  | 8, _ => 11
  | _, 4 => 7
  | _, 8 => 3
  | _, _ => -5

/-- The block product of two blocks (R70). -/
def dot (a w : List Int) : Int := (List.zipWith (· * ·) a w).foldl (· + ·) 0

/-- The exponent of a contributing block pair (R72). -/
def pairExp (a w : Blk) : Option Int := match a.e, w.e with
  | some x, some y => some (x + y)
  | _, _ => none

/-- The largest exponent listed. -/
def maxExp (es : List (Option Int)) : Option Int :=
  es.foldl (fun acc e => match acc, e with
    | some a, some b => some (max a b)
    | none, e => e
    | a, none => a) none

/-- The 64-bit working sum after adding a value: sums stay in 64 bits. -/
def wrap64 (x : Int) : Int := (BitVec.ofInt 64 x).toInt

/-! ### The drain's sums and their residue checks (R75, R76, R83) -/

/-- x mod 7, in 0 to 6 for negative x as well (R83). -/
def res7 (x : Int) : Nat := (x % 7).toNat

/-- The residue of a block product on its separate path (R83). -/
def dotRes (a w : List Int) : Nat := (List.zipWith (fun x y => res7 x * res7 y) a w).foldl (· + ·) 0 % 7

/-- The residue of an aligned term: for a left shift that does not clamp, the residue of the product times that of the power of two (R83). -/
def termRes (p e et : Int) (t : Int × Bool) : Nat := if e ≥ et ∧ t.2 = false then res7 p * res7 (2 ^ (e - et).toNat) % 7 else res7 t.1

/-- A working sum while the drain forms it. -/
structure Drain where
  /-- the sum -/
  sum : Int
  /-- the sum of the residues of what was added -/
  res : Nat
  /-- an alignment clamped -/
  sat : Bool := false
  /-- the checks that failed -/
  bad : Checks := {}
deriving DecidableEq, Repr

/-- Adds an aligned product to a working sum (R75). The product is checked by its residue, and the alignment by its second copy (R83). -/
def Drain.term (u : Upset) (et : Int) (d : Drain) (product e : Int) (residue : Nat) : Drain :=
  let x := product + u.prod
  let t := align x e et
  { sum := d.sum + t.1, res := d.res + termRes x e et t, sat := d.sat || t.2, bad := d.bad.add ⟨b2n (res7 x != residue), b2n u.align⟩ }

/-- Adds the aligned block product of a block pair (R75). -/
def Drain.add (u : Upset) (et : Int) (d : Drain) (p : Blk × Blk) : Drain :=
  match pairExp p.1 p.2 with
  | none => d
  | some e => d.term u et (dot p.1.q p.2.q) e (dotRes p.1.q p.2.q)

/-- The end of a working sum: it is kept in 64 bits and checked by its residue (R83, R87). -/
def Drain.close (u : Upset) (d : Drain) : Drain :=
  let t := d.sum + u.sum
  { d with sum := wrap64 t, bad := d.bad.add ⟨b2n (res7 t != d.res % 7), 0⟩ }

/-- The sum of a working sum and the aligned block products of block pairs, checked by its residue (R75, R83). -/
def drainSum (u : Upset) (et : Int) (ps : List (Blk × Blk)) (s : Int) : Drain :=
  (ps.foldl (Drain.add u et) { sum := s, res := res7 s }).close u

/-- The sum of hardware without a defect, and whether an alignment clamped. -/
def addPairs (et : Int) (ps : List (Blk × Blk)) (s : Int) : Int × Bool := ((drainSum {} et ps s).sum, (drainSum {} et ps s).sat)

/-- The contributing block pairs among some (R72). -/
def contributing (ps : List (Blk × Blk)) : Nat := (ps.filter fun p => (pairExp p.1 p.2).isSome).length

/-- The most contributing block pairs one chain holds (R76). -/
def chainMax : Nat := 65535

/-- An output element whose contraction may take several chains (R76): the sum and pairs of the chain in progress, and the sum of the ACC48 results of those
before it, where there are any. -/
structure Chained where
  /-- working sum of the chain in progress -/
  sum : Int
  /-- its contributing block pairs -/
  pairs : Nat := 0
  /-- the results of the chains before it -/
  carry : Option Int := none
  /-- something clamped -/
  sat : Bool := false
  /-- the checks that failed -/
  bad : Checks := {}
deriving DecidableEq, Repr

/-- Adds one tile's block pairs. Where they would take the chain past R76's bound, the tile begins a new chain (log 20). -/
def Chained.addTile (u : Upset) (et : Int) (ps : List (Blk × Blk)) (c : Chained) : Chained :=
  let n := contributing ps
  let c := if c.pairs + n > chainMax then
      { c with sum := 0, pairs := 0, carry := some (c.carry.getD 0 + (clamp48 c.sum).1), sat := c.sat || (clamp48 c.sum).2 }
    else c
  let d := drainSum u et ps c.sum
  { c with sum := d.sum, pairs := c.pairs + n, sat := c.sat || d.sat, bad := c.bad.add d.bad }

/-- The sum over all chains of an output element, before its last clamp (R75, R76, R87), and whether the last chain's result clamped. -/
def Chained.total (c : Chained) : Int × Bool := match c.carry with
  | none => (c.sum, false)
  | some v => (v + (clamp48 c.sum).1, (clamp48 c.sum).2)

/-- The failed checks of output elements together. -/
def badOf (cs : List Chained) : Checks := cs.foldl (fun b c => b.add c.bad) {}

/-- Clamps working sums to ACC48 (R75). -/
def clampAll (ss : List Int) : List Int × Bool :=
  let c := ss.map clamp48
  (c.map (·.1), c.any (·.2))

/-- An output block: elements, exponent code, saturation and failed checks. -/
structure OutBlk where
  /-- element bytes -/
  bytes : List Byte
  /-- scale bytes -/
  scale : List Byte
  /-- it saturated -/
  sat : Bool
  /-- the checks of its sums and of its requantization that failed; such a block is not written (R84) -/
  bad : Checks := {}
deriving DecidableEq, Repr

/-- Writes a block of working sums at exponent e in a format of w bits: ACC48 with E16, or SSI with E8 (R75, R77).
A block to which no pair contributed is a zero block (R73). -/
def outBlock (w : Nat) (ss : List Int) (e : Option Int) (m : Rounding) : OutBlk :=
  match e with
  | none => ⟨List.replicate (blockBytesOf w) 0, if w = 48 then toBytes 2 0x8000 else [0x80], false, {}⟩
  | some e =>
    let c := clampAll ss
    if w = 48 then ⟨pack 48 c.1, toBytes 2 (bitsOf 16 e), c.2, {}⟩
    else
      let r := requantize c.1 e w m
      ⟨pack w r.q, [scale8Byte r.e], c.2 || r.sat, {}⟩

/-- An output block of a unit with a defect: the copies of its requantizer are compared on every output (R83). -/
def outChecked (u : Upset) (bad : Checks) (w : Nat) (ss : List Int) (e : Option Int) (m : Rounding) : OutBlk :=
  { outBlock w ss e m with bad := bad.add ⟨0, b2n (u.requant && e.isSome && w != 48)⟩ }

end Sys2Proof.Machine
end

