-- ==== Sys2Proof/Machine/Packet.lean ====
section
/-! DEFINITION. Packets: the header of Table Link-4, VCs, packet types, the checks of R264 and the payload CRC of R265. -/


namespace Sys2Proof

open Machine

/-! ### Fields -/

/-- n bytes of a packet header. -/
def Packet.f (k : Packet) (off n : Nat) : Nat := byteFld k.hdr off n
/-- VC field. -/
def Packet.vcField (k : Packet) : Nat := k.f 1 1 % 32
/-- Class: 0 CTRL, 1 REPLY, 2 REQ, 3 COLL. -/
def Packet.cls (k : Packet) : Nat := k.vcField / 8
/-- Stage: 0 P, 1 H0, 2 H1, 3 L0, 4 L1. -/
def Packet.stage (k : Packet) : Nat := k.vcField % 8
/-- VC index (R262). -/
def Packet.vc (k : Packet) : Nat := 5 * k.cls + k.stage
/-- LC. -/
def Packet.lc (k : Packet) : Bool := bit k.hdr 13
/-- ORDERED. -/
def Packet.ordered (k : Packet) : Bool := bit k.hdr 14
/-- Type. -/
def Packet.ty (k : Packet) : Nat := k.f 2 1
/-- Hops. -/
def Packet.hops (k : Packet) : Nat := k.f 3 1 % 64
/-- Destination device ID. -/
def Packet.dest (k : Packet) : Nat := k.f 4 4 % 2 ^ 20
/-- The cube of the destination: bits [16:6] of its device ID (R298). -/
def Packet.destCube (k : Packet) : Nat := k.dest / 64 % 2048
/-- Source device ID. -/
def Packet.src (k : Packet) : Nat := k.f 8 4 % 2 ^ 20
/-- Route epoch. -/
def Packet.routeEpoch (k : Packet) : Nat := k.f 12 2
/-- Member epoch. -/
def Packet.memberEpoch (k : Packet) : Nat := k.f 14 2
/-- Partition key. -/
def Packet.key (k : Packet) : Nat := k.f 16 2
/-- Tag. -/
def Packet.tag (k : Packet) : Nat := k.f 18 2
/-- Payload length. -/
def Packet.len (k : Packet) : Nat := k.f 20 2 % 8192
/-- Flits of a packet: its header and its payload. -/
def Packet.flits (k : Packet) : Nat := 1 + ceilDiv k.len 64

/-- A header with bytes replaced. -/
def Packet.set (k : Packet) (off n v : Nat) : Packet := { k with hdr := setFld k.hdr (8 * (off + n) - 1) (8 * off) v }
/-- A header with its stage replaced. -/
def Packet.setStage (k : Packet) (st : Nat) : Packet := { k with hdr := setFld k.hdr 10 8 st }

end Sys2Proof

namespace Sys2Proof.Machine

/-- A packet of this device: its type header given as (byte offset in the header, bytes, value) (Table Link-4). Stage, route epoch and
member epoch are put in when it leaves. -/
def mkPacket (self dest ty cls : Nat) (lc ordered : Bool) (key tag : Nat) (th : List (Nat × Nat × Nat)) (payload : List Byte) : Packet :=
  { hdr := BitVec.ofNat 512 (layout ([(0, 1, 1), (1, 1, cls * 8 + b2n lc * 32 + b2n ordered * 64), (2, 1, ty), (4, 4, dest), (8, 4, self),
      (16, 2, key), (18, 2, tag), (20, 2, payload.length), (24, 4, if payload.isEmpty then 0 else crc32c payload)] ++ th)),
    payload := payload }

/-! ### Well-formed packets (R262 to R264) -/

/-- The reserved runs of the common header. -/
def commonRsv : List (Nat × Nat) := [(4, 4), (15, 1), (30, 2), (52, 12), (84, 12), (173, 3), (176, 16), (224, 32)]

/-- The reserved runs of the type header by type (first bit of the header and width); none for a reserved type (Table Link-6). -/
def typeRsv (ty : Nat) : Option (List (Nat × Nat)) :=
  let b (off n : Nat) : Nat × Nat := (8 * off, 8 * n)
  let r (off hi lo : Nat) : Nat × Nat := (8 * off + lo, hi + 1 - lo)
  let req := [r 32 2 1, r 46 15 10, r 48 7 1, r 49 7 7, b 51 1, r 52 15 14, b 54 2]
  match ty with
  | 0x01 => some req
  | 0x02 => some req
  | 0x03 => some req
  | 0x04 => some req
  | 0x05 => some (req ++ [r 56 63 50])
  | 0x06 => some req
  | 0x07 => some req
  | 0x10 => some [b 33 1, b 48 16]
  | 0x11 => some [b 33 1, b 48 16]
  | 0x12 => some [b 33 1, b 48 16]
  | 0x13 => some [b 33 1, b 48 16]
  | 0x20 => some [r 33 7 5, r 40 31 20, b 46 2, r 48 63 40]
  | 0x28 => some [r 36 31 20, r 40 31 23, r 44 31 23, r 50 15 10, r 52 7 1, b 53 11]
  | 0x30 => some [r 32 31 20, r 38 7 1, b 39 1, b 48 16]
  | 0x31 => some [r 32 31 20, b 38 2, b 48 16]
  | 0x32 => some [r 32 31 20, r 36 31 20, r 43 7 2, b 46 2, b 56 8]
  | 0x33 => some [r 36 31 20, b 48 16]
  | 0x34 => some [r 34 31 20, b 39 25]
  | 0x40 => some [r 36 31 20, b 48 16]
  | 0x41 => some [b 37 27]
  | 0x42 => some [r 32 31 20, r 36 7 5, r 42 7 6, r 43 7 2, r 50 7 4, b 51 1, b 57 7]
  | 0x43 => some [r 32 31 20, r 36 7 3, r 37 7 1, b 40 24]
  | 0x44 => some [r 36 31 20, r 41 7 2, r 42 7 4, r 43 7 4, r 44 31 20, r 48 7 4, r 49 7 6, b 51 1, b 62 2]
  | 0x45 => some [b 36 28]
  | 0x46 => some [r 36 31 17, r 40 7 1, b 42 22]
  | _ => none

/-- A reserved value in a field of the type header. -/
def typeBad (k : Packet) : Bool :=
  match k.ty with
  | 0x02 => k.f 46 2 == 0 || decide (k.f 46 2 > 512)
  | 0x05 => decide (k.f 56 8 / 2 ^ 48 ≥ 2)
  | 0x06 => k.f 46 2 == 0 || decide (k.f 46 2 > 512) || k.f 49 1 == 0 || decide (k.f 49 1 > 64) || k.len != 8 * k.f 49 1
  | 0x07 => k.f 49 1 == 0 || decide (k.f 49 1 > 64) || k.len != 16 * k.f 49 1
  | 0x20 => k.f 32 1 % 16 != 1 || decide (k.f 32 1 / 16 > 7) || decide (k.f 33 1 / 2 % 16 > 8)
  | 0x34 => decide (k.f 38 1 > 1)
  | 0x41 => decide (k.f 36 1 > 3)
  | _ => false

/-- Some reserved run is not zero. -/
def rsvSet (x : Nat) (rs : List (Nat × Nat)) : Bool := rs.any fun r => (x >>> r.1) % 2 ^ r.2 != 0

/-- A packet that a receiving device discards as malformed (R264). -/
def malformed (k : Packet) : Bool :=
  k.f 0 1 % 16 != 1 || decide (k.stage > 4) ||
  (match typeRsv k.ty with
   | none => true
   | some rs => rsvSet k.hdr.toNat (commonRsv ++ rs)) ||
  typeBad k || (k.cls == 0 && k.len != 0) || (k.cls == 3 && k.len == 0) || decide (k.len > 4096) || k.payload.length != k.len

/-- The end-to-end CRC holds (R265). -/
def crcOk (k : Packet) : Bool := k.f 24 4 == (if k.payload.isEmpty then 0 else crc32c k.payload)

/-- A short CTRL packet that a MANAGEMENT_ONLY port carries (R287). -/
def management (k : Packet) : Bool := k.cls == 0 && k.len == 0 && decide (0x30 ≤ k.ty) && decide (k.ty ≤ 0x5F)

/-- A sweep packet: sent on a named port to a named neighbour and never routed (R319). -/
def sweepType (k : Packet) : Bool := [0x40, 0x41, 0x44, 0x45, 0x46].contains k.ty

end Sys2Proof.Machine
end

