-- ==== Sys2Proof/Machine/Ports.lean ====
section
/-! DEFINITION. Fabric ports: where their registers lie, their state, the device's own ID and the current routing tables (R298, R299, R341). -/

namespace Sys2Proof.Machine

/-- Link class of a fabric port (R341): 0 bent, 1 cube, 2 hall. -/
def portClass (f : Nat) : Nat := if f < 15 then 0 else if f < 23 then 1 else 2
/-- Number of a fabric port within its class. -/
def portIx (f : Nat) : Nat := if f < 15 then f else if f < 23 then f - 15 else f - 23
/-- BAR0 offset of a port's register. -/
def portReg (f off : Nat) : Nat := 0x0A000000 + 0x1000000 * portClass f + 0x100 * portIx f + off

/-- PORT_CFG of a fabric port. -/
def State.portCfg (s : State) (f : Nat) : W64 := s.reg (portReg f 0)
/-- A fabric port. -/
def State.port (s : State) (f : Nat) : Port := getD s.fab.ports f {}
/-- The state with a port changed. -/
def State.onPort (s : State) (f : Nat) (g : Port → Port) : State := s.onFab fun b => { b with ports := upd b.ports f {} g }
/-- A port is UP. -/
def State.isUp (s : State) (f : Nat) : Bool := f < 33 && (s.port f).st == .up
/-- A port runs traffic or management traffic. -/
def State.isLive (s : State) (f : Nat) : Bool := (s.port f).st == .up || (s.port f).st == .managementOnly
/-- Every fabric port. -/
def allPorts : List Nat := List.range 33

/-- half_bent of the link that a bent port belongs to (R257). -/
def State.halfBent (s : State) (f : Nat) : Bool := f < 14 && bit (s.reg (portReg (f / 2 * 2) 0)) 4
/-- Some pair of bent ports forms a half-bent link. -/
def State.halfBents (s : State) : Bool := (List.range 7).any fun k => s.halfBent (2 * k)
/-- A bent port that stays idle in a half-bent (R257): the upper port of a joined pair, and port 14. -/
def State.idlePort (s : State) (f : Nat) : Bool := (f % 2 == 1 && s.halfBent f) || (f == 14 && s.halfBents)

/-- RTE_SELF. -/
def State.rteSelf (s : State) : W64 := s.reg 0x0D000000
/-- The device has its ID (R298). -/
def State.selfValid (s : State) : Bool := bit s.rteSelf 20
/-- The device's in-cube position: bent and position. -/
def State.selfPos (s : State) : Nat := fld s.rteSelf 5 4 * 16 + Config.posId.toNat
/-- The device's cube. -/
def State.selfCube (s : State) : Nat := fld s.rteSelf 16 6
/-- The device ID (R298). -/
def State.selfId (s : State) : Nat := s.selfCube * 64 + s.selfPos

/-- The current copy of a table register, by the offset of its staged copy (R299). -/
def State.cur (s : State) (off : Nat) : W64 := getD s.fab.current off (regReset off)
/-- Current bent entry of position r. -/
def State.bentEntry (s : State) (r : Nat) : W64 := s.cur (0x0D000200 + 8 * (r % 16))
/-- Current cube entry of in-cube position q. -/
def State.cubeEntry (s : State) (q : Nat) : W64 := s.cur (0x0D000400 + 8 * (q % 64))
/-- Current hall entry of cube c. -/
def State.hallEntry (s : State) (c : Nat) : W64 := s.cur (0x0D010000 + 8 * (c % 2048))
/-- Current hall direction entry. -/
def State.hallDir (s : State) (d : Nat) : W64 := s.cur (0x0D000100 + 8 * d)

/-- Torus extent of a dimension: X, Y, Z. -/
def State.extent (s : State) (i : Nat) : Nat :=
  let j := s.cur 0x0D000030
  1 + (if i = 0 then fld j 3 0 else if i = 1 then fld j 7 4 else fld j 10 8)

/-- Coordinate of a hall entry in a dimension. -/
def hallCoord (e : W64) (i : Nat) : Nat := if i = 0 then fld e 14 11 else if i = 1 then fld e 10 7 else fld e 6 4

/-- A hall entry is a torus entry. -/
def isTorus (e : W64) : Bool := fld e 31 30 == 1

/-- The cube port bound to plane p, if it is UP (R299). -/
def State.planePort (s : State) (p : Nat) : Option Nat :=
  pick (fun f => s.isUp f && (s.port f).bound == some p) ((List.range 8).map (· + 15))

/-- live(q): planes whose port is UP and that position q has not reported down (R302). -/
def State.live (s : State) (q : Nat) : Nat :=
  (List.range 8).foldl (fun m p => if (s.planePort p).isSome && !(getD s.fab.planeDown q 0).testBit p then m + 2 ^ p else m) 0

/-- A hall port that serves direction d is usable for routing (R300). -/
def State.hallUsable (s : State) (f d : Nat) : Bool :=
  let x := s.port f
  let i := d / 2
  let e := s.hallEntry (x.peerId.toNat / 64)
  let o := s.hallEntry s.selfCube
  let step := if d % 2 = 0 then 1 else s.extent i - 1
  s.isUp f && x.peerId.toNat % 64 == s.selfPos && isTorus e &&
  (List.range 3).all fun j => hallCoord e j == (if j = i then (hallCoord o j + step) % s.extent i else hallCoord o j)

/-- The fabric port that serves a hall direction. -/
def State.dirPort (s : State) (d : Nat) : Option Nat :=
  let e := s.hallDir d
  if bit e 4 then some (23 + fld e 3 0) else none

/-- Counts the hall ports that serve a direction and are not usable for it (R300, log 25). -/
def countWiring (fs : List Nat) (s : State) : State :=
  let n := (fs.filter fun f => (List.range 6).any fun d => s.dirPort d == some f && !s.hallUsable f d).length
  s.onFab fun b => { b with wiringErr := satAdd b.wiringErr n }

/-- Counts something discarded as malformed at a port (R264, R266, R287, R293). -/
def countMalformed (f : Nat) (s : State) : State := s.onPort f fun x => { x with event := x.event ||| 0x40 }

end Sys2Proof.Machine
end

