-- ==== Sys2Proof/Machine/Route.lean ====
section
/-! DEFINITION. The routing function of R301 and the choice of a plane (R302). -/

namespace Sys2Proof.Machine

/-- What route decides. -/
inductive Route where
  /-- the packet is for this device -/
  | deliver
  /-- output port, stage, the position of a P or L0 hop that is not the destination's (R313), and the plane taken in rotation for a position -/
  | out (port stage : Nat) (alt : Option Nat) (turn : Option (Nat × Nat))
  /-- discarded: for its hops, or for want of a route -/
  | drop (hopLimit : Bool)
deriving DecidableEq, Repr

/-- Stages: P, H0, H1, L0, L1 (Table Link-5). -/
def stP : Nat := 0
/-- H0 -/
def stH0 : Nat := 1
/-- H1 -/
def stH1 : Nat := 2
/-- L0 -/
def stL0 : Nat := 3
/-- L1 -/
def stL1 : Nat := 4

/-- The first set bit of m at or after k, cyclically over 8 planes. -/
def firstFrom (m k : Nat) : Option Nat := pick (fun p => m.testBit p) ((List.range 8).map fun i => (k + i) % 8)

/-- pick(m, q, pkt) (R302): a CTRL or ordered REQ packet keeps to one plane; any other takes the planes in turn. -/
def pickPlane (s : State) (m q : Nat) (k : Packet) : Option (Nat × Bool) :=
  if k.cls = 0 ∨ (k.cls = 2 ∧ k.ordered) then (firstFrom m ((q + s.selfPos) % 8)).map (·, false)
  else (firstFrom m (match find? s.fab.rotation q with
    | some p => (p + 1) % 8
    | none => 0)).map (·, true)

/-- One local hop to in-cube position q at a stage. A bent entry that names port 15, which no device has, names no port that is UP. -/
def direct (s : State) (q : Nat) (k : Packet) (st : Nat) (alt : Option Nat) : Option Route :=
  let b := s.bentEntry (q % 16)
  if q / 16 == s.selfPos / 16 && bit b 4 && fld b 3 0 != 15 && s.isUp (fld b 3 0) then some (.out (fld b 3 0) st alt none)
  else match pickPlane s (Nat.land (fld (s.cubeEntry q) 7 0) (s.live q)) q k with
    | none => none
    | some (p, turn) => (s.planePort p).map fun f => .out f st alt (if turn then some (q, p) else none)

/-- The alternate positions of a cube or hall direction entry, in order, where enabled. -/
def alternates (en0 en1 : Bool) (a0 a1 : Nat) : List Nat := (if en0 then [a0] else []) ++ (if en1 then [a1] else [])

/-- The local part of the route: stages L0 and L1. -/
def routeLocal (s : State) (q : Nat) (k : Packet) (arrived : Option Nat) : Route :=
  if arrived = some stL1 then .drop false
  else
    let st := if arrived = some stL0 then stL1 else stL0
    match direct s q k st none with
    | some r => r
    | none =>
      let e := s.cubeEntry q
      if st = stL0 then
        (firstSome (fun a => direct s a k stL0 (some a)) (alternates (bit e 24) (bit e 31) (fld e 23 18) (fld e 30 25))).getD (.drop false)
      else .drop false

/-- The hall port 6 or 7 whose expected peer is the destination (R304). -/
def State.centrePort (s : State) (dest : Nat) : Option Nat :=
  pick (fun f => s.isUp f && fld (s.portCfg f) 47 28 == dest) [29, 30]

/-- A hop through the torus: the dimension, the direction and the stage. -/
def torusHop (s : State) (h o : W64) (arrived arrDim : Option Nat) : Option (Nat × Nat) :=
  (pick (fun i => hallCoord h i != hallCoord o i) [0, 1, 2]).map fun i =>
    let k := s.extent i
    let a := hallCoord o i
    let f := (hallCoord h i + k - a % k) % k
    let plus := decide (f ≤ k - f)
    let dateline := if plus then a + 1 == k else a == 0
    (2 * i + b2n (!plus), if dateline || (arrived == some stH1 && arrDim == some i) then stH1 else stH0)

/-- The hall part of the route. A destination without a torus route may be the peer of a datacentre port (R304, log 24). -/
def routeHall (s : State) (k : Packet) (arrived arrDim : Option Nat) : Route :=
  let h := s.hallEntry k.destCube
  let o := s.hallEntry s.selfCube
  if !(isTorus h && isTorus o) then
    match arrived, s.centrePort k.dest with
    | none, some f => .out f stH0 none none
    | _, _ => .drop false
  else if arrived = none && bit h 29 && fld h 28 23 != s.selfPos then (direct s (fld h 28 23) k stP (some (fld h 28 23))).getD (.drop false)
  else match torusHop s h o arrived arrDim with
    | none => .drop false
    | some (d, st) =>
      let go := match s.dirPort d with
        | some f => if s.hallUsable f d && !([29, 30].contains f && (arrived.isSome || s.centrePort k.dest != some f)) then some f else none
        | none => none
      match go with
      | some f => .out f (if [29, 30].contains f then stH0 else st) none none
      | none =>
        let e := s.hallDir d
        if arrived = none then
          (firstSome (fun a => direct s a k stP (some a)) (alternates (bit e 16) (bit e 23) (fld e 15 10) (fld e 22 17))).getD (.drop false)
        else .drop false

/-- route (R301): `arrived` is the stage a packet arrived on, none at its source; `arrDim` the dimension of the hall port it came by. -/
def route (s : State) (k : Packet) (arrived arrDim : Option Nat) : Route :=
  if k.dest = s.selfId then .deliver
  else if k.hops ≥ 31 then .drop true
  else if k.destCube = s.selfCube then routeLocal s (k.dest % 64) k arrived
  else if arrived = some stL0 ∨ arrived = some stL1 then .drop false
  else routeHall s k arrived arrDim

/-- The dimension of the direction a hall port serves. -/
def State.portDim (s : State) (f : Nat) : Option Nat := (pick (fun d => s.dirPort d == some f) (List.range 6)).map (· / 2)

end Sys2Proof.Machine
end

