-- ==== Sys2Proof/Machine/Truss.lean ====
section
/-! DEFINITION. The Truss (R323 to R334) and the egress of the fabric ports: header sampling (R341, R342), frames and their two stages,
admission to the egress buffers (R326, R332), fair queueing (R337) and shapers (R338). -/

namespace Sys2Proof.Machine

/-! ### Header sampling -/

/-- One step of the 16-bit Galois LFSR with mask 0xB400 (R341). -/
def lfsr (x : W16) : W16 := if bit x 0 then (x >>> 1) ^^^ 0xB400#16 else x >>> 1

/-- Granules queued at a port on a VC, in both FIFOs. -/
def Port.depth (x : Port) (vc : Nat) : Nat := ((x.queue.filter fun q => q.vc == vc).map fun q => q.k.flits).sum

/-- Appends a header sample to the telemetry ring (R342, Table Truss-5). -/
def appendSample (egress : Bool) (f vc prio age : Nat) (k : Packet) (s : State) : State :=
  let ring := s.reg 0x09000008
  let n := ringSize ring
  let num := s.fab.telNumber
  let s := s.onFab fun b => { b with telNumber := num + 1 }
  let drop := s.onFab fun b => { b with telDropped := satAdd b.telDropped 1 }
  let a := fld ring 63 12 * 4096 + 64 * (s.fab.telProd.toNat % n)
  let bs := toBytes 64 (layout [(0, 1, 1 + 16 * b2n egress), (1, 1, f), (2, 1, vc + 32 * b2n k.lc + 64 * prio), (4, 4, num.toNat),
    (8, 8, s.hall.toNat), (16, 2, (s.port f).depth vc), (18, 2, min age 65535), (32, 32, k.hdr.toNat)])
  match s.partOfFn 0 with
  | none => drop
  | some p =>
    if n = 0 || diff32 s.fab.telProd (BitVec.ofNat 32 (fld (s.reg 0x09000018) 31 0)) = n || (s.writeFault p true a 64).isSome then drop
    else (s.write p true a bs).onFab fun b => { b with telProd := b.telProd + 1 }

/-- A header passes a port in one direction (R341): the LFSR of an enabled direction steps, and the header of a port in port_mask is sampled when the
low bits are zero. -/
def sampleHeader (egress : Bool) (f vc prio age : Nat) (k : Packet) (s : State) : State :=
  let cfg := s.reg 0x09000000
  if bit cfg (if egress then 38 else 37) then
    let x := s.port f
    let l := lfsr (if egress then x.lfsrOut else x.lfsrIn)
    let s := s.onPort f fun x => if egress then { x with lfsrOut := l } else { x with lfsrIn := l }
    if bit cfg f && l.toNat % 2 ^ fld cfg 36 33 == 0 then appendSample egress f vc prio age k s else s
  else s

/-! ### Shapers -/

/-- The shaper of a packet of partition p on a port (R335, R338): 6p + 2L + f. -/
def shaperOf (p f : Nat) (lc : Bool) : Nat := 6 * p + 2 * portClass f + b2n lc
/-- TRS_SHAPER_CFG of a shaper. -/
def State.shaperCfg (s : State) (i : Nat) : W64 := s.reg (0x08001000 + 0x10 * i)
/-- CLK_TRS cycles since reset: two a nanosecond. -/
def State.trsNow (s : State) : Nat := 2 * s.clk
/-- A shaper. -/
def State.shaper (s : State) (i : Nat) : Shaper := getD s.fab.shapers i {}

/-- update (R338): credit grows at the rate, up to the burst. -/
def shaperUpdate (cfg : W64) (now : Nat) (x : Shaper) : Shaper :=
  { x with credit := min (x.credit + (fld cfg 47 24 * (now - x.last) : Nat)) ((fld cfg 63 48 * 65536 : Nat) : Int), last := now }

/-- A shaper is eligible (R338): always while it is not enabled; otherwise when, updated, its credit is not negative and it waits in no calendar slot. -/
def State.eligible (s : State) (i : Nat) : Bool :=
  !bit (s.shaperCfg i) 0 || ((s.shaper i).slot.isNone && decide ((shaperUpdate (s.shaperCfg i) s.trsNow (s.shaper i)).credit ≥ 0))

/-- An enabled shaper is updated, as every test of it does (R338). -/
def testShaper (i : Nat) (s : State) : State :=
  if bit (s.shaperCfg i) 0 then s.onFab fun b => { b with shapers := upd b.shapers i {} (shaperUpdate (s.shaperCfg i) s.trsNow) } else s

/-- charge (R338): L granules are taken, and a shaper in debt enters the calendar. -/
def shaperCharge (cfg : W64) (now l : Nat) (x : Shaper) : Shaper :=
  let x := shaperUpdate cfg now x
  let c := x.credit - (l * 65536 : Nat)
  if c < 0 then { x with credit := c, slot := some (ceilDiv (now + ceilDiv (-c).toNat (fld cfg 47 24)) 16) } else { x with credit := c }

/-- Charges an enabled shaper for a packet of l granules. -/
def chargeShaper (i l : Nat) (s : State) : State :=
  if bit (s.shaperCfg i) 0 then s.onFab fun b => { b with shapers := upd b.shapers i {} (shaperCharge (s.shaperCfg i) s.trsNow l) } else s

/-! ### Fair queueing -/

/-- The weight of a VC's class at a port's level (TRS_WFQ_CFG); CTRL flows take no part. -/
def State.weight (s : State) (f cls : Nat) : Nat :=
  let c := s.reg (0x08000400 + 8 * portClass f)
  match cls with
  | 1 => fld c 7 0
  | 2 => fld c 15 8
  | _ => fld c 23 16

/-- The flow of a queued packet: its VC and its LC flag. -/
def Queued.flow (q : Queued) : Nat := 2 * q.vc + b2n q.k.lc

/-- a is later than b, as serial numbers modulo 2^32. -/
def laterTag (a b : W32) : Bool := a != b && decide ((a - b).toNat < 2 ^ 31)

/-- on_head (R337): a packet of l flits becomes the head of a flow. -/
def onHead (w flow l : Nat) (x : Port) : Port :=
  let t := getD x.finish flow 0
  let from_ := if laterTag x.vtime t then x.vtime else t
  { x with finish := put x.finish flow (from_ + BitVec.ofNat 32 (ceilDiv (l * 4096) (max 1 w))), headed := flow :: x.headed }

/-- Gives every flow's head packet its tag. -/
def settleHeads (f : Nat) (s : State) : State :=
  (s.port f).queue.foldl (fun s q =>
    if q.vc / 5 = 0 ∨ (s.port f).headed.contains q.flow then s
    else s.onPort f (onHead (s.weight f (q.vc / 5)) q.flow q.k.flits)) s

/-! ### Endpoints, core ports and egress buffers -/

/-- Endpoints of Truss frames: the fabric ports 0 to 32, and the engines that send and take packets. -/
def dovetailEnd : Nat := 33
/-- the Purlin -/
def purlinEnd : Nat := 34
/-- the remote-operation engine and the Clamp -/
def remoteEnd : Nat := 35
/-- the control complex -/
def controlEnd : Nat := 36

/-- The engine that sends and takes the packets of a type (Table Link-6). -/
def engineOf (ty : Nat) : Nat := if ty = 0x28 then dovetailEnd else if ty = 0x20 then purlinEnd else if ty < 0x20 then remoteEnd else controlEnd

/-- The core port of an endpoint (Table Truss-1). -/
def corePort (e : Nat) : Nat :=
  if e < 8 then 40 else if e < 15 then 41 else if e < 23 then 42 else if e < 33 then 43 else if e = 33 then 45 else if e < 36 then 46 else 47
/-- Granules of a core port's egress buffer (Table Truss-1). -/
def bufferSize (c : Nat) : Nat := if 40 ≤ c ∧ c ≤ 43 then 16384 else 4096
/-- The endpoints of a core port that take packets. -/
def endpointsOf (c : Nat) : List Nat := (List.range 37).filter fun e => corePort e == c
/-- The reserve of a Truss class at an endpoint that holds one (Table Truss-3). -/
def classReserve (cls : Nat) : Nat := if cls < 5 then 8 else if cls < 20 then 66 else if cls < 23 then 16 else 4
/-- Granules reserved at a core port for classes that carry no packets (Table Truss-3): MEMRSP for the Dovetail; MEMRSP for the Purlin, the remote engine
and the copy engines, HOST for the copy engines; MEMRSP for the control complex, the Yard, the security core and the telemetry writer, HOST and TEL for
the control complex, TEL for the telemetry writer (log 26). -/
def otherReserve (c : Nat) : Nat :=
  if c = 45 then classReserve 21
  else if c = 46 then 3 * classReserve 21 + classReserve 22
  else if c = 47 then 4 * classReserve 21 + classReserve 22 + 2 * classReserve 23
  else 0
/-- Granules of the egress buffer that no reserve claims. -/
def sharedSpace (c : Nat) : Nat :=
  bufferSize c - (endpointsOf c).length * ((List.range 20).map classReserve).sum - otherReserve c

/-- The stream of a packet at an adapter (R324): source endpoint, destination endpoint, class. -/
def Crossing.stream (e : Crossing) : Nat × Nat × Nat := (e.src, e.dst, e.q.vc)
/-- A stream as a number. -/
def streamKey (x : Nat × Nat × Nat) : Nat := (x.1 * 64 + x.2.1) * 32 + x.2.2
/-- Granules of a packet's next frame: at most 16 (R324). -/
def Crossing.frame (e : Crossing) : Nat := min 16 (e.q.k.flits - 16 * e.cut)

/-- Granules of the egress buffer held for an endpoint and a VC: the rest of packets being admitted, frames inside the Truss and at the output, and what
the endpoint has not taken. -/
def State.egressHeld (s : State) (e vc : Nat) : Nat :=
  let b := s.fab
  let rest := (b.waiting.filter fun x => x.dst == e && x.q.vc == vc && decide (x.cut > 0)).map fun x => x.q.k.flits - 16 * x.cut
  let frames := ((b.middle.map (·.2.2) ++ b.arrived).filter fun x => x.stream.2.1 == e && x.stream.2.2 == vc).map (·.len)
  let there := if e < 33 then
      [(s.port e).depth vc] ++ ((s.port e).txOpen.toList.filter fun o => o.k.vc == vc).map fun o => o.k.flits - 1 - o.next
    else (b.inbox.filter fun x => decide (x.1 < 64) && engineOf x.2.ty == e && x.2.vc == vc).map fun x => x.2.flits
  (rest ++ frames ++ there).sum

/-- Granules of shared space in use at a core port. -/
def State.sharedUsed (s : State) (c : Nat) : Nat :=
  ((endpointsOf c).map fun e => ((List.range 20).map fun v => s.egressHeld e v - classReserve v).sum).sum
/-- TRS_EGRESS_STATUS.used of a core port. -/
def State.egressUsed (s : State) (c : Nat) : Nat := ((endpointsOf c).map fun e => ((List.range 20).map fun v => s.egressHeld e v).sum).sum

/-- Egress space can be held for a packet of l granules (R326). It is held for the whole packet with its first frame (log 26). -/
def State.hasRoom (s : State) (e vc l : Nat) : Bool :=
  let d := s.egressHeld e vc
  let c := corePort e
  decide (s.sharedUsed c + ((d + l - classReserve vc) - (d - classReserve vc)) ≤ sharedSpace c)

/-! ### Credits of the links -/

/-- Flits of a VC of a port are freed (R273). -/
def freeCredits (f vc n : Nat) (s : State) : State :=
  s.onPort f fun x => { x with freedOut := upd x.freedOut vc 0 (· + BitVec.ofNat 16 n), creditDue := if x.creditDue.contains vc then x.creditDue else x.creditDue ++ [vc] }

/-- The first element that satisfies p is replaced, or removed. -/
def modifyFirst {α : Type} (p : α → Bool) (g : α → Option α) : List α → List α
  | [] => []
  | a :: r => if p a then (match g a with | some b => b :: r | none => r) else a :: modifyFirst p g r

/-- Credits return for packets that have moved on into the virtual output queue of their port and VC, while it is not full (R329). Those of a CTRL
packet wait until the device has done with it (R307). -/
def returnCredits (s : State) : State :=
  s.fab.waiting.foldl (fun s e => match e.owed with
    | none => s
    | some vc =>
      let inQueue := ((s.fab.waiting.filter fun x => x.src == e.src && x.owed.isNone && x.q.k.vc == vc).map fun x => x.q.k.flits).sum
      if decide (vc < 5) || decide (inQueue + e.q.k.flits > Config.voqDepth e.src) then s
      else freeCredits e.src vc e.q.k.flits
        (s.onFab fun b => { b with waiting := modifyFirst (· == e) (fun x => some { x with owed := none }) b.waiting })) s

/-! ### The first stage: adapters and middle buffers -/

/-- The level at which an adapter takes a frame of a Truss class (R332): CTRL, MEMRSP, REPLY, LC, the rest. -/
def admitLevel (cls : Nat) (lc : Bool) : Nat := if cls < 5 then 0 else if cls = 21 then 1 else if cls < 10 then 2 else if lc then 3 else 4

/-- The partition whose Truss regulator a packet that this device sends for it is charged to (R417, R419); none for CTRL, REPLY and transit packets. -/
def Queued.trussPart (q : Queued) : Option Nat := q.shaper.map (· / 6)

/-- The level of a waiting packet at its adapter (R332, R418): that of its class; bulk comes last, and not at all while its regulator is hard. -/
def State.crossLevel (s : State) (e : Crossing) : Option Nat :=
  match e.q.trussPart with
  | some p =>
    if s.regOpen p 2 e.q.k.lc then some (admitLevel e.q.vc e.q.k.lc)
    else if bit (s.regCfg p 2 e.q.k.lc) 1 then none else some 5
  | none => some (admitLevel e.q.vc e.q.k.lc)

/-- The first waiting packet of every stream (R328, R332). -/
def streamHeads (seen : List (Nat × Nat × Nat)) : List Crossing → List Crossing
  | [] => []
  | e :: r => if seen.contains e.stream then streamHeads seen r else e :: streamHeads (e.stream :: seen) r

/-- A packet's next frame may be admitted: no regulator holds it back (R418), and its packet has begun, or egress space can be held for it (R326). -/
def State.admissible (s : State) (e : Crossing) : Bool := (s.crossLevel e).isSome && (decide (e.cut > 0) || s.hasRoom e.dst e.q.vc e.q.k.flits)

/-- Granules in a middle buffer (R325). -/
def State.middleUsed (s : State) (m : Nat) : Nat := ((s.fab.middle.filter fun x => x.1 == m).map fun x => x.2.2.len).sum

/-- Where a core port comes in the rotation of an input and level (R332). -/
def State.turn (s : State) (i l c : Nat) : Nat := (c + 47 - getD s.fab.served (i * 8 + l) 47) % 48

/-- The frame that an input adapter takes next, of those that fit (R332). -/
def State.nextFrame (s : State) (i space : Nat) : Option Crossing :=
  let rank (e : Crossing) : Nat := let l := (s.crossLevel e).getD 5; 48 * l + s.turn i l (corePort e.dst)
  ((streamHeads [] s.fab.waiting).filter fun e => corePort e.src == i && decide (e.frame ≤ space) && s.admissible e).foldl
    (fun acc e => match acc with
      | none => some e
      | some b => if rank e < rank b then some e else some b) none

/-- Counts a packet that is not CTRL as received or injected (R317). -/
def countRx (k : Packet) (s : State) : State := if k.cls = 0 then s else s.onFab fun b => { b with rx := b.rx + 1 }

/-- A frame is admitted to a middle buffer (R326, R333). With its first a packet of this device is injected; with its last, credits still owed return. -/
def admitFrame (i m : Nat) (e : Crossing) (s : State) : State :=
  let key := streamKey e.stream
  let n := getD s.fab.framesIn key 0
  let done := decide (e.q.k.flits ≤ 16 * (e.cut + 1))
  let c := corePort e.dst
  let fr : TrussFrame := ⟨e.stream, e.q.k.lc, n, e.frame, if done then some e.q else none⟩
  let s := s.onFab fun b => { b with
    waiting := modifyFirst (· == e) (fun x => if done then none else some { x with cut := x.cut + 1 }) b.waiting
    middle := b.middle ++ [(m, c, fr)], framesIn := put b.framesIn key (n + 1)
    served := put b.served (i * 8 + (s.crossLevel e).getD 5) c }
  let s := match e.q.trussPart with
    | some p => if s.crossLevel e = some 5 then s else chargePoint p 2 e.q.k.lc e.frame s
    | none => s
  let s := s.onFab fun b => { b with egressMax := upd b.egressMax c 0 fun x => BitVec.ofNat 16 (max x.toNat (s.egressUsed c)) }
  let s := if e.cut = 0 ∧ e.src ≥ 33 then countRx e.q.k s else s
  match e.owed with
  | some vc => if done then freeCredits e.src vc e.q.k.flits s else s
  | none => s

/-- An input adapter fills its connection to a middle buffer with whole frames, at most 32 granules in all (R323, R332). -/
def fillMiddle (i m : Nat) : (fuel space : Nat) → State → State
  | 0, _, s => s
  | fuel + 1, space, s =>
    match s.nextFrame i (min space (2048 - s.middleUsed m)) with
    | none => s
    | some e => fillMiddle i m fuel (space - e.frame) (admitFrame i m e s)

/-! ### The second stage: outputs -/

/-- The frames that the middle buffers send in slot t (R325, R327), of each FIFO in order, up to 32 granules; and those that stay. The map holds what
each buffer may still send. -/
def sendMiddle (t : Nat) : Map Nat → List (Nat × Nat × TrussFrame) → List TrussFrame × List (Nat × Nat × TrussFrame)
  | _, [] => ([], [])
  | w, x :: r =>
    let left := getD w x.1 32
    if (x.1 + t) % 48 ≠ x.2.1 then
      let o := sendMiddle t w r
      (o.1, x :: o.2)
    else if x.2.2.len ≤ left then
      let o := sendMiddle t (put w x.1 (left - x.2.2.len)) r
      (x.2.2 :: o.1, o.2)
    else
      let o := sendMiddle t (put w x.1 0) r
      (o.1, x :: o.2)

/-- The frames of one packet of l frames of a stream that have arrived in sequence. -/
def packetFrames (st : Nat × Nat × Nat) (out : BitVec 12) (l : Nat) (fs : List TrussFrame) : List TrussFrame :=
  fs.filter fun x => x.stream == st && decide ((x.seq - out).toNat < l)

/-- The last frame of a packet that is whole and next in its stream (R328). -/
def State.wholePacket (s : State) : Option (TrussFrame × Queued) :=
  firstSome (fun (x : TrussFrame) => match x.whole with
    | some q =>
      let l := ceilDiv q.k.flits 16
      let out := getD s.fab.framesOut (streamKey x.stream) 0
      if (x.seq - out).toNat = l - 1 ∧ (packetFrames x.stream out l s.fab.arrived).length = l then some (x, q) else none
    | none => none) s.fab.arrived

/-- The port number under which a packet of this device to itself waits. -/
def selfPort : Nat := 63

/-- A whole packet reaches its endpoint: a fabric port's egress queue (R334), or the engine that takes it. -/
def reachEnd (st : Nat × Nat × Nat) (q : Queued) (s : State) : State :=
  if st.2.1 < 33 then settleHeads st.2.1 (s.onPort st.2.1 fun x => { x with queue := x.queue ++ [{ q with at_ := s.clk }] })
  else s.onFab fun b => { b with inbox := b.inbox ++ [(if st.1 < 33 then st.1 else selfPort, q.k)] }

/-- The outputs put frames back in order and deliver whole packets (R328). -/
def resequence : (fuel : Nat) → State → State
  | 0, s => s
  | fuel + 1, s =>
    match s.wholePacket with
    | none => s
    | some (x, q) =>
      let l := ceilDiv q.k.flits 16
      let key := streamKey x.stream
      let out := getD s.fab.framesOut key 0
      resequence fuel (reachEnd x.stream q (s.onFab fun b => { b with
        arrived := b.arrived.filter fun y => !(packetFrames x.stream out l b.arrived).contains y
        framesOut := put b.framesOut key (out + BitVec.ofNat 12 l) }))

/-- One Truss slot, the CLK_TRS cycle t (R325): the outputs are served, then the adapters, and back-pressure is counted. -/
def trussSlot (t : Nat) (s : State) : State :=
  let o := sendMiddle t [] s.fab.middle
  let s := if o.1.isEmpty then s else
    let s := s.onFab fun b => { b with middle := o.2, arrived := b.arrived ++ o.1 }
    resequence s.fab.arrived.length s
  if s.fab.waiting.isEmpty then s
  else
    let stuck := ((streamHeads [] s.fab.waiting).filter fun e => (s.crossLevel e).isSome && !s.admissible e).map fun e => corePort e.dst
    let s := s.onFab fun b => { b with bpCycles := stuck.eraseDups.foldl (fun m c => upd m c 0 (satAdd · 1)) b.bpCycles }
    let s := ((s.fab.waiting.map fun e => corePort e.src).eraseDups).foldl (fun s i => fillMiddle i ((i + t) % 48) 32 32 s) s
    returnCredits s

/-- The Truss in one nanosecond: two CLK_TRS cycles. -/
def trussTick (s : State) : State :=
  if s.fab.waiting.isEmpty && s.fab.middle.isEmpty then s else trussSlot (s.trsNow + 1) (trussSlot s.trsNow s)

/-- A packet is queued at the adapter of its source (R324). -/
def enqueue (e : Crossing) (s : State) : State := s.onFab fun b => { b with waiting := b.waiting ++ [e] }

/-- A packet that an engine of this device queued and of which no frame has been admitted: the engine may withdraw it (R333). -/
def Crossing.withdrawable (e : Crossing) : Bool := decide (e.src ≥ 33) && e.cut == 0

/-! ### The choice of the next packet -/

/-- Priority of a candidate (R335): 0 LC, 1 BE, 2 bulk; none for a packet that its shaper holds back. -/
def State.priority (s : State) (q : Queued) : Option Nat :=
  match q.shaper with
  | none => some (if q.k.lc then 0 else 1)
  | some i => if s.eligible i then some (if q.k.lc then 0 else 1) else if bit (s.shaperCfg i) 1 then none else some 2

/-- The packet may go out in the present state of the device and the port: R287, R298, R319, R451, R462. -/
def State.maySend (s : State) (f : Nat) (k : Packet) : Bool :=
  let x := s.port f
  s.selfValid &&
  (x.st == .up || (x.st == .managementOnly && management k)) &&
  (!s.flt.fenced || management k) &&
  (k.ty != 0x32 || (match x.reportAt with | none => true | some t => decide (s.clk - t ≥ 1000))) &&
  (!sweepType k || (match find? s.fab.sweep.lastSent f with | none => true | some t => decide (s.clk - t ≥ 50)))

/-- An earlier ordered packet of the same flow waits in the same VC (R336). -/
def orderHeld (ahead : List Queued) (q : Queued) : Bool :=
  q.k.cls == 2 && q.k.ordered && ahead.any fun a =>
    a.vc == q.vc && a.k.ordered && a.k.src == q.k.src && a.k.dest == q.k.dest && a.k.key == q.k.key

/-- Room for one more header or payload flit in the replay buffer: on bent and cube ports with an entry kept for the TAG that closes the segment (R267),
on hall ports in 8 MiB of HBM (R294). -/
def State.replayRoom (s : State) (f : Nat) : Bool :=
  let x := s.port f
  if portClass f = 2 then
    decide ((x.frames.map fun g => 146 + 64 * g.length).sum + 146 + 64 * (x.ctl.length + x.txFlits.length + 1) ≤ 8388608)
  else decide (x.replay.length + 2 ≤ if portClass f = 0 then 4096 else 8192)

/-- While a long packet is open, only short CTRL and REPLY packets compete (R275, R335). -/
def Port.mayPreempt (x : Port) (q : Queued) : Bool := x.txOpen.isNone || (decide (q.vc < 10) && q.k.len == 0)

/-- The heads of the flows that may start now: each flow's first packet, with its priority (R335, R336, R272). -/
def State.candidates (s : State) (f : Nat) : List (Queued × Nat) :=
  let x := s.port f
  let rec go (ahead : List Queued) : List Queued → List (Queued × Nat)
    | [] => []
    | q :: r =>
      let rest := go (ahead ++ [q]) r
      if (ahead.any fun a => a.flow == q.flow && (a.vc ≥ 5 || s.maySend f a.k)) || !s.maySend f q.k || orderHeld ahead q || !x.mayPreempt q ||
        decide (getD x.credits q.vc 0 < q.k.flits) then rest
      else match s.priority q with
        | none => rest
        | some p => (q, p) :: rest
  go [] x.queue

/-- A candidate goes before another of class REPLY, REQ or COLL: by priority, then finish tag, then VC, LC first (R335). -/
def beforeCand (x : Port) (a b : Queued × Nat) : Bool :=
  let ta := getD x.finish a.1.flow 0
  let tb := getD x.finish b.1.flow 0
  if a.2 ≠ b.2 then a.2 < b.2
  else if ta ≠ tb then laterTag tb ta
  else if a.1.vc ≠ b.1.vc then a.1.vc < b.1.vc
  else a.1.k.lc && !b.1.k.lc

/-- The packet that a port starts next: CTRL first, rotating over its VCs, then by `beforeCand` (R335). -/
def State.nextPacket (s : State) (f : Nat) : Option (Queued × Nat) :=
  let cs := s.candidates f
  let x := s.port f
  match firstSome (fun i => pick (fun (c : Queued × Nat) => c.1.vc == (x.ctrlNext + 1 + i) % 5 && (c.1.k.lc || !(cs.any fun d => d.1.vc == c.1.vc && d.1.k.lc))) cs) (List.range 5) with
  | some c => some c
  | none => (cs.filter fun c => c.1.vc ≥ 5).foldl (fun acc c => match acc with
    | none => some c
    | some b => if beforeCand x c b then some c else some b) none

end Sys2Proof.Machine
end

