-- ==== Sys2Proof/Machine/Transmit.lean ====
section
/-! DEFINITION. Sending: sequenced flits, segments and their tags (R267, R277), blocks (R258, R259), hall frames (R291, R294),
and what a link carries in each flit slot (R275, R334, R335). -/

namespace Sys2Proof.Machine

/-! ### CRC-12 and blocks -/

/-- CRC-12 of R259: polynomial 0x80F, initial value 0, most significant bit first. -/
def crc12 (bs : List Byte) : Nat :=
  bs.foldl (fun acc b => (List.range 8).foldl (fun a i =>
    let top := (a / 2048 + (b.toNat >>> (7 - i)) % 2) % 2
    (a * 2 % 4096) ^^^ (if top = 1 then 0x80F else 0)) acc) 0

/-- The CRC of flit i of a block, with the block's seq, ack and kinds (R259). -/
def flitCrc (flit : Block) (trailer : List Byte) (i : Nat) : Nat := crc12 (blockBytes flit ++ trailer ++ [BitVec.ofNat 8 i])

/-- The first 8 bytes of a block's trailer (Table Link-2). -/
def trailerBytes (seq ack : W16) (kinds : List Nat) : List Byte :=
  toBytes 8 (seq.toNat + ack.toNat * 2 ^ 16 + (kinds.foldr (fun k acc => k + 4 * acc) 0) * 2 ^ 32)

/-- A block of up to 16 flits with their kinds, filled up with idle flits (Table Link-2). -/
def blockOf (seq ack : W16) (fs : List (Nat × Block)) : List Byte :=
  let fs := fs ++ List.replicate (16 - fs.length) (0, 0)
  let t := trailerBytes seq ack (fs.map (·.1))
  let crcs := (List.range 16).foldl (fun acc i => acc + (flitCrc (fs.getD i (0, 0)).2 t i) * 2 ^ (12 * i)) 0
  fs.flatMap (fun e => blockBytes e.2) ++ t ++ toBytes 24 crcs

/-- A flit of this kind and content is sequenced: a header, a payload flit, or TAG (Table Link-3). -/
def sequenced (kind : Nat) (flit : Block) : Bool := decide (kind ≥ 2) || (kind == 1 && byteFld flit 0 1 == 0x08)

/-- The active halves of a mask, ascending. -/
def halvesOf (m : Nat) : List Nat := (List.range 4).filter m.testBit

/-! ### Sequenced flits and segments -/

/-- The additional data of a segment (R277). -/
def segmentAad (counter : W64) (kinds : List Nat) : List Byte :=
  toBytes 8 counter.toNat ++ toBytes 2 kinds.length ++ kinds.map (BitVec.ofNat 8)

/-- The key with its salt that a direction uses in a slot: 0 and 1 transmit, 2 and 3 receive. -/
def Port.key (x : Port) (i : Nat) : Nat := getD x.keys i 0

/-- A TAG flit (Table Link-7). -/
def tagFlit (slot : Nat) (counter : W64) (n : Nat) (tag : BitVec 128) : Block :=
  BitVec.ofNat 512 (layout [(0, 1, 0x08), (1, 1, 1), (2, 1, slot), (8, 8, counter.toNat), (16, 2, n), (48, 16, tag.toNat)])

/-- Closes the open transmit segment: its TAG flit follows its last flit (R277). -/
def closeSegment (x : Port) : Port :=
  if x.txSegment.isEmpty then x
  else
    let tag := Config.gcmTag (x.key x.txSlot) x.txCounter.toNat (segmentAad x.txCounter (x.txSegment.map (·.1))) (x.txSegment.flatMap fun e => blockBytes e.2)
    { x with replay := x.replay ++ [(1, tagFlit x.txSlot x.txCounter x.txSegment.length tag)], txSeq := x.txSeq + 1,
             txCounter := x.txCounter + 1, txSegment := [] }

/-- A header or payload flit is sequenced, encrypted and kept for replay (R267, R277). -/
def pushFlit (now kind : Nat) (flit : Block) (x : Port) : Port :=
  let c := flit ^^^ Config.gcmStream (x.key x.txSlot) x.txCounter.toNat x.txSegment.length
  let x := { x with replay := x.replay ++ [(kind, c)], txSeq := x.txSeq + 1,
                    txSegAt := if x.txSegment.isEmpty then now else x.txSegAt, txSegment := x.txSegment ++ [(kind, c)] }
  if x.txSegment.length = 256 then closeSegment x else x

/-! ### Hall frames -/

/-- A number as n bytes, highest first. -/
def beBytes (n v : Nat) : List Byte := (toBytes n v).reverse
/-- The number that bytes spell, highest first. -/
def ofBe (bs : List Byte) : Nat := ofBytes bs.reverse

/-- One's-complement sum of 16-bit words in network order. -/
def onesSum : List Byte → Nat
  | a :: b :: r => a.toNat * 256 + b.toNat + onesSum r
  | [a] => a.toNat * 256
  | [] => 0

/-- The Internet checksum. -/
def inetChecksum (bs : List Byte) : Nat :=
  let s := onesSum bs
  let s := s % 65536 + s / 65536
  let s := s % 65536 + s / 65536
  let c := 65535 - s
  if c = 0 then 65535 else c

/-- CRC-32 of IEEE 802.3, the frame check sequence. -/
def crc32 (bs : List Byte) : Nat := (bs.foldl (crcByte 0xEDB88320) 0xFFFFFFFF) ^^^ 0xFFFFFFFF

/-- LNKH_UDP_CFG of a hall port. -/
def State.udpCfg (s : State) (f : Nat) : W64 := s.reg (portReg f 0x40)
/-- A 16-byte IPv6 address held in a pair of registers. -/
def State.ipAddr (s : State) (f off : Nat) : List Byte := beBytes 8 (s.reg (portReg f off)).toNat ++ beBytes 8 (s.reg (portReg f (off + 8))).toNat

/-- Bytes 28 to the last flit of a Tlaha-H frame (Table Link-14). -/
def framePlain (s : State) (f kind : Nat) (seq ack : W32) (fs : List (Nat × Block)) : List Byte :=
  let c := s.udpCfg f
  let n := fs.length
  let len := 56 + 64 * n
  let src := s.ipAddr f 0x48
  let dst := s.ipAddr f 0x58
  let port := beBytes 2 (fld c 63 48)
  let shim := toBytes 48 (layout [(0, 1, 1 + 16 * kind), (1, 1, n), (4, 4, seq.toNat), (8, 4, ack.toNat),
    (16, 32, fs.foldr (fun e acc => e.1 + 4 * acc) 0)])
  let body := shim ++ fs.flatMap fun e => blockBytes e.2
  let sum := inetChecksum (src ++ dst ++ beBytes 4 len ++ beBytes 4 17 ++ port ++ port ++ beBytes 2 len ++ [0, 0] ++ body)
  [0x86, 0xDD] ++ beBytes 4 (6 * 2 ^ 28 + fld c 27 22 * 2 ^ 22 + fld c 47 28) ++ beBytes 2 len ++ [17, 64] ++ src ++ dst ++
    port ++ port ++ beBytes 2 len ++ beBytes 2 sum ++ body

/-- Secures a frame by MACsec and sends it (R291, R292); a TRAIN frame sent before a SAK is in the clear (log 28). -/
def sendFrame (f kind : Nat) (seq : W32) (fs : List (Nat × Block)) (s : State) : State :=
  let x := s.port f
  let ack := x.rxFrame
  let plain := framePlain s f kind seq ack fs
  let head := beBytes 6 (fld (s.reg (portReg f 0x70)) 47 0) ++ beBytes 6 (fld (s.reg (portReg f 0x68)) 47 0) ++ [0x88, 0xE5, 0x2C, 0] ++
    beBytes 4 (x.pn.toNat % 2 ^ 32) ++ beBytes 6 (fld (s.reg (portReg f 0x68)) 47 0) ++ [0, 1]
  let sec := match x.sak with
    | some key => (List.range plain.length).map (fun i => (plain.getD i 0) ^^^ Config.xpnStream key x.pn.toNat i)
    | none => plain
  let icv := match x.sak with
    | some key => toBytes 16 (Config.xpnIcv key x.pn.toNat (head ++ sec)).toNat
    | none => List.replicate 16 0
  let body := head ++ sec ++ icv
  let s := s.onPort f fun x => { x with pn := x.pn + 1, ackDue := false }
  s.emit (.frame f (body ++ toBytes 4 (crc32 body)))

/-- Sends flits in a DATA frame, kept for replay (R294). -/
def sendData (f : Nat) (fs : List (Nat × Block)) (s : State) : State :=
  let now := s.clk
  (sendFrame f 0 (s.port f).txFrame fs s).onPort f fun x =>
    { x with ackAt := if x.frames.isEmpty then now else x.ackAt, frames := x.frames ++ [fs], txFrame := x.txFrame + 1 }

/-- Queues a link-control flit that is not sequenced; on a hall port it rides in the next DATA frame. -/
def sendCtl (f : Nat) (flit : Block) (s : State) : State := s.onPort f fun x => { x with ctl := x.ctl ++ [flit] }

/-! ### Flit slots -/

/-- The packet as it leaves: a packet of this device is stamped with its route epoch and its member epoch (R315, R453), and a request with its issue time
(Table Rem-4). -/
def State.stamped (s : State) (q : Queued) : Packet :=
  if q.injected then
    let k := (q.k.set 12 2 s.fab.epoch.toNat).set 14 2 s.flt.epoch.toNat
    if k.cls = 2 ∧ k.ty ≤ 7 then k.set 40 4 (s.hall.toNat / 1000 % 2 ^ 32) else k
  else q.k

/-- A header or payload flit goes to the link: in the next DATA frame of a hall port, or into the replay buffer, from which blocks are made. -/
def putFlit (f now kind : Nat) (flit : Block) (x : Port) : Port :=
  if portClass f = 2 then { x with txFlits := x.txFlits ++ [(kind, flit)] } else pushFlit now kind flit x

/-- The number after the flit that was put last: sequence number, or number of the DATA frame after the next. -/
def Port.mark (f : Nat) (x : Port) : W32 := if portClass f = 2 then x.txFrame + 1 else BitVec.ofNat 32 x.txSeq.toNat

/-- A packet starts on a port (R272, R335, R337, R338): its credits and its shaper are charged, its header goes out, and it is kept until acknowledged. A
long packet stays open (R275); a short one inside it counts in the run. -/
def startPacket (f : Nat) (q : Queued) (prio : Nat) (s : State) : State :=
  let k := s.stamped q
  let l := k.flits
  let now := s.clk
  let s := sampleHeader true f q.vc (if q.vc < 5 then 3 else prio) (now - q.since) k s
  let s := match q.shaper with
    | some i => if prio < 2 then chargeShaper i l s else s
    | none => s
  let s := s.onPort f fun x =>
    { x with queue := x.queue.erase q, credits := upd x.credits q.vc 0 (· - l), headed := x.headed.filter (· != q.flow),
             vtime := if q.vc < 5 then x.vtime else getD x.finish q.flow 0,
             ctrlNext := if q.vc < 5 then q.vc else x.ctrlNext,
             reportAt := if k.ty = 0x32 then some now else x.reportAt }
  let s := if sweepType k then s.onFab fun b => { b with sweep := { b.sweep with lastSent := put b.sweep.lastSent f now } } else s
  let s := s.emit (.packet f q.vc k.lc k)
  let s := s.onPort f fun x =>
    let x := putFlit f now 2 k.hdr x
    { x with txOpen := match x.txOpen with
               | some o => some { o with run := o.run + 1, spacing := 0 }
               | none => if k.len = 0 then none else some { k := k },
             sent := x.sent ++ [⟨k, q.vc, if k.len = 0 then some (x.mark f) else none⟩] }
  settleHeads f s

/-- The next payload flit of the open packet goes out; the last is zero-padded and closes the packet (R264, R275). -/
def sendPayload (f : Nat) (o : OpenTx) (s : State) : State :=
  let now := s.clk
  s.onPort f fun x =>
    let x := putFlit f now 3 (toBlock (slice o.k.payload (64 * o.next) 64)) x
    if o.k.len ≤ 64 * (o.next + 1) then
      { x with txOpen := none, sent := x.sent.map fun y => if y.last.isNone then { y with last := some (x.mark f) } else y }
    else { x with txOpen := some { o with next := o.next + 1, spacing := o.spacing + 1, run := 0 } }

/-- A run of short packets may begin, or go on, in the open packet (R275). -/
def OpenTx.interruptible (o : OpenTx) : Bool := (o.run == 0 && decide (o.spacing ≥ 4)) || (decide (0 < o.run) && decide (o.run < 4))

/-- The shapers of the packets that a port chooses among are updated (R338). -/
def testShapers (f : Nat) (s : State) : State := ((s.port f).queue.filterMap (·.shaper)).eraseDups.foldl (fun s i => testShaper i s) s

/-- One flit slot of a link (R275, R334): a packet starts, or the open one goes on; nothing leaves without room in the replay buffer (R267). -/
def flitSlot (f : Nat) (s : State) : State :=
  let x := s.port f
  if (x.queue.isEmpty && x.txOpen.isNone) || !s.replayRoom f then s
  else match x.txOpen with
    | none =>
      let s := testShapers f s
      (match s.nextPacket f with
       | some (q, p) => startPacket f q p s
       | none => s)
    | some o =>
      match if o.interruptible then s.nextPacket f else none with
      | some (q, p) => startPacket f q p s
      | none => sendPayload f o s

/-- Flit slots of a port in a nanosecond: three for each active half of 8 lanes, or what fits into a DATA frame beside the link-control flits (log 27). -/
def State.slots (s : State) (f : Nat) : Nat :=
  let x := s.port f
  if portClass f = 2 then max 1 (fld (s.udpCfg f) 21 14) - x.ctl.length else 3 * (halvesOf x.txHalves).length

/-- The flit slots of a nanosecond. -/
def flitSlots (f : Nat) : Nat → State → State
  | 0, s => s
  | n + 1, s => flitSlots f n (flitSlot f s)

/-! ### Credits -/

/-- A CREDIT flit with the cumulative freed counts of up to 20 VCs (Table Link-7). -/
def creditFlit (x : Port) (vcs : List Nat) : Block :=
  let vcs := vcs.take 20
  BitVec.ofNat 512 (layout ([(0, 1, 0x01), (1, 1, 1), (2, 1, vcs.length)] ++
    (List.range vcs.length).flatMap fun i =>
      let v := vcs.getD i 0
      [(4 + 3 * i, 1, v), (5 + 3 * i, 2, (getD x.freedOut v 0).toNat)]))

/-- Credits freed since the last time are sent (R273). -/
def sendCredits (f : Nat) (s : State) : State :=
  let x := s.port f
  if x.creditDue.isEmpty then s else sendCtl f (creditFlit x x.creditDue) (s.onPort f fun x => { x with creditDue := [] })

/-- The port's link carries flits: from CARD on. -/
def Port.linked (x : Port) : Bool := x.st == .card || x.st == .check || x.st == .up || x.st == .managementOnly

end Sys2Proof.Machine
end

