-- ==== Sys2Proof/Machine/Fabric.lean ====
section
/-! DEFINITION. Sending packets into the fabric, losing them, and receiving them (R301 to R316, R453). -/

namespace Sys2Proof.Machine

/-- Something waits for the engine that takes it, having crossed no Truss. -/
def deliver (f : Nat) (k : Packet) (s : State) : State := s.onFab fun b => { b with inbox := b.inbox ++ [(f, k)] }

/-- Counts a packet that route discards (R303). -/
def countDrop (hopLimit : Bool) (s : State) : State :=
  s.onFab fun b => if hopLimit then { b with hopLimit := satAdd b.hopLimit 1 } else { b with noRoute := satAdd b.noRoute 1 }

/-- Follows a route that leads out: stage, rotation and queue. The source is the port by which the packet came and its VC there, or this device. -/
def sendOut (src : Option (Nat × Nat)) (shaper : Option Nat) (f st : Nat) (turn : Option (Nat × Nat)) (since : Nat) (k : Packet) (s : State) : State :=
  let s := match turn with
    | some (q, p) => s.onFab fun b => { b with rotation := put b.rotation q p }
    | none => s
  let q : Queued := { k := k.setStage st, vc := 5 * k.cls + st, shaper := shaper, injected := src.isNone, since := since }
  match src with
  | some (g, vc) => enqueue { src := g, dst := f, owed := some vc, q := q } s
  | none => enqueue { src := engineOf k.ty, dst := f, q := q } s

/-- A packet for this device crosses to the engine that takes it. Of a CTRL packet the engine returns the credits when it has done with it (R307). -/
def crossTo (src : Option Nat) (k : Packet) (s : State) : State :=
  let q : Queued := { k := k, vc := k.vc, injected := src.isNone, since := s.clk }
  match src with
  | some g => enqueue { src := g, dst := engineOf k.ty, owed := if k.cls = 0 then none else some k.vc, q := q } s
  | none => enqueue { src := engineOf k.ty, dst := engineOf k.ty, q := q } s

/-- A CTRL packet of this device is sent; one without a route is discarded and counted. -/
def sendCtrl (k : Packet) (s : State) : State :=
  match route s k none none with
  | .deliver => crossTo none k s
  | .out f st _ turn => sendOut none none f st turn s.clk k s
  | .drop h => countDrop h s

/-- A CTRL packet of this device (Table Link-4). -/
def ctrlPacket (s : State) (dest ty : Nat) (th : List (Nat × Nat × Nat)) : Packet := mkPacket s.selfId dest ty 0 false false 0 0 th []

/-- The party that can resend a lost packet: the requester of a REPLY, the source of any other (R310). -/
def lossParty (k : Packet) : Nat := if k.cls = 1 then k.dest else k.src

/-- The LOSS type header for a lost packet (Table Route-4). For a unit packet the group tag holds the return tag, and the offset the offset in the unit (log 29). -/
def lossHeader (port : Nat) (k : Packet) : List (Nat × Nat × Nat) :=
  [(32, 4, k.dest), (36, 1, k.vcField), (37, 1, k.ty), (38, 2, if k.cls = 1 ∨ k.cls = 2 then k.tag else 0), (40, 2, k.routeEpoch),
   (42, 1, portIx port % 64), (43, 1, portClass port % 4)] ++
  (if k.cls = 3 then
    if k.ty = 0x20 then [(44, 4, k.f 36 4), (48, 2, k.f 34 2), (50, 1, k.f 33 1 / 2 % 16), (52, 5, k.f 48 5)]
    else [(44, 4, k.f 32 4), (48, 2, k.f 48 2), (52, 5, k.f 40 4 % 2 ^ 23)]
   else [])

/-- Reports a lost packet that is not CTRL (R310). A loss of this device's own packet waits in the inbox for the LOSS event, with no packet sent (log 30). -/
def reportLoss (port : Nat) (k : Packet) (s : State) : State :=
  if k.cls = 0 then s
  else
    let p := ctrlPacket s (lossParty k) 0x42 (lossHeader port k)
    if lossParty k = s.selfId then deliver selfPort p s else sendCtrl p s

/-- Sends a packet of this device that the drain does not hold. -/
def sendNow (part : Option Nat) (k : Packet) (s : State) : State :=
  match route s k none none with
  | .deliver => crossTo none k s
  | .out f st _ turn =>
    let sh := match part with
      | some p => if k.cls ≥ 2 then some (shaperOf p f k.lc) else none
      | none => none
    sendOut none sh f st turn s.clk k s
  | .drop h => reportLoss selfPort k (countDrop h s)

/-- LC packets or commands of a partition are held by a route drain: a breach of LC deadlines opens, once (R318, Table Part-6). -/
def drainBreach (p : Nat) (s : State) : State :=
  if s.par.breaches.any fun b => b.cause == 1 && b.part == p then s else openBreach p 5 3 1 none s.fab.epoch.toNat s

/-- Holds a packet at its source while the device drains (R316). -/
def holdAtSource (part port : Option Nat) (k : Packet) (s : State) : State :=
  let s := s.onFab fun b => { b with heldTx := b.heldTx ++ [(part, port, k)] }
  match part with
  | some p => if k.lc then drainBreach p s else s
  | none => s

/-- Sends a packet of this device for a partition; new REQ and COLL packets wait at the source while the device drains (R316). -/
def sendPacket (part : Option Nat) (k : Packet) (s : State) : State :=
  if k.cls ≥ 2 ∧ s.fab.drain ≠ 0 then holdAtSource part none k s else sendNow part k s

/-- Sends a packet on a named port, never routed (R319, R244), at stage L0, or H0 on ports 6 and 7 (R304); a REQ or COLL packet waits while the device
drains (R316). -/
def sendOnPort (part : Option Nat) (f : Nat) (k : Packet) (s : State) : State :=
  if k.cls ≥ 2 ∧ s.fab.drain ≠ 0 then holdAtSource part (some f) k s
  else
    let sh := match part with
      | some p => if k.cls ≥ 2 then some (shaperOf p f k.lc) else none
      | none => none
    sendOut none sh f (if [29, 30].contains f then stH0 else stL0) none s.clk k s

/-! ### Ordered flows (R313) -/

/-- The number of a request's flow: destination and partition key. -/
def flowOf (k : Packet) : Nat := k.dest * 2 ^ 16 + k.key

/-- An ordered flow. -/
def State.flow (s : State) (i : Nat) : Flow := getD s.fab.flows i {}

/-- Changes an ordered flow. -/
def updFlow (i : Nat) (f : Flow → Flow) (s : State) : State := s.onFab fun b => { b with flows := upd b.flows i {} f }

/-- The path key that route gives a packet: output port, plane, alternate position (R313). -/
def pathKey (s : State) (k : Packet) : Nat × Option Nat × Option Nat :=
  match route s k none none with
  | .out f _ alt _ => (f, if portClass f = 1 then (s.port f).bound else none, alt)
  | .deliver => (selfPort, none, none)
  | .drop _ => (64, none, none)

/-- A request waits for its flow, which is in REPATH: it counts as lost, and is sent with the others (R314). -/
def loseToFlow (k : Packet) (s : State) : State :=
  updFlow (flowOf k) (fun f => { f with repath := true, lost := if f.lost.contains k.tag then f.lost else f.lost ++ [k.tag] }) s

/-- The packets that waited while the device drained go out (R316). A request of an ordered flow whose path has changed meanwhile puts the flow in REPATH
and waits for it (R313). -/
def releaseHeld (s : State) : State :=
  s.fab.heldTx.foldl (fun s e => match e.2.1 with
    | some f => sendOnPort e.1 f e.2.2 s
    | none =>
      let k := e.2.2
      if k.cls = 2 ∧ k.ordered ∧ (s.flow (flowOf k)).open_.contains k.tag ∧ ((s.flow (flowOf k)).repath ∨ (s.flow (flowOf k)).path ≠ pathKey s k)
      then loseToFlow k s else sendPacket e.1 k s) (s.onFab fun b => { b with heldTx := [] })

/-! ### FENCED and the member epoch (R453) -/

/-- Sends FENCED to the source of a packet, at most once per 100 µs on each port, and counts the discard (R453). -/
def answerFenced (f reason : Nat) (k : Packet) (s : State) : State :=
  let s := s.onFlt fun x => { x with staleEpoch := satAdd x.staleEpoch 1 }
  let due := match find? s.flt.fencedAt f with
    | none => true
    | some t => decide (s.clk - t ≥ 100000)
  if due then
    let s := s.onFlt fun x => { x with fencedAt := put x.fencedAt f s.clk, fencedSent := satAdd x.fencedSent 1 }
    sendCtrl (ctrlPacket s k.src 0x34 [(32, 2, s.flt.epoch.toNat), (34, 4, s.selfId), (38, 1, reason)]) s
  else s

/-- The valid entries of the verdict history: epoch and dead device. -/
def State.history (s : State) : List (W16 × Nat) :=
  (s.flt.hist.filter fun e => bit e.2 0).map fun e => (BitVec.ofNat 16 (fld e.2 63 48), fld e.2 47 28)

/-- Why a packet fails the member-epoch check, if it does: the reason of FENCED (R453). A history without entries is older than no packet (log 31). -/
def epochCheck (s : State) (k : Packet) : Option Nat :=
  let e := BitVec.ofNat 16 k.memberEpoch
  let h := s.history
  if s.flt.fenced then some 1
  else if (!h.isEmpty && h.all fun v => newer v.1 e) || (e - s.flt.epoch).toNat = 32768 then some 0
  else if newer s.flt.epoch e && h.any fun v => v.2 == k.src && newer v.1 e then some 0
  else none

/-! ### Arrival at a device -/

/-- Frees the credits of a packet that is discarded or done with, if it came over a link. -/
def freePacket (f : Nat) (k : Packet) (s : State) : State := if f < 33 then freeCredits f k.vc k.flits s else s

/-- A packet that its epoch accepts is delivered or goes on (R301, R319). One that came on port 6 or 7 is for this device or is discarded (R304). -/
def forward (f : Nat) (k : Packet) (s : State) : State :=
  if [29, 30].contains f then
    if k.dest = s.selfId then crossTo (some f) k s else freePacket f k (reportLoss f k (countDrop false s))
  else if sweepType k then crossTo (some f) k s
  else match route s k (some k.stage) (if portClass f = 2 then s.portDim f else none) with
    | .deliver => crossTo (some f) k s
    | .out g st _ turn => sendOut (some (f, k.vc)) none g st turn s.clk (k.set 3 1 (min (k.hops + 1) 63)) s
    | .drop h => freePacket f k (reportLoss f k (countDrop h s))

/-- A packet waits at ingress, or one ahead of it on its VC does, for the epoch switch (R315). -/
def State.holdsAt (s : State) (f : Nat) (k : Packet) : Bool := s.fab.held.any fun e => e.1 == f && e.2.vc == k.vc

/-- The staged epoch of RTE_EPOCH. -/
def State.stagedEpoch (s : State) : Nat := fld (s.reg 0x0D000010) 47 32

/-- A packet is handled by its route epoch (R315). -/
def byEpoch (f : Nat) (k : Packet) (s : State) : State :=
  if k.cls = 0 then forward f k s
  else if s.holdsAt f k || (s.fab.drain == 2 && k.routeEpoch == s.stagedEpoch && k.routeEpoch != s.fab.epoch.toNat) then
    s.onFab fun b => { b with held := b.held ++ [(f, k)] }
  else if k.routeEpoch = s.fab.epoch.toNat then forward f k s
  else freePacket f k (reportLoss f k (s.onFab fun b => { b with staleRoute := satAdd b.staleRoute 1 }))

/-- A child of the sweep in progress was heard (R321). -/
def heardFrom (f : Nat) (k : Packet) (s : State) : State :=
  s.onFab fun b => { b with sweep := { b.sweep with
    children := b.sweep.children.map fun c => if c.1 = (f, k.src) then (c.1, s.clk, c.2.2) else c
    epochs := b.sweep.epochs.map fun e => if e.1 = (f, k.src) then (e.1, BitVec.ofNat 16 k.memberEpoch) else e } }

/-- A packet arrives on a port (R264, R287, R301, R315, R321, R451). -/
def arrive (f : Nat) (k : Packet) (s : State) : State :=
  if !s.isLive f then s
  else
    let s := heardFrom f k s
    let s := sampleHeader false f k.vc 0 0 k s
    if (!s.isUp f && !management k) || malformed k then freePacket f k (countMalformed f s)
    else if s.flt.fenced && k.cls != 0 then freePacket f k (answerFenced f 1 k (countRx k s))
    else byEpoch f k (countRx k s)

/-! ### An engine takes a packet -/

/-- The port on which a waiting packet arrived. -/
def State.portOf (s : State) (k : Packet) : Nat :=
  match pick (fun (e : Nat × Packet) => e.2 == k) s.fab.inbox with
  | some e => e.1
  | none => selfPort

/-- A packet leaves the inbox; with a CTRL packet the device has then done, and its credits are freed (R307). -/
def takeIn (k : Packet) (s : State) : State :=
  let f := s.portOf k
  let s := s.onFab fun b => { b with inbox := b.inbox.erase (f, k) }
  if k.cls = 0 then freePacket f k s else s

/-- No packet of its source, class and engine came before a packet and waits (R328): the engine takes them in order. A packet that does not wait comes now. -/
def State.inTurn (s : State) (k : Packet) : Bool :=
  let f := s.portOf k
  match pick (fun (e : Nat × Packet) => e.1 == f && e.2.vc == k.vc && engineOf e.2.ty == engineOf k.ty) s.fab.inbox with
  | some e => e.2 == k || !(s.fab.inbox.contains (f, k))
  | none => true

/-- The end-to-end CRC of an arrived packet (R265): on a mismatch it is discarded and an integrity fault reported. -/
def crcFails (k : Packet) (s : State) : Option State :=
  if crcOk k then none else some (uncorrectable (s.partOfKey k.key) (intDetail 0x09 5 (s.portOf k)) 0 (takeIn k s))

/-- A CTRL packet of a type is taken. -/
def takeCtrl (ty : Nat) (k : Packet) (act : State → State) (s : State) : Host.Outcome State Fault Refusal :=
  .next (if k.ty = ty ∧ k.cls = 0 ∧ !malformed k ∧ s.inTurn k then act (takeIn k s) else s)

/-- A packet of a type that is not CTRL is taken: its CRC and its member epoch are checked (R265, R453). -/
def takeData (ty : Nat) (k : Packet) (act : State → State) (s : State) : Host.Outcome State Fault Refusal :=
  .next <|
    if k.ty ≠ ty ∨ k.cls = 0 ∨ malformed k ∨ !s.inTurn k then s
    else match crcFails k s with
      | some s' => s'
      | none => match epochCheck s k with
        | some r => answerFenced (s.portOf k) r k (takeIn k s)
        | none => act (takeIn k s)

/-- TRANSIT_PACKET (R301): a packet arrives on a port. -/
def execTransitPacket (port : PortIx) (k : Packet) (s : State) : Host.Outcome State Fault Refusal := .next (arrive port k s)

end Sys2Proof.Machine
end

