-- ==== Sys2Proof/Machine/Collective.lean ====
section
/-! DEFINITION. The Purlin: groups and what each stage of a collective moves between which members (R227 to R230, R240, R244). -/

namespace Sys2Proof.Machine

/-! ### Fields of the parameter block (Table Purlin-2) -/

/-- n bytes of the parameter block. -/
def Coll.f (x : Coll) (off n : Nat) : Nat := le x.blk off n
/-- Members. -/
def Coll.n (x : Coll) : Nat := x.g.members.length
/-- Rank of this device. -/
def Coll.me (x : Coll) : Nat := x.g.rank
/-- seq. -/
def Coll.seq (x : Coll) : W16 := BitVec.ofNat 16 (x.f 4 2)
/-- count. -/
def Coll.count (x : Coll) : Nat := x.f 8 5
/-- rop is MAX. -/
def Coll.isMax (x : Coll) : Bool := x.f 0 1 / 64 == 1
/-- acc_mode is AUTO. -/
def Coll.auto (x : Coll) : Bool := !(x.f 1 1).testBit 0
/-- Root rank. -/
def Coll.root (x : Coll) : Nat := x.f 16 4 % 2 ^ 17
/-- chunk_en. -/
def Coll.chunkEn (x : Coll) : Bool := (x.f 25 1).testBit 7
/-- Chunk peg. -/
def Coll.chunkPeg (x : Coll) : Nat := x.f 24 2 % 2 ^ 14
/-- Bits of an element by format code: ACC48, SSI4, SSI8, SSI16 (Table Purlin-2). -/
def prlBits (v : Nat) : Nat := match v with
  | 1 => 48
  | 2 => 4
  | 3 => 8
  | _ => 16
/-- Bits of a source element. -/
def Coll.inBits (x : Coll) : Nat := prlBits (x.f 1 1 / 4 % 8)
/-- Bits of a destination element. -/
def Coll.outBits (x : Coll) : Nat := prlBits (x.f 1 1 / 32)
/-- An address of the block. -/
def Coll.addr (x : Coll) (off : Nat) : Addr := addr154 (x.f off 8)

/-- A reduction. -/
def Coll.reduces (x : Coll) : Bool := x.opc == 0x0512 || x.opc == 0x0513
/-- PRL_REDUCE_SCATTER. -/
def Coll.scatters (x : Coll) : Bool := x.opc == 0x0513
/-- An all-to-all, equal or unequal. -/
def Coll.isA2a (x : Coll) : Bool := x.opc == 0x0510 || x.opc == 0x0511
/-- PRL_ALLTOALLV. -/
def Coll.isV (x : Coll) : Bool := x.opc == 0x0511
/-- PRL_BROADCAST. -/
def Coll.isBcast (x : Coll) : Bool := x.opc == 0x0515

/-! ### Peer sets (R230, R240) -/

/-- Device ID of a rank. -/
def PrlGroup.dev (g : PrlGroup) (r : Nat) : Nat := g.members.getD r 0
/-- Rank of a device, if it is a member. -/
def PrlGroup.rankOf (g : PrlGroup) (d : Nat) : Option Nat := g.members.findIdx? (· == d)

/-- Inserts a rank by device ID. -/
def insertPeer (g : PrlGroup) (r : Nat) : List Nat → List Nat
  | [] => [r]
  | x :: t => if g.dev r < g.dev x then r :: x :: t else x :: insertPeer g r t

/-- Ranks whose device satisfies a predicate, in ascending device ID. -/
def PrlGroup.ranks (g : PrlGroup) (p : Nat → Bool) : List Nat :=
  ((List.range g.members.length).filter fun r => p (g.dev r)).foldl (fun acc r => insertPeer g r acc) []

/-- Members in the bent of rank a. -/
def PrlGroup.bentSet (g : PrlGroup) (a : Nat) : List Nat := g.ranks fun d => d / 16 == g.dev a / 16
/-- Members of the cube of rank a at its position within the bent. -/
def PrlGroup.columnSet (g : PrlGroup) (a : Nat) : List Nat := g.ranks fun d => d / 64 == g.dev a / 64 && d % 16 == g.dev a % 16
/-- Members at the in-cube position of rank a. -/
def PrlGroup.hallSet (g : PrlGroup) (a : Nat) : List Nat := g.ranks fun d => d % 64 == g.dev a % 64
/-- Members in the cube of rank a. -/
def PrlGroup.cubeSet (g : PrlGroup) (a : Nat) : List Nat := g.ranks fun d => d / 64 == g.dev a / 64

/-- Position of a rank in a peer set. -/
def posIn (set : List Nat) (r : Nat) : Nat := (set.findIdx? (· == r)).getD 0

/-- The positions a group has among the given numbers, one bit each. -/
def posMask (xs : List Nat) : Nat := xs.foldl (fun m x => if m.testBit x then m else m + 2 ^ x) 0

/-- A group is regular (R230). -/
def regularGroup (ms : List Nat) : Bool :=
  ms.all fun d =>
    posMask ((ms.filter fun e => e / 64 == d / 64).map (· % 64)) == posMask ((ms.filter fun e => e / 64 == ms.headD 0 / 64).map (· % 64)) &&
    (ms.filter fun e => e / 64 == d / 64).all fun e =>
      posMask ((ms.filter fun z => z / 16 == d / 16).map (· % 16)) == posMask ((ms.filter fun z => z / 16 == e / 16).map (· % 16))

/-! ### Slices (R240) -/

/-- A range of units: first, and one past the last. -/
abbrev Range := Nat × Nat

/-- Slice i of a range among k members. -/
def sliceOf (r : Range) (k i : Nat) : Range :=
  let w := ceilDiv (r.2 - r.1) k
  (min (r.1 + i * w) r.2, min (r.1 + (i + 1) * w) r.2)

/-- The slice of a range that rank r takes in a peer set. -/
def sliceIn (set : List Nat) (r : Nat) (e : Range) : Range := sliceOf e set.length (posIn set r)

/-- What two ranges share. -/
def sharedRange (a b : Range) : List Range := if max a.1 b.1 < min a.2 b.2 then [(max a.1 b.1, min a.2 b.2)] else []

/-- Stages (Table Purlin-4). -/
def stFlat : Nat := 0
/-- B_RS -/
def stBrs : Nat := 1
/-- C_RS -/
def stCrs : Nat := 2
/-- H_RS -/
def stHrs : Nat := 3
/-- H_AG -/
def stHag : Nat := 4
/-- C_AG -/
def stCag : Nat := 5
/-- B_AG -/
def stBag : Nat := 6
/-- SW -/
def stSw : Nat := 7
/-- A2A -/
def stA2a : Nat := 8

/-- Blocks of the source row of a reduction; granules of the destination of a byte operation. -/
def Coll.units (x : Coll) : Nat :=
  if x.reduces then ceilDiv x.count 32 else if x.opc = 0x0514 then x.n * (x.count / 64) else x.count / 64

/-- The extent that rank a holds after B_RS, of a given extent. -/
def PrlGroup.bSlice (g : PrlGroup) (a : Nat) (e : Range) : Range := sliceIn (g.bentSet a) a e
/-- The extent that rank a holds after C_RS. -/
def PrlGroup.cSlice (g : PrlGroup) (a : Nat) (e : Range) : Range := sliceIn (g.columnSet a) a (g.bSlice a e)

/-- The extent over which the members at one in-cube position run their ring: SW stands in place of B_RS and C_RS, so it is the same with it (R240). -/
def Coll.ringExtent (x : Coll) (a : Nat) : Range := x.g.cSlice a (0, x.units)
/-- The slice whose result rank a forms: in a flat group the members take the slices of the row in rank order (R240). -/
def Coll.ownSlice (x : Coll) (a : Nat) : Range :=
  if !x.g.regular then sliceOf (0, x.units) x.n a else sliceIn (x.g.hallSet a) a (x.ringExtent a)

/-- The part of the row that PRL_REDUCE_SCATTER gives rank b; the whole row otherwise. -/
def Coll.part_ (x : Coll) (b : Nat) : Range := if x.scatters then (b * x.units / x.n, (b + 1) * x.units / x.n) else (0, x.units)

/-- Blocks of a switch chunk. -/
def Coll.swBlocks (x : Coll) : Nat := match x.sw with
  | some (b, _) => b
  | none => 1
/-- The blocks of switch chunk c. -/
def Coll.swChunk (x : Coll) (c : Nat) : Range := (c * x.swBlocks, min ((c + 1) * x.swBlocks) x.units)
/-- Switch chunks of the extent. -/
def Coll.swChunks (x : Coll) : Nat := ceilDiv x.units (max 1 x.swBlocks)

/-- Nonempty ranges of a list. -/
def nonempty (rs : List Range) : List Range := rs.filter fun r => decide (r.1 < r.2)

/-- The extent over which a part of B_RS or C_RS runs: the whole row, or a switch chunk that is resent directly (R246). -/
def Coll.base (x : Coll) (part : Nat) : Range := if x.sw.isSome then x.swChunk part else (0, x.units)

/-- What rank a sends to rank b in a part of a stage of a reduction. The switch has rank n. In a flat group a member sends each other its slice of the row, and in
an all-reduce its own slice of the result (R240). -/
def Coll.reduceSends (x : Coll) (st part a b : Nat) : List Range :=
  let g := x.g
  let h := g.hallSet a
  let k := h.length
  let i := posIn h a
  let row : Range := (0, x.units)
  match st with
  | 0 => if a = b ∨ g.regular then [] else nonempty (x.ownSlice b :: if x.scatters then [] else [x.ownSlice a])
  | 1 => if a != b && (g.bentSet a).contains b then sharedRange (g.bSlice b row) (x.base part) else []
  | 2 => if a != b && (g.columnSet a).contains b then sharedRange (g.cSlice b row) (x.base part) else []
  | 3 => if k > 1 ∧ h.getD ((i + 1) % k) a = b then (List.range (k - 1)).map fun t => sliceOf (x.ringExtent a) k ((i + 2 * k - t - 1) % k) else []
  | 4 => if k > 1 ∧ h.getD ((i + k - 1) % k) a = b then (List.range (k - 1)).map fun t => sliceOf (x.ringExtent a) k ((i + t) % k) else []
  | 5 => if a != b && (g.columnSet a).contains b then nonempty [g.cSlice a row] else []
  | 6 => if a != b && (g.bentSet a).contains b then nonempty [g.bSlice a row] else []
  | 7 => if b = x.n then ((List.range x.swChunks).filter fun c => !x.direct.contains c).map x.swChunk else []
  | 8 => if a = b then [] else sharedRange (x.ownSlice a) (x.part_ b)
  | _ => []

/-- The slot of rank r in the destination of PRL_ALLGATHER. -/
def Coll.slotOf (x : Coll) (r : Nat) : Range := (r * (x.count / 64), (r + 1) * (x.count / 64))

/-- What rank a sends to rank b in a stage of a gather or a broadcast. -/
def Coll.gatherSends (x : Coll) (st a b : Nat) : List Range :=
  let g := x.g
  let h := g.hallSet a
  let k := h.length
  let i := posIn h a
  let all : List Range := [(0, x.units)]
  let rt := g.dev x.root
  nonempty <|
    match st with
    | 0 => if a = b ∨ g.regular then [] else if x.isBcast then (if a = x.root then all else []) else [x.slotOf a]
    | 4 => if k > 1 ∧ h.getD ((i + k - 1) % k) a = b then
        (if x.isBcast then (if h.contains x.root && b != x.root then all else []) else (List.range (k - 1)).map fun t => x.slotOf (h.getD ((i + t) % k) a))
      else []
    | 5 => if a != b && (g.columnSet a).contains b then
        (if x.isBcast then (if rt % 64 = g.dev a % 64 then all else []) else h.map x.slotOf)
      else []
    | 6 => if a != b && (g.bentSet a).contains b then
        (if x.isBcast then (if rt % 16 = g.dev a % 16 then all else []) else (g.columnSet a).flatMap fun c => (g.hallSet c).map x.slotOf)
      else []
    | _ => []

/-- What rank a sends to rank b in a part of a stage. In an unequal all-to-all only this device's own sends are known beforehand. -/
def Coll.sends (x : Coll) (exp : Bool) (st part a b : Nat) : List Range :=
  if x.reduces then x.reduceSends st part a b
  else if exp then []
  else if x.isA2a then
    if a ≠ b ∧ st = (if x.g.regular then stA2a else stFlat) ∧ b < x.n then
      nonempty [(0, if x.isV then (if a = x.me then (x.tables.1.getD b (0, 0)).2 / 64 else 0) else x.units)]
    else []
  else x.gatherSends st a b

/-- The parts of a stage: one, but for B_RS and C_RS in SW mode, which run for each switch chunk that is resent directly (R246). -/
def Coll.parts (x : Coll) (st : Nat) : List Nat := if x.sw.isSome && (st == stBrs || st == stCrs) then x.direct else [0]
/-- The part of a stage to which a unit belongs. -/
def Coll.partOf (x : Coll) (st j : Nat) : Nat := if x.sw.isSome && (st == stBrs || st == stCrs) then j / max 1 x.swBlocks else 0
/-- The offset in POST and DONE that names a part: its first block as 64-bit sums (log 55). -/
def Coll.partOff (x : Coll) (st part : Nat) : Nat := if x.sw.isSome && (st == stBrs || st == stCrs) then 256 * x.swBlocks * part else 0
/-- The part that an offset in POST or DONE names. -/
def Coll.partAt (x : Coll) (st off : Nat) : Nat := x.partOf st (off / 256)

/-- The reduce stages of either pass: SW stands before the direct stages of the chunks that are resent (R240, R246). -/
def Coll.reduceStages (x : Coll) : List Nat := (if x.sw.isSome then [stSw] else []) ++ [stBrs, stCrs, stHrs]

/-- The stages in which the exponents of a reduction are agreed, in order: the reduce stages, then the gather stages (R240, log 51). -/
def Coll.expStages (x : Coll) : List Nat :=
  if !x.reduces || !x.auto then []
  else if !x.g.regular then [stFlat]
  else x.reduceStages ++ [stHag, stCag, stBag]

/-- The stages in which data move, in order (R240). -/
def Coll.dataStages (x : Coll) : List Nat :=
  if !x.g.regular then [stFlat]
  else if x.isA2a then [stA2a]
  else if x.reduces then x.reduceStages ++ (if x.scatters then [stA2a] else [stHag, stCag, stBag])
  else [stHag, stCag, stBag]

/-- The stages of a pass. -/
def Coll.stages (x : Coll) (exp : Bool) : List Nat := if exp then x.expStages else x.dataStages

/-- A stage that carries results or whole data, not terms to be added. -/
def Coll.gathers (_x : Coll) (st : Nat) : Bool := st == stHag || st == stCag || st == stBag || st == stA2a

/-- What rank a sends from unit j on in a stage is a result: in a gathering stage, or of its own slice in a flat reduction. -/
def Coll.gathersAt (x : Coll) (st a j : Nat) : Bool :=
  x.gathers st || (st == stFlat && x.reduces && decide ((x.ownSlice a).1 ≤ j ∧ j < (x.ownSlice a).2))

/-! ### Messages (Table Purlin-5) -/

/-- Kinds of message. -/
def kPost : Nat := 0
/-- DATA -/
def kData : Nat := 1
/-- PARTIAL -/
def kPartial : Nat := 2
/-- EXP -/
def kExp : Nat := 3
/-- REFUSE -/
def kRefuse : Nat := 4
/-- RETRY -/
def kRetry : Nat := 5
/-- RESULT -/
def kResult : Nat := 6
/-- DONE -/
def kDone : Nat := 7

/-- Bytes padded to whole granules. -/
def toGranules (n : Nat) : Nat := ceilDiv n 64 * 64

/-- Bits of the elements of a DATA message of a reduction: results in out_fmt, inputs in in_fmt. -/
def Coll.dataBits (x : Coll) (out : Bool) : Nat := if out then x.outBits else x.inBits

/-- Payload bytes of a message of n units. -/
def Coll.payloadBytes (x : Coll) (out : Bool) (kind n : Nat) : Nat :=
  if kind = kExp then 2 * n
  else if kind = kPartial ∨ kind = kResult then 256 * n
  else if x.reduces then toGranules (n * blockBytesOf (x.dataBits out)) + toGranules (n * scaleBytesOf (x.dataBits out))
  else 64 * n

/-- Units of the largest message of a kind: its payload fits one packet of 4,096 bytes (log 52). -/
def Coll.maxUnits (x : Coll) (out : Bool) (kind : Nat) : Nat :=
  max 1 ((pick (fun n => decide (x.payloadBytes out kind n ≤ 4096)) ((List.range 2049).map (2048 - ·))).getD 1)

/-- Bytes of a unit by which the offset of a message counts (log 52). -/
def Coll.unitBytes (x : Coll) (out : Bool) (kind : Nat) : Nat :=
  if kind = kExp then 2 else if kind = kPartial ∨ kind = kResult then 256 else if x.reduces then blockBytesOf (x.dataBits out) else 64

/-- First unit of a stage's extent, from which offsets count, as rank a sees it. -/
def Coll.stageBase (x : Coll) (st a : Nat) : Nat :=
  if !x.reduces || !x.g.regular then 0
  else if st = stCag ∨ (st = stCrs ∧ x.sw.isNone) then (x.g.bSlice a (0, x.units)).1
  else if st = stHrs ∨ st = stHag then (x.g.cSlice a (0, x.units)).1
  else 0

/-- The results of a flat reduction follow its inputs in the extent of stage FLAT: the bytes by which their offsets are greater (log 52). -/
def Coll.flatShift (x : Coll) (st kind : Nat) (out : Bool) : Nat :=
  if st = stFlat ∧ x.reduces ∧ kind = kData ∧ out then x.units * blockBytesOf x.inBits else 0

/-- The kind of the message that carries a range of a reduction in a stage: the first stage that moves a member's input sends it as DATA,
later reduce stages send PARTIAL sums (R240). In the ring only its first step can move an input. -/
def Coll.kindOf (x : Coll) (st a : Nat) (first : Bool) : Nat :=
  if !x.reduces || x.gathers st || st == stFlat || st == stBrs then kData
  else if st = stSw then kPartial
  else if st = stCrs then (if (x.g.bentSet a).length = 1 then kData else kPartial)
  else if first && x.sw.isNone && (x.g.bentSet a).length == 1 && (x.g.columnSet a).length == 1 then kData
  else kPartial

/-- Cuts a range into pieces of at most m units. -/
def cutRange (m : Nat) (r : Range) : List Range :=
  (List.range (ceilDiv (r.2 - r.1) m)).map fun i => (r.1 + i * m, min (r.1 + (i + 1) * m) r.2)

/-- The messages that rank a sends to rank b in a part of a stage of a pass, as messages to or from a peer. -/
def Coll.msgs (x : Coll) (exp : Bool) (st part a b peer : Nat) : List PrlMsg :=
  ((x.sends exp st part a b).mapIdx fun i r =>
    let kind := if exp then kExp else x.kindOf st a (i == 0)
    (cutRange (x.maxUnits (x.gathersAt st a r.1) kind) r).map fun p => (⟨st, peer, kind, p.1, p.2 - p.1⟩ : PrlMsg)).flatten

/-- Every message of a part of a stage from a to b: exponents first, then data. -/
def Coll.allMsgs (x : Coll) (st part a b peer : Nat) : List PrlMsg :=
  (if x.expStages.contains st then x.msgs true st part a b peer else []) ++ (if x.dataStages.contains st then x.msgs false st part a b peer else [])

/-- The stages of either pass, each once. -/
def Coll.allStages (x : Coll) : List Nat := x.expStages ++ x.dataStages.filter fun st => !x.expStages.contains st
/-- The stages between members, with their parts. -/
def Coll.allParts (x : Coll) : List (Nat × Nat) := (x.allStages.filter (· != stSw)).flatMap fun st => (x.parts st).map fun p => (st, p)

/-- The other members. -/
def Coll.others (x : Coll) : List Nat := (List.range x.n).filter (· != x.me)

/-- Every message of a message list has come or gone. -/
def allIn (ms done : List PrlMsg) : Bool := ms.all done.contains

/-- A message of the pass that covers unit j. -/
def PrlMsg.covers (m : PrlMsg) (exp : Bool) (j : Nat) : Bool := (m.kind == kExp) == exp && decide (m.lo ≤ j) && decide (j < m.lo + m.n)

/-- Everything this member expects for unit j of a pass in the stages at or before the i-th has come. -/
def Coll.arrived (x : Coll) (exp : Bool) (i j : Nat) : Bool :=
  ((x.stages exp).take (i + 1)).all fun st =>
    if st = stSw then
      !(x.reduceSends stSw 0 x.me x.n).any (fun r => decide (r.1 ≤ j ∧ j < r.2)) || x.got.any fun m => m.stage == stSw && m.covers exp j
    else (x.parts st).all fun part => x.others.all fun p =>
      !(x.sends exp st part p x.me).any (fun r => decide (r.1 ≤ j ∧ j < r.2)) || x.got.any fun m => m.stage == st && m.peer == p && m.covers exp j

/-- Position of a stage in a pass. -/
def Coll.stageIx (x : Coll) (exp : Bool) (st : Nat) : Nat := posIn (x.stages exp) st

/-- The last stage of a pass in which terms are added. -/
def Coll.lastReduce (x : Coll) : Nat := if x.g.regular then stHrs else stFlat

end Sys2Proof.Machine
end

