-- ==== Sys2Proof/Machine/Leases.lean ====
section
/-! DEFINITION. Kingposts, lease partners and reports (R448 to R450, R454, R462). -/

namespace Sys2Proof.Machine

/-- The lowest member among in-cube positions. -/
def lowest? (mask : Nat) (ps : List Nat) : Option Nat := pick (fun p => mask.testBit p) ps

/-- The positions that elect one kingpost: a bent, or a half of it in a half-bent (R448). -/
def State.postGroup (s : State) (q : Nat) : List Nat :=
  if (List.range 7).any (fun k => s.halfBent (2 * k)) then (List.range 8).map (q / 8 * 8 + ·) else (List.range 16).map (q / 16 * 16 + ·)

/-- The member mask. -/
def State.memberMask (s : State) : Nat := s.flt.mask.toNat
/-- The kingpost of the group that position q belongs to. -/
def State.kingpost (s : State) (q : Nat) : Option Nat := lowest? s.memberMask (s.postGroup q)
/-- The cube kingpost. -/
def State.cubeKingpost (s : State) : Option Nat := lowest? s.memberMask (List.range 64)

/-- The lease partner of position q (R448). -/
def State.partner (s : State) (q : Nat) : Option Nat :=
  let g := s.postGroup q
  if s.kingpost q ≠ some q then s.kingpost q
  else match lowest? s.memberMask (g.filter (· != q)) with
    | some n => some n
    | none => if s.cubeKingpost = some q then lowest? s.memberMask ((List.range 64).filter (fun p => !g.contains p)) else s.cubeKingpost

/-- The device at an in-cube position of this cube. -/
def State.inCube (s : State) (q : Nat) : Nat := s.selfCube * 64 + q

/-- Sends a REPORT (R454). -/
def sendReport (dst suspect kind level merged : Nat) (first : W64) (s : State) : State :=
  sendCtrl (ctrlPacket s dst 0x32 [(32, 4, suspect), (36, 4, s.selfId), (40, 2, s.flt.epoch.toNat), (42, 1, kind), (43, 1, level), (44, 2, merged), (48, 8, first.toNat)]) s

/-- Kinds that are forwarded even when they come late (R462). -/
def urgentKind (k : Nat) : Bool := k == 3 || k == 4 || k == 5

/-- A kingpost takes a report about a suspect: it opens a merge, joins one, or comes late (R462). A merged report takes an urgent kind where one joins (log 59).
A late report of an urgent kind is passed on at once. -/
def mergeAt (level : Nat) (pass : State → State) (suspect : BitVec 20) (kind count : Nat) (first : W64) (s : State) : State :=
  match pick (fun (m : Merge) => m.suspect == suspect && m.level == level) s.flt.merges with
  | none => s.onFlt fun x => { x with merges := x.merges ++ [⟨suspect, kind, level, count, s.clk, first, false⟩] }
  | some m =>
    if !m.closed then s.onFlt fun x => { x with merges := x.merges.map fun n => if n = m then { m with count := m.count + count, kind := if urgentKind kind then kind else m.kind } else n }
    else if urgentKind kind then pass s
    else s.onFlt fun x => { x with reportsMerged := satAdd x.reportsMerged count }

/-- The cube kingpost writes its merged report as an event of class 2 (R462, R447). -/
def reportEvent (suspect : BitVec 20) (kind count : Nat) (s : State) : State :=
  appendEvent { cls := 2, kind := kind, addr := suspect.toNat, merged := count } s

/-- A bent kingpost's merged report goes to the cube kingpost at level 1 (R462). -/
def reportUp (suspect : BitVec 20) (kind count : Nat) (first : W64) (s : State) : State :=
  match s.cubeKingpost with
  | none => s
  | some c =>
    if c = s.selfPos then mergeAt 1 (reportEvent suspect kind count) suspect kind count first s
    else sendReport (s.inCube c) suspect.toNat kind 1 count first s

/-- What a kingpost does with a report at its level: 0 to a bent kingpost, 1 to the cube kingpost. -/
def passReport (level : Nat) (suspect : BitVec 20) (kind count : Nat) (first : W64) (s : State) : State :=
  if level = 0 then reportUp suspect kind count first s else reportEvent suspect kind count s

/-- A kingpost takes a report. -/
def mergeReport (level : Nat) (suspect : BitVec 20) (kind count : Nat) (first : W64) (s : State) : State :=
  mergeAt level (passReport level suspect kind count first) suspect kind count first s

/-- Reports a suspicion to the kingpost of the device's bent, or to the next-lowest member when the kingpost is the suspect (R462). -/
def report (suspect kind : Nat) (s : State) : State :=
  let g := s.postGroup s.selfPos
  let dst := lowest? s.memberMask (g.filter fun p => s.inCube p != suspect)
  match dst with
  | none => s
  | some q =>
    if q = s.selfPos then mergeReport 0 (BitVec.ofNat 20 suspect) kind 1 s.hall s
    else sendReport (s.inCube q) suspect kind 0 1 s.hall s

/-- Reports a suspect at most once per member epoch (R462). -/
def suspect (d kind : Nat) (s : State) : State :=
  let b := BitVec.ofNat 20 d
  if s.flt.reported.contains b then s
  else report d kind (s.onFlt fun x => { x with reported := x.reported ++ [b] })

end Sys2Proof.Machine
end

