-- ==== Sys2Proof/Machine/Tier.lean ====
section
/-! DEFINITION. Planks: allocation, release, status, digest, moves between HBM and flash, and the scrubber (R372 to R389). -/

namespace Sys2Proof.Machine

/-! ### Plank ranges -/

/-- The planks of a range operand (R377), or BAD_RSV with detail 32 where it extends beyond the map. -/
def rangeOf (k : Block) (p : Nat) (s : State) : Except Err (List Nat) :=
  let first := op k 32 4 % 2 ^ 26
  let n := op k 36 4
  if first + n > s.mapPlanks p then .error (badRsv 0 32) else .ok ((List.range n).map (first + ·))

/-- Gives a plank a free frame, zero-filled, with the entry the caller builds (R383); none when HBM has no free frame. -/
def takeFrame (p i : Nat) (f : Nat → Plank → Plank) (s : State) : Option State :=
  match s.freeFrame with
  | none => none
  | some fr =>
    let s := { s with draws := s.draws + 1, hbm := memZero s.hbm (fr * 65536) 65536 }
    let s := closeRange .hbm (fr * 1024) 1024 (s.onTier fun t => { t with hbmPoison := t.hbmPoison.filter fun g => g / 1024 != fr })
    some (s.updPlank p i (f fr))

/-- The bytes of a frame are replaced. -/
def fillFrame (fr : Nat) (bs : List Byte) (s : State) : State :=
  let s := { s with hbm := memWrite (memZero s.hbm (fr * 65536) 65536) (fr * 65536) bs }
  closeRange .hbm (fr * 1024) 1024 (s.onTier fun t => { t with hbmPoison := t.hbmPoison.filter fun g => g / 1024 != fr })

/-- The entry of a newly allocated plank. -/
def allocated (pinned : Bool) (fr : Nat) (_ : Plank) : Plank := { tier := .hbm, frame := fr, pinned := pinned }

/-- Allocates planks one after another. -/
def allocPlanks (p : Nat) (pinned : Bool) : List Nat → State → Option State
  | [], s => some s
  | i :: r, s => match takeFrame p i (allocated pinned) s with
    | some s => allocPlanks p pinned r s
    | none => none

/-- The HBM limit of a partition (R416). -/
def State.hbmLimit (s : State) (p : Nat) : Nat := fld (s.parQuota p) 31 6
/-- The flash limit of a partition. -/
def State.flashLimit (s : State) (p : Nat) : Nat := fld (s.parQuota p) 63 32

/-- n more HBM planks would exceed the limit: QUOTA, detail 1 (R376). -/
def hbmQuota (p n : Nat) (s : State) : Except Err Unit := guardE (decide (s.hbmUsed p + n > s.hbmLimit p)) ⟨.quota, 1⟩
/-- n more flash planks would exceed the limit: QUOTA, detail 2 (R376). -/
def flashQuota (p n : Nat) (s : State) : Except Err Unit := guardE (decide (s.flashUsed p + n > s.flashLimit p)) ⟨.quota, 2⟩

/-- PLANK_ALLOC (R374, R376, R383): the NONE planks of the range, all or nothing. Without a free frame it waits, or completes NO_PLANK with NO_WAIT. -/
def execPlankAlloc (c : CmdRef) (s : State) : Host.Outcome State Fault Refusal :=
  .next <|
    match s.ready c 0x0201 with
    | none => s
    | some i =>
      let p := s.cmdPart c
      match rangeOf i.pkt p s with
      | .error e => failCmd c e s
      | .ok r =>
        let new := r.filter fun j => (s.plank p j).tier == .none
        if s.hbmUsed p + new.length > s.hbmLimit p then failCmd c ⟨.quota, 1⟩ s
        else match allocPlanks p (bit i.pkt (8 * 40)) new s with
          | some s' => endCmd c .ok new.length 0 s'
          | none => if flagNoWait i.pkt then failCmd c ⟨.noPlank, 0⟩ s else s

/-- Frees a plank: its frame and its flash copy go, and every field of its entry is cleared (log 9). -/
def freePlank (p : Nat) (s : State) (i : Nat) : State :=
  s.onTier fun t => { t with planks := del t.planks (plankKey p i) }

/-- PLANK_FREE (R377, R389). -/
def execPlankFree (c : CmdRef) (s : State) : Host.Outcome State Fault Refusal :=
  .next (wholeCmd c 0x0202 (fun k p s => do
    let r ← rangeOf k p s
    let old := r.filter fun j => (s.plank p j).tier != .none
    .ok { s := old.foldl (freePlank p) s, result := old.length }) s)

/-- Code of a tier (Table Tier-2). -/
def Tier.code : Tier → Nat
  | .none => 0 | .hbm => 1 | .flash => 2 | .both => 3 | .moving => 4

/-- The 32 bytes of a plank map entry (Table Tier-2). -/
def plankBytes (e : Plank) (torn : Bool) : List Byte :=
  toBytes 32 (layout [(0, 4, e.tier.code + 8 * b2n e.dirty + 16 * b2n torn + 32 * b2n e.digestValid + 64 * b2n e.ckpt +
      128 * e.cdirty.toNat + 512 * b2n e.pinned),
    (4, 4, if e.tier.served then e.frame else 0),
    (8, 8, if e.tier.onFlash then e.ssd + e.lba * 16 else 0), (16, 8, e.digest.toNat),
    (24, 4, e.writer.toNat + 2 ^ 20 * b2n e.remoteValid), (28, 4, e.time.toNat)])

/-! ### Copy addresses -/

/-- Writes bytes at a copy address (R378): answers the state, the bytes written and the failure. -/
def copyOut (c : CmdRef) (p : Nat) (d : CopyAddr) (off : Nat) (bs : List Byte) (at_ : Nat) (s : State) : State × Nat × Option Err :=
  match d with
  | .loft a => cmdWrite c p ⟨false, a + off⟩ bs s
  | .tiered a => cmdWrite c p ⟨true, a + off⟩ bs s
  | .bench n o =>
    if !s.ownsArray p n then (s, 0, some (accessErr (at_ + 2)))
    else if o + off + bs.length > 2 ^ 18 then (s, 0, some (accessErr at_))
    else (s.writeBench n (o + off) bs, bs.length, none)
  | .host a => (s.emit (.hostWrite (s.parFn p) (a + off) bs), bs.length, none)
  | .bad => (s, 0, some (badRsv 0 at_))

/-- Reads bytes at a copy address other than host memory. -/
def copyIn (c : CmdRef) (p : Nat) (d : CopyAddr) (off n at_ : Nat) (s : State) : Except Err (List Byte) :=
  match d with
  | .loft a => cmdRead c p ⟨false, a + off⟩ n s
  | .tiered a => cmdRead c p ⟨true, a + off⟩ n s
  | .bench b o =>
    if !s.ownsArray p b then .error (accessErr (at_ + 2))
    else if o + off + n > 2 ^ 18 then .error (accessErr at_)
    else s.readBench b (o + off) n
  | .host _ => .error (badRsv 0 at_)
  | .bad => .error (badRsv 0 at_)

/-- PLANK_STAT (R377): one map entry after another; the first failing access ends it with the entries written. -/
def statLoop (c : CmdRef) (p : Nat) (d : CopyAddr) : List Nat → Nat → State → Done
  | [], n, s => { s := s, result := n }
  | i :: r, n, s =>
    let e := s.plank p i
    let w := copyOut c p d (32 * n) (plankBytes e (s.plankTorn e)) 40 s
    match w.2.2 with
    | some e => { s := w.1, st := e.st, det := e.det, result := n }
    | none => statLoop c p d r (n + 1) w.1

/-- PLANK_STAT (R377). -/
def execPlankStat (c : CmdRef) (s : State) : Host.Outcome State Fault Refusal :=
  .next (wholeCmd c 0x0204 (fun k p s => do
    let r ← rangeOf k p s
    .ok (statLoop c p (addr378 (op k 40 8)) r 0 s)) s)

/-- PLANK_DIGEST (R380): the digest of one plank is returned and stored. -/
def execPlankDigest (c : CmdRef) (s : State) : Host.Outcome State Fault Refusal :=
  .next (wholeCmd c 0x0205 (fun k p s => do
    let _ ← rangeOf k p s
    let i := op k 32 4 % 2 ^ 26
    let bs ← cmdRead c p ⟨true, i * 65536⟩ 65536 s
    let d := crc64 bs
    let s := noteTorn c (s.plankTorn (s.plank p i)) s
    .ok { s := s.updPlank p i ({ · with digest := BitVec.ofNat 64 d, digestValid := true }), result := d }) s)

/-! ### COPY -/

/-- The result word of a copied 64-bit word: copy, ADD64 or MAX64 (R378). -/
def copyWord (o : Nat) (src dst : Nat) : Nat :=
  match o with
  | 1 => (src + dst) % 2 ^ 64
  | 2 => if signed 64 src ≥ signed 64 dst then src else dst
  | _ => src

/-- The bytes of a granule after a copy of op o over old bytes. -/
def copyGranule (o : Nat) (src dst : List Byte) : List Byte :=
  if o = 0 then src
  else (List.range 8).flatMap fun i => toBytes 8 (copyWord o (le src (8 * i) 8) (le dst (8 * i) 8))

/-- The range behind a copy address reads as torn somewhere. -/
def copyTorn (p : Nat) (d : CopyAddr) (off n : Nat) (s : State) : Bool :=
  match d with
  | .loft a => s.rangeTorn p false (a + off) n
  | .tiered a => s.rangeTorn p true (a + off) n
  | _ => false

/-- The HBM or the Loft accepts a read at a copy address. -/
def chargeCopy (c : CmdRef) (p : Nat) (d : CopyAddr) (off n : Nat) (s : State) : State :=
  match d with
  | .loft a => chargeCmd c p ⟨false, a + off⟩ n s
  | .tiered a => chargeCmd c p ⟨true, a + off⟩ n s
  | _ => s

/-- One granule of a COPY: the source is read, an ADD64 or MAX64 reads the destination too, then the granule is written. -/
def copyOne (c : CmdRef) (p o : Nat) (src dst : CopyAddr) (off : Nat) (s : State) : State × Option Err :=
  match copyIn c p src off 64 32 s with
  | .error e => (s, some e)
  | .ok bs =>
    match (if o = 0 then .ok [] else copyIn c p dst off 64 40 s) with
    | .error e => (s, some e)
    | .ok old =>
      let s := noteTorn c (copyTorn p src off 64 s || (o != 0 && copyTorn p dst off 64 s)) s
      let s := chargeCopy c p src off 64 (if o = 0 then s else chargeCopy c p dst off 64 s)
      let w := copyOut c p dst off (copyGranule o bs old) 40 s
      (w.1, w.2.2)

/-- The granules of a COPY in order; the first failing access ends it with the bytes written (R374). -/
def copyLoop (c : CmdRef) (p o : Nat) (src dst : CopyAddr) : (granulesLeft off : Nat) → State → Done
  | 0, off, s => { s := s, result := off }
  | n + 1, off, s =>
    match copyOne c p o src dst off s with
    | (s', some e) => { s := s', st := e.st, det := e.det, result := off }
    | (s', none) => copyLoop c p o src dst n (off + 64) s'

/-- COPY (R378, R560). A host source is read by a host read request; the copy ends when the data have come. -/
def execCopy (c : CmdRef) (s : State) : Host.Outcome State Fault Refusal :=
  .next <|
    match s.ready c 0x0200 with
    | none => s
    | some i =>
      let k := i.pkt
      let p := s.cmdPart c
      match addr378 (op k 32 8) with
      | .host a =>
        let t := s.cmd.nextRead
        let s := s.updIn c ({ · with stage := .running })
        let s := s.onCmd fun m => { m with nextRead := t + 1, reads := put m.reads t { fn := s.parFn p, for_ := .copy c.q c.slot, n := op k 48 4 } }
        s.emit (.hostRead t (s.parFn p) a (op k 48 4))
      | src => 
        let d := copyLoop c p (op k 52 1 % 4) src (addr378 (op k 40 8)) (op k 48 4 / 64) 0 s
        endCmd c d.st d.result d.det d.s

/-- Data of a host source arrive: they are written after those that came before, in whole granules (R102, R386); the copy ends when all have come, or at a
failing access. -/
def copyData (c : CmdRef) (tag : Nat) (r : HostRead) (bs : List Byte) (s : State) : State :=
  match s.running c with
  | none => s
  | some i =>
    let k := i.pkt
    let p := s.cmdPart c
    let here := r.part ++ bs.take r.n
    let whole := here.length / 64 * 64
    let w := copyOut c p (addr378 (op k 40 8)) i.acc (here.take whole) 40 s
    let n := i.acc + w.2.1
    match w.2.2 with
    | some e => endCmd c e.st n e.det w.1
    | none =>
      if bs.length ≥ r.n then endCmd c .ok n 0 w.1
      else (w.1.updIn c ({ · with acc := n })).onCmd fun m => { m with reads := put m.reads tag { r with n := r.n - bs.length, part := here.drop whole } }

/-- The host read of a COPY fails: INTEGRITY with unit 0x0E and the function (R559). -/
def copyFailed (c : CmdRef) (r : HostRead) (s : State) : State :=
  match s.running c with
  | none => s
  | some i => endCmd c .integrity i.acc (intDetail 0x0E 8 r.fn) s

/-! ### Moves between HBM and flash (R379) -/

/-- Operations that are outstanding on an SSD. -/
def State.nvmeSent (s : State) (ssd : Nat) : Nat := (s.tier.nvme.filter fun e => e.2.ssd == ssd && e.2.sent).length

/-- Starts an NVMe operation: it is sent, or waits while 64 are outstanding on its SSD (R385). -/
def nvmeStart (ssd lba dir : Nat) (f : NvmeFor) (c : CmdRef) (s : State) : State :=
  let t := s.tier.nextNvme
  let now := decide (s.nvmeSent ssd < 64)
  (if now then s.emit (.nvme ssd dir lba) else s).onTier fun m =>
    { m with nextNvme := t + 1, nvme := put m.nvme t { ssd := ssd, for_ := f, cmd := c, lba := lba, dir := dir, sent := now } }

/-- Sends a waiting operation if its SSD can take it. -/
def sendWaiting (s : State) (e : Nat × NvmeOp) : State :=
  if !e.2.sent && decide (s.nvmeSent e.2.ssd < 64) then
    (s.emit (.nvme e.2.ssd e.2.dir e.2.lba)).onTier fun m => { m with nvme := put m.nvme e.1 { e.2 with sent := true } }
  else s

/-- Sends every waiting operation that can go now, in order. -/
def settleNvme (s : State) : State := s.tier.nvme.foldl sendWaiting s

/-- Operations outstanding for a command. -/
def State.nvmeOpen (s : State) (c : CmdRef) : Bool := s.tier.nvme.any fun e => e.2.cmd == c

/-- Gives a plank a place on flash: the next SSD in rotation and a free flash plank on it (R385). -/
def placeOnFlash (s : State) : Option (Nat × Nat × State) :=
  match s.nextSsd with
  | none => none
  | some ssd => match s.freeLba ssd with
    | none => none
    | some lba => some (ssd, lba, { s with draws := s.draws + 1 }.onTier fun t => { t with ssdNext := (ssd + 1) % 8 })

/-- Starts writing a plank's flash copy: the plank is MOVING until the write has completed. `demote` ends it in FLASH, otherwise BOTH. -/
def startSave (c : CmdRef) (p i : Nat) (demote : Bool) (s : State) : Except Err State :=
  let e := s.plank p i
  let go (ssd lba : Nat) (s : State) : State :=
    nvmeStart ssd lba 1 (.save (plankKey p i)) c (s.updPlank p i fun e =>
      { e with tier := .moving, dirty := false, ssd := ssd, lba := lba, move := some (e.tier, demote), wasDirty := e.dirty })
  if e.tier = .both then
    if (getD s.tier.ssds e.ssd {}).st = .ready then .ok (go e.ssd e.lba s) else .error (integrity 7 8 e.ssd)
  else match placeOnFlash s with
    | some (ssd, lba, s) => .ok (go ssd lba s)
    | none => .error ⟨.quota, 2⟩

/-- Starts reading a FLASH plank back: a frame is taken and the read is outstanding. Without a free frame it answers NO_PLANK. -/
def startLoad (c : CmdRef) (p i : Nat) (s : State) : Except Err State :=
  let e := s.plank p i
  if (getD s.tier.ssds e.ssd {}).st ≠ .ready then .error (integrity 7 8 e.ssd)
  else match takeFrame p i (fun fr e => { e with frame := fr, loading := true }) s with
    | some s => .ok (nvmeStart e.ssd e.lba 0 (.load (plankKey p i)) c s)
    | none => .error ⟨.noPlank, 0⟩

/-- Demotes one plank: a clean copy releases its frame at once; otherwise the flash write starts. Pinned planks are skipped by the caller. -/
def demotePlank (c : CmdRef) (p i : Nat) (s : State) : Except Err (State × Bool) :=
  let e := s.plank p i
  if e.tier = .both ∧ !e.dirty then .ok (s.updPlank p i ({ · with tier := .flash, frame := 0 }), true)
  else (startSave c p i true s).map (·, false)

/-- The planks of a range on which a TIER_MOVE operation acts (R379): 0 DEMOTE, 1 PROMOTE, 2 CLEAN, 3 DROP_COPY. -/
def moveFits (o : Nat) (e : Plank) : Bool :=
  match o with
  | 0 => (e.tier == .hbm || e.tier == .both) && !e.pinned
  | 1 => e.tier == .flash && !e.loading
  | 2 => e.tier == .hbm || (e.tier == .both && e.dirty)
  | _ => e.tier == .both

/-- Acts on one plank: answers the state and how many planks changed at once. -/
def moveOne (c : CmdRef) (p o i : Nat) (s : State) : Except Err (State × Nat) :=
  match o with
  | 0 => (demotePlank c p i s).map fun r => (r.1, b2n r.2)
  | 1 => (startLoad c p i s).map (·, 0)
  | 2 => (startSave c p i false s).map (·, 0)
  | _ => .ok (s.updPlank p i ({ · with tier := .hbm, dirty := false, ssd := 0, lba := 0 }), 1)

/-- Acts on planks in order, summing those changed at once. -/
def moveAll (c : CmdRef) (p o : Nat) : List Nat → Nat → State → Except Err (State × Nat)
  | [], n, s => .ok (s, n)
  | i :: r, n, s => do
    let (s, m) ← moveOne c p o i s
    moveAll c p o r (n + m) s

/-- A command that meets no free frame waits, unless NO_WAIT is set (R53). -/
def State.waitsForFrame (s : State) (c : CmdRef) (e : Err) : Bool := decide (e.st = .noPlank) && !((s.inflight c).any fun i => flagNoWait i.pkt)

/-- beginCmd for work that takes frames. -/
def beginFrames (c : CmdRef) (o : Nat) (f : Block → Nat → State → Except Err State) (s : State) : State :=
  match s.ready c o with
  | none => s
  | some i => match f i.pkt (s.cmdPart c) (s.updIn c ({ · with stage := .running })) with
    | .ok s' => noteTorn c (s.paramTorn (s.cmdPart c) i.pkt) s'
    | .error e => if s.waitsForFrame c e then s else failCmd c e s

/-- TIER_MOVE (R376, R379). It ends when every move it started has ended. -/
def execTierMove (c : CmdRef) (s : State) : Host.Outcome State Fault Refusal :=
  .next <| beginFrames c 0x0203 (fun k p s => do
    let r ← rangeOf k p s
    let o := op k 40 1 % 4
    let fit := r.filter fun i => moveFits o (s.plank p i)
    let hbms := fit.filter fun i => (s.plank p i).tier == .hbm
    if o = 0 ∨ o = 2 then flashQuota p hbms.length s
    if o = 1 then hbmQuota p fit.length s
    let (s, n) ← moveAll c p o fit 0 s
    .ok (if s.nvmeOpen c then s.updIn c ({ · with acc := n }) else endCmd c .ok n 0 s)) s

/-- The map entry of a plank whose flash write has completed (R379): a written plank keeps dirty, and its DEMOTE is cancelled. -/
def Plank.saved (e : Plank) : Plank :=
  match e.move with
  | some (_, true) =>
    if e.dirty then { e with tier := .both, move := none }
    else { e with tier := .flash, frame := 0, move := none }
  | some (_, false) => { e with tier := .both, move := none }
  | none => e

/-- The map entry of a plank whose flash write failed: its former tier, current in HBM (R379). -/
def Plank.unsaved (e : Plank) : Plank :=
  match e.move with
  | some (t, _) => { e with tier := t, dirty := t = .both && (e.dirty || e.wasDirty), move := none,
                            ssd := if t = .both then e.ssd else 0, lba := if t = .both then e.lba else 0 }
  | none => e

/-- Changes a plank map entry by its key. -/
def State.updKey (s : State) (k : Nat) (f : Plank → Plank) : State := s.onTier fun t => { t with planks := upd t.planks k {} f }

/-- A moved plank counts towards the command that moved it. -/
def countMove (c : CmdRef) (n : Nat) (s : State) : State := s.updIn c fun i => { i with acc := i.acc + n }

/-- The flash write of a plank completes: the copy holds its content and the map entry changes (R379). -/
def flashWriteDone (k : Nat) (c : CmdRef) (s : State) : State :=
  let e := getD s.tier.planks k {}
  if e.tier ≠ .moving then s
  else
    let cancelled := e.dirty && (match e.move with
      | some (_, d) => d
      | none => false)
    let s := flashPut (s.keySeal k) e.ssd e.lba (memRead s.hbm (e.frame * 65536) 65536) s
    let s := s.updKey k Plank.saved
    let s := if cancelled then s.onTier fun t => { t with cancelledDemotes := satAdd t.cancelledDemotes 1 } else s
    countMove c (b2n (decide ((getD s.tier.planks k {}).tier ≠ (match e.move with
      | some (t, _) => t
      | none => e.tier) ∨ (getD s.tier.planks k {}).dirty ≠ e.wasDirty))) s

/-- The flash read of a promoted plank completes: it is BOTH and clean (R379). -/
def flashReadDone (k : Nat) (c : CmdRef) (s : State) : State :=
  let e := getD s.tier.planks k {}
  if !e.loading then s
  else
    let s := fillFrame e.frame (s.flashGet (s.keySeal k) e.ssd e.lba 16) s
    countMove c 1 (s.updKey k ({ · with tier := .both, dirty := false, loading := false }))

/-- A TIER_MOVE ends when no move of its is outstanding. -/
def settleMove (c : CmdRef) (s : State) : State :=
  match s.running c with
  | some i => if opcode i.pkt = 0x0203 ∧ !s.nvmeOpen c then endCmd c .ok i.acc 0 s else s
  | none => s

/-- The scrubber's next plank: the next HBM-resident one in ascending (partition, plank), wrapping (R381). -/
def State.scrubNext (s : State) : Option (Nat × Plank) :=
  let res := s.tier.planks.filter fun e => e.2.tier.served
  (pick (fun (e : Nat × Plank) => match s.tier.scrubAt with
    | some k => decide (k < e.1)
    | none => true) res).or res.head?

/-- What the scrubber does at a plank (R381): it stores a digest, or compares it; a mismatch marks the plank torn and is reported. -/
def scrubPlank (k : Nat) (e : Plank) (s : State) : State :=
  let base := e.frame * 65536
  match firstSome (fun g => s.poisoned .hbm (base + 64 * g)) (List.range 1024) with
  | some err => uncorrectable (some (k / 2 ^ 26)) err.det (k % 2 ^ 26) s
  | none =>
    let d := BitVec.ofNat 64 (crc64 (memRead s.hbm base 65536))
    if !e.digestValid then s.updKey k ({ · with digest := d, digestValid := true })
    else if e.digest = d then s
    else
      let s := s.updKey k ({ · with torn := true })
      let s := s.onTier fun t => { t with digestMismatch := satAdd t.digestMismatch 1, tornMarked := if e.torn then t.tornMarked else satAdd t.tornMarked 1 }
      uncorrectable (some (k / 2 ^ 26)) (intDetail 0x0A 4 (k / 2 ^ 26)) (k % 2 ^ 26) s

/-- SCRUB_VISIT (R381): one plank every scrub_ns; 0 stops the scrubber. -/
def execScrubVisit (s : State) : Host.Outcome State Fault Refusal :=
  .next <|
    let n := fld s.scrubCfg 31 0
    if n = 0 ∨ s.clk - s.tier.scrubTime < n then s
    else match s.scrubNext with
      | none => s.onTier fun t => { t with scrubTime := s.clk }
      | some (k, e) => scrubPlank k e (s.onTier fun t => { t with scrubTime := s.clk, scrubAt := some k })

/-! ### Bays (R371) -/

/-- Bays owned by a partition. -/
def State.baysOwned (s : State) (p : Nat) : Nat := ((List.range 32).filter fun b => bit (s.bayCfg b) 0 && fld (s.bayCfg b) 10 8 == p).length

/-- Zeroes a bay and its Loft plank entries. -/
def zeroBay (b : Nat) (s : State) : State :=
  closeRange .loft (b * 2 ^ 18) (2 ^ 18) ({ s with loft := memZero s.loft (b * 2 ^ 24) (2 ^ 24) }.onTier fun t =>
    { t with loftPlanks := t.loftPlanks.filter fun e => e.1 / 256 != b, loftPoison := t.loftPoison.filter fun g => g / 2 ^ 18 != b })

/-- The granted commands of the owner of a SCRATCH bay have lost the part of their Loft space that it was (R371). -/
def loseBay (b : Nat) (s : State) : State :=
  let c := s.bayCfg b
  let p := fld c 10 8
  if bit c 0 && bit c 1 then
    s.mapQueues fun q x => if s.partOfQueue q = some p then
      { x with inflight := x.inflight.map fun i => { i with gone := indexOf b (s.scratchBays p) :: i.gone } } else x
  else s

/-- A write of LFT_BAY_CFG (R371, R413, R416): a change of owner, mode or valid zeroes the bay and sets busy.
The bay is written back and zeroed at once; what accesses it waits until busy clears (log 10). -/
def writeBayCfg (fn b : Nat) (v : W64) (s : State) : State :=
  let off := 0x03000000 + 8 * b
  let old := s.bayCfg b
  let new := setFld (BitVec.ofNat 64 (fld v 10 0)) 7 2 0
  let p := fld v 10 8
  let gains := bit new 0 && !(bit old 0 && fld old 10 8 == p)
  if fn ≠ 0 then logWrite fn 5 off s
  else if gains && decide (s.baysOwned p + 1 > fld (s.parQuota p) 5 0) then logWrite fn 7 off s
  else if new = old then s
  else (zeroBay b ((loseBay b s).setReg off new)).onTier fun t => { t with bayBusy := put t.bayBusy b s.clk }

/-- LFT_BAY_CFG_WRITE (R371). -/
def execLftBayCfgWrite (fn : Fn) (b : BayIx) (v : BitVec 64) (s : State) : Host.Outcome State Fault Refusal :=
  .next (barWrite fn (0x03000000 + 8 * b.val) (writeBayCfg fn b v) s)

/-- BAY_RECONFIG_DONE (R371): busy clears. -/
def execBayReconfigDone (b : BayIx) (s : State) : Host.Outcome State Fault Refusal :=
  .next (s.onTier fun t => { t with bayBusy := del t.bayBusy b })

end Sys2Proof.Machine
end

