-- ==== Sys2Proof/Machine/Yard.lean ====
section
/-! DEFINITION. The Yard: pools of buffers, handles and state words, the free ring and its cache, waiting requests and engine draws (R397 to R410). -/

namespace Sys2Proof.Machine

/-! ### Pools and their metadata region (R398) -/

/-- A valid pool. -/
def State.pool (s : State) (i : Nat) : Option Pool := find? s.yrd.pools i
/-- Changes a pool that is valid. -/
def updPool (i : Nat) (f : Pool → Pool) (s : State) : State :=
  s.onYrd fun y => { y with pools := y.pools.map fun e => if e.1 = i then (e.1, f e.2) else e }

/-- log2 of the ring's entries. -/
def ringLog (count : Nat) : Nat := max 4 (if count ≤ 1 then 0 else Nat.log2 (count - 1) + 1)
/-- Bytes of the metadata region. -/
def metaBytes (count : Nat) : Nat := 4 * 2 ^ ringLog count + 8 * count
/-- Free buffers: in the cache and in the ring. -/
def Pool.free (x : Pool) : Nat := x.cache.length + (x.tail - x.head)
/-- Where a ring entry lies in the metadata region. -/
def Pool.ringAt (x : Pool) (n : Nat) : Nat := 4 * (n % 2 ^ ringLog x.count)
/-- Where the state word of a buffer lies in the metadata region. -/
def Pool.wordAt (x : Pool) (b : Nat) : Nat := 4 * 2 ^ ringLog x.count + 8 * b

/-- Removes a buffer from its pool and counts it as lost (R405). -/
def loseBuffer (i : Nat) (b : Option Nat) (s : State) : State :=
  (updPool i (fun x => { x with gone := x.gone ++ b.toList }) s).onYrd fun y => { y with lost := satAdd y.lost 1 }

/-- A pool enters FAULT: its waiting allocations complete INTEGRITY (R398, R559), and waiting draws leave it. -/
def faultPool (i : Nat) (s : State) : State :=
  match s.pool i with
  | none => s
  | some x =>
    let cs := (x.waiters.filter fun w => w.use == 0).map (·.cmd)
    cs.foldl (fun s c => failCmd c (integrity 0x0B 9 i) s) (updPool i (fun x => { x with faulty := true, waiters := [] }) s)

/-- A read of the metadata region: the bytes, or a state in which the pool is in FAULT or the error has been reported. -/
def metaRead (i : Nat) (x : Pool) (off n : Nat) (s : State) : Except State Nat :=
  match s.read x.owner true (x.meta_ + off) n true with
  | .ok bs => .ok (ofBytes bs)
  | .error e => .error (if e.st = .integrity then uncorrectable (some x.owner) e.det 0 s else faultPool i s)

/-- A write of the metadata region; one that meets a plank not served puts the pool in FAULT. -/
def metaWrite (i : Nat) (x : Pool) (off n v : Nat) (s : State) : State :=
  match s.writeFor x.owner true (x.meta_ + off) (toBytes n v) with
  | (s, _, none) => s
  | (s, _, some _) => faultPool i s

/-- The pool is valid and not in FAULT. -/
def State.poolReady (s : State) (i : Nat) : Bool := match s.pool i with
  | some x => !x.faulty
  | none => false

/-! ### The free list (R405) -/

/-- Moves indices from the ring head beneath the cached ones, up to n of them. -/
def refillLoop (i : Nat) : (n : Nat) → State → State
  | 0, s => s
  | n + 1, s =>
    match s.pool i with
    | none => s
    | some x =>
      if x.faulty ∨ x.head = x.tail then s
      else
        let s := updPool i (fun x => { x with head := x.head + 1 }) s
        match metaRead i x (x.ringAt x.head) 4 s with
        | .ok b => refillLoop i n (if x.gone.contains b then s else updPool i (fun x => { x with cache := x.cache ++ [b] }) s)
        | .error s' => if s'.poolReady i then refillLoop i n (loseBuffer i none s') else s'

/-- The cache is refilled when it holds fewer than 64 indices. -/
def refill (i : Nat) (s : State) : State :=
  match s.pool i with
  | some x => if x.cache.length < 64 then refillLoop i 64 s else s
  | none => s

/-- A released index returns to the cache; a full cache first moves its 64 oldest entries to the ring tail. -/
def pushFree (i b : Nat) (s : State) : State :=
  match s.pool i with
  | none => s
  | some x =>
    if x.gone.contains b then s
    else
      let s := if x.cache.length < 512 then s
        else
          let old := (x.cache.drop (x.cache.length - 64)).reverse
          old.foldl (fun s j => match s.pool i with
            | some y => updPool i (fun y => { y with tail := y.tail + 1 }) (metaWrite i y (y.ringAt y.tail) 4 j s)
            | none => s) (updPool i (fun x => { x with cache := x.cache.take (x.cache.length - 64) }) s)
      updPool i (fun x => { x with cache := b :: x.cache }) s

/-! ### Handles and state words (R401, R402) -/

/-- A handle. -/
def handleOf (serial pool b : Nat) : Nat := serial * 2 ^ 26 + pool * 2 ^ 20 + b

/-- A state word. -/
def stateWord (allocated : Bool) (serial refcount : Nat) : Nat := b2n allocated + 2 * serial + refcount * 2 ^ 32

/-- Takes one free buffer: its handle, if there is one. A buffer whose state word cannot be read is lost and the next is tried. -/
def takeOne (i : Nat) : (fuel : Nat) → State → Option Nat × State
  | 0, s => (none, s)
  | fuel + 1, s =>
    let s := match s.pool i with
      | some x => if x.cache.isEmpty then refill i s else s
      | none => s
    match s.pool i with
    | none => (none, s)
    | some x =>
      match x.faulty, x.cache with
      | false, b :: r =>
        let s := updPool i (fun x => { x with cache := r }) s
        match metaRead i x (x.wordAt b) 8 s with
        | .error s' => if s'.poolReady i then takeOne i fuel (loseBuffer i (some b) s') else (none, s')
        | .ok w =>
          let serial := (w / 2 % 64 + 1) % 64
          let s := metaWrite i x (x.wordAt b) 8 (stateWord true serial 1) s
          if s.poolReady i then (some (handleOf serial i b), refill i s) else (none, s)
      | _, _ => (none, s)

/-- Gives back a buffer that was taken in vain. -/
def giveBack (i h : Nat) (s : State) : State :=
  match s.pool i with
  | some x => pushFree i (h % 2 ^ 20) (metaWrite i x (x.wordAt (h % 2 ^ 20)) 8 (stateWord false (h / 2 ^ 26) 0) s)
  | none => s

/-- Takes n buffers in order, or none (R409). -/
def takeAll (i : Nat) : (n : Nat) → List Nat → State → Option (List Nat) × State
  | 0, hs, s => (some hs, s)
  | n + 1, hs, s =>
    match takeOne i ((s.pool i).map (·.count) |>.getD 0) s with
    | (some h, s) => takeAll i n (hs ++ [h]) s
    | (none, s) => (none, hs.foldl (fun s h => giveBack i h s) s)

/-! ### Waiting requests (R407) -/

/-- The request served next: LC before BE, in order of arrival. -/
def Pool.next (x : Pool) : Option YardWait := (pick (·.lc) x.waiters).or x.waiters.head?

/-- An allocation has its buffers: the handles are written, and the command ends with the first of them (R409). -/
def finishAlloc (c : CmdRef) (hs : List Nat) (s : State) : State :=
  match s.inflight c with
  | none => s
  | some i =>
    match copyOut c (s.cmdPart c) (addr378 (op i.pkt 40 8)) 0 (hs.flatMap (toBytes 4)) 40 s with
    | (s, _, some e) => failCmd c e s
    | (s, _, none) => endCmd c .ok (hs.headD 0) 0 s

/-- Serves the waiting requests of a pool in strict order, as far as free buffers go. -/
def servePool (i : Nat) : (fuel : Nat) → State → State
  | 0, s => s
  | fuel + 1, s =>
    match s.pool i with
    | none => s
    | some x =>
      match x.next with
      | none => s
      | some w =>
        if x.faulty ∨ x.free < w.n then s
        else match takeAll i w.n [] s with
          | (none, s) => s
          | (some hs, s) =>
            let s := updPool i (fun x => { x with waiters := x.waiters.erase w }) s
            servePool i fuel (if w.use = 0 then finishAlloc w.cmd hs s
              else s.onYrd fun y => { y with served := y.served ++ hs.map (w, ·) })

/-- Serves the waiting requests of a pool. -/
def serve (i : Nat) (s : State) : State :=
  servePool i (((s.pool i).map (·.waiters.length)).getD 0 + 1) s

/-! ### Retain and release (R403, R404) -/

/-- Logs the first refusal (YRD_DF_LOG). -/
def logRefusal (kind : Bool) (src h : Nat) (s : State) : State :=
  s.onYrd fun y => if y.logValid then y else { y with logValid := true, log := some (kind, src, BitVec.ofNat 32 h) }

/-- Retains or releases a handle by δ on behalf of a source: the refcount after, or the refusal. -/
def adjust (retain : Bool) (h δ src : Nat) (s : State) : Except Err Nat × State :=
  let i := h / 2 ^ 20 % 64
  let b := h % 2 ^ 20
  match s.pool i with
  | none => (.error (accessErr 0xF0), s.onYrd fun y => { y with stale := satAdd y.stale 1 })
  | some x =>
    if x.faulty then (.error (integrity 0x0B 9 i), if retain then s else loseBuffer i none s)
    else
      let refuse := (.error (accessErr 0xF1), logRefusal false src h (s.onYrd fun y => { y with doubleFree := satAdd y.doubleFree 1 }))
      if b ≥ x.count ∨ x.gone.contains b then refuse
      else match metaRead i x (x.wordAt b) 8 s with
        | .error s' => (.error (integrity 0x0B (if s'.poolReady i then 1 else 9) i), loseBuffer i (if s'.poolReady i then some b else none) s')
        | .ok w =>
          let n := w / 2 ^ 32 % 2 ^ 16
          if w % 2 = 0 ∨ w / 2 % 64 ≠ h / 2 ^ 26 then refuse
          else if (retain ∧ n + δ > 65535) ∨ (!retain ∧ δ > n) then
            (.error (accessErr 0xF2), logRefusal true src h (s.onYrd fun y => { y with refErr := satAdd y.refErr 1 }))
          else
            let m := if retain then n + δ else n - δ
            let s := metaWrite i x (x.wordAt b) 8 (stateWord (m != 0) (w / 2 % 64) m) s
            (.ok m, if m = 0 then serve i (pushFree i b s) else s)

/-- A YARD_RETAIN or YARD_RELEASE comes after another that reached the same buffer in the same cycle and has not been applied: retains come before releases,
and within each kind queues by index (R404). Commands granted in one nanosecond reach the Yard in one cycle (log 139). -/
def State.adjustWaits (s : State) (c : CmdRef) (i : InFlight) : Bool :=
  let release (x : InFlight) : Bool := opcode x.pkt == 0x0784
  let place (q : Nat) (x : InFlight) : Nat := b2n (release x) * 1024 + q
  s.cmd.wq.any fun e => e.2.inflight.any fun x =>
    x.stage == .granted && (opcode x.pkt == 0x0783 || release x) && x.since == i.since && op x.pkt 32 4 % 2 ^ 26 == op i.pkt 32 4 % 2 ^ 26 &&
    (decide (place e.1 x < place c.q i) || (place e.1 x == place c.q i && decide (x.order < i.order)))

/-- YARD_RETAIN and YARD_RELEASE. A pool outside the partition's range is ACCESS (R397). -/
def adjustCmd (retain : Bool) (c : CmdRef) (o : Nat) (s : State) : State :=
  match s.ready c o with
  | none => s
  | some i =>
    let h := op i.pkt 32 4
    if s.adjustWaits c i then s
    else if !s.inRange (s.cmdPart c) 11 (h / 2 ^ 20 % 64) then failCmd c (accessErr 32) s
    else match adjust retain h (op i.pkt 36 2) c.q s with
      | (.ok n, s) => endCmd c .ok n 0 s
      | (.error e, s) => failCmd c e s

/-- YARD_RETAIN (R403). -/
def execYardRetain (c : CmdRef) (s : State) : Host.Outcome State Fault Refusal := .next (adjustCmd true c 0x0783 s)
/-- YARD_RELEASE (R403). -/
def execYardRelease (c : CmdRef) (s : State) : Host.Outcome State Fault Refusal := .next (adjustCmd false c 0x0784 s)

/-! ### Commands on pools (R397 to R400, R409) -/

/-- Reserved fields of a pool record: addresses have the form of R347. -/
def poolRsv : List Rsv := [rbits 0 15 7, rbits 2 7 5, rb 3 1, rbits 4 31 21, rbits 8 2 1, rbits 16 2 1, rb 24 40]

/-- The checks of R399 on a record: each with the byte of the field at fault. -/
def poolVals (bs : List Byte) : List (Nat × Bool) :=
  let lg := le bs 2 1 % 32
  let n := le bs 4 4 % 2 ^ 21
  let b := addr347 (le bs 8 8)
  let m := addr347 (le bs 16 8)
  [(0, decide (le bs 0 1 / 16 % 8 > 5)), (2, decide (lg < 8 ∨ lg > 16)), (4, n == 0 || decide (n > 2 ^ 20)),
   (8, b.a % 2 ^ lg != 0 || (b.tiered && m.tiered && decide (b.a < m.a + metaBytes n ∧ m.a < b.a + n * 2 ^ lg))),
   (16, !m.tiered || m.a % 65536 != 0)]

/-- The bytes of a new metadata region: the ring of all indices in ascending order, then zero state words. -/
def freshMeta (count : Nat) : List Byte :=
  (List.range count).flatMap (toBytes 4) ++ List.replicate (metaBytes count - 4 * count) 0

/-- The end of an area lies within the partition's space (R397). -/
def State.inSpace (s : State) (p : Nat) (tiered : Bool) (a n : Nat) : Bool :=
  decide (a + n ≤ if tiered then s.mapPlanks p * 65536 else (s.scratchBays p).length * 2 ^ 24)

/-- YARD_POOL_CREATE (R397 to R399). An area outside the partition's space is ACCESS. -/
def execYardPoolCreate (c : CmdRef) (s : State) : Host.Outcome State Fault Refusal :=
  .next (wholeCmd c 0x0780 (fun k p s => do
    let i := op k 32 1 % 64
    guardE (!s.inRange p 11 i) (accessErr 32)
    guardE (s.pool i).isSome (badRsv 0 32)
    let bs ← cmdBlock c p (addr154 (op k 40 8)) 64 0x18 0 poolRsv poolVals s
    let n := le bs 4 4 % 2 ^ 21
    let b := addr347 (le bs 8 8)
    let m := (addr347 (le bs 16 8)).a
    let lg := le bs 2 1 % 32
    guardE (!s.inSpace p b.tiered b.a (n * 2 ^ lg)) (accessErr 0xE1)
    guardE (!s.inSpace p true m (metaBytes n)) (accessErr 0xE1)
    let x : Pool := { use := le bs 0 1 / 16 % 8, log2 := lg, count := n, tiered := b.tiered, base := b.a, meta_ := m, owner := p,
                      cache := List.range (min 512 n), head := min 512 n, tail := n }
    match s.writeFor p true m (freshMeta n) with
    | (_, _, some e) => .error e
    | (s, _, none) => .ok { s := s.onYrd fun y => { y with pools := put y.pools i x } }) s)

/-- Invalidates a pool: what waits in it ends with ACCESS, as an operation on an invalid pool does. -/
def invalidatePool (i : Nat) (s : State) : State :=
  match s.pool i with
  | none => s
  | some x => ((x.waiters.filter fun w => w.use == 0).map (·.cmd)).foldl (fun s c => failCmd c (accessErr 0xF0) s)
      (s.onYrd fun y => { y with pools := del y.pools i, served := y.served.filter fun e => e.2 / 2 ^ 20 % 64 != i })

/-- Some buffer of a pool is allocated. A state word that cannot be read is passed over. -/
def State.anyAllocated (s : State) (x : Pool) : Bool :=
  (List.range x.count).any fun b => !x.gone.contains b && match s.read x.owner true (x.meta_ + x.wordAt b) 8 true with
    | .ok bs => ofBytes bs % 2 == 1
    | .error _ => false

/-- A command that names a pool of its partition's range that is not valid is counted (R400, R403). -/
def countInvalid (c : CmdRef) (o : Nat) (s : State) : State :=
  match s.ready c o with
  | none => s
  | some i =>
    let j := op i.pkt 32 1 % 64
    if s.inRange (s.cmdPart c) 11 j && (s.pool j).isNone then s.onYrd fun y => { y with stale := satAdd y.stale 1 } else s

/-- YARD_POOL_DESTROY (R400). -/
def execYardPoolDestroy (c : CmdRef) (s : State) : Host.Outcome State Fault Refusal :=
  .next (wholeCmd c 0x0781 (fun k p s => do
    let i := op k 32 1 % 64
    guardE (!s.inRange p 11 i) (accessErr 32)
    match s.pool i with
    | none => .error (accessErr 0xF0)
    | some x =>
      guardE (s.anyAllocated x) (accessErr 0xF3)
      .ok { s := invalidatePool i s }) (countInvalid c 0x0781 s))

/-- YARD_ALLOC (R407, R409). -/
def execYardAlloc (c : CmdRef) (s : State) : Host.Outcome State Fault Refusal :=
  .next <| beginCmd c 0x0782 (fun k p s => do
    let i := op k 32 1 % 64
    guardE (!s.inRange p 11 i) (accessErr 32)
    match s.pool i with
    | none => .error (accessErr 0xF0)
    | some x =>
      guardE (x.use != 0) (accessErr 0xF0)
      guardE x.faulty (integrity 0x0B 9 i)
      let w : YardWait := { use := 0, cmd := c, lc := flagLc k, n := op k 33 1 }
      let s := serve i (updPool i (fun x => { x with waiters := x.waiters ++ [w] }) s)
      let still := match s.pool i with
        | some x => x.waiters.contains w
        | none => false
      if still && flagNoWait k then .ok (failCmd c ⟨.noPlank, 0⟩ (serve i (updPool i (fun x => { x with waiters := x.waiters.erase w }) s)))
      else .ok s) (countInvalid c 0x0782 s)

/-! ### Engine draws (R410) -/

/-- The pools of a use code that fit a need of a partition, the smallest first. -/
def State.fitting (s : State) (p use need : Nat) : List Nat :=
  let ok := s.yrd.pools.filter fun e => e.2.owner == p && e.2.use == use && !e.2.faulty && decide (need ≤ 2 ^ e.2.log2) && s.inRange p 11 e.1
  (List.range 17).flatMap fun lg => (ok.filter fun e => e.2.log2 == lg).map (·.1)

/-- An engine takes one buffer from the smallest fitting pool that has one free and no request waiting. -/
def drawFrom : List Nat → State → Option Nat × State
  | [], s => (none, s)
  | i :: r, s =>
    match s.pool i with
    | some x =>
      if !x.waiters.isEmpty ∨ x.free = 0 then drawFrom r s
      else match takeAll i 1 [] s with
        | (some (h :: _), s) => (some h, s)
        | (_, s) => drawFrom r s
    | none => drawFrom r s

/-- An engine draws a buffer for work of a partition, if there is one (R410). -/
def engineDraw (p use need : Nat) (s : State) : Option Nat × State := drawFrom (s.fitting p use need) s

/-- An engine draws a buffer, or joins the waiting queue of the smallest fitting pool, once; it takes up the handle it was served there (R407, R410). -/
def engineWait (w : YardWait) (p need : Nat) (s : State) : Option Nat × State :=
  match pick (fun e => e.1 == w) s.yrd.served with
  | some e => (some e.2, s.onYrd fun y => { y with served := y.served.erase e })
  | none =>
    if s.yrd.pools.any fun e => e.2.waiters.contains w then (none, s)
    else match engineDraw p w.use need s with
      | (some h, s) => (some h, s)
      | (none, s) => match s.fitting p w.use need with
        | i :: _ => (none, updPool i (fun x => { x with waiters := x.waiters ++ [w] }) s)
        | [] => (none, s)

/-- An engine of a use code releases a buffer. -/
def engineRelease (use h : Nat) (s : State) : State := (adjust false h 1 (0x1000 + use) s).2

/-- An engine of a use code retains a buffer. -/
def engineRetain (use h : Nat) (s : State) : State := (adjust true h 1 (0x1000 + use) s).2

/-- The draws of a command that still wait, or were served and not taken up, end with it. -/
def dropDraws (c : CmdRef) (s : State) : State :=
  let mine := s.yrd.served.filter fun e => e.1.cmd == c
  let s := s.onYrd fun y =>
    { y with served := y.served.filter fun e => e.1.cmd != c
             pools := y.pools.map fun e => (e.1, { e.2 with waiters := e.2.waiters.filter fun w => w.cmd != c }) }
  let s := mine.foldl (fun s e => engineRelease e.1.use e.2 s) s
  (s.yrd.pools.map (·.1)).foldl (fun s i => serve i s) s

end Sys2Proof.Machine
end

