-- ==== Sys2Proof/Machine/Purlin.lean ====
section
/-! DEFINITION. The Purlin at work: contributions, messages, results, credits, relays and the end of a collective (R231 to R254). -/

namespace Sys2Proof.Machine

/-! ### Collectives at work -/

/-- The collective of a command. -/
def State.coll (s : State) (c : CmdRef) : Option Coll := pick (fun x => x.cmd == c) s.prl.colls
/-- The collective that a message's group tag and seq name. -/
def State.collOf (s : State) (tag : W32) (seq : W16) : Option Coll := pick (fun (x : Coll) => x.g.tag == tag && x.seq == seq) s.prl.colls
/-- Changes the collective of a command. -/
def updColl (c : CmdRef) (f : Coll → Coll) (s : State) : State :=
  s.onPrl fun p => { p with colls := p.colls.map fun x => if x.cmd = c then f x else x }

/-- A collective leaves with the given groups still to be relayed: its other Yard buffers are released and its waiting draws end. -/
def leaveColl (c : CmdRef) (keep : Coll → List Relay) (s : State) : State :=
  match s.coll c with
  | none => s
  | some x =>
    let rs := keep x
    let s := s.onPrl fun p => { p with colls := p.colls.filter (fun y => y.cmd != c), relays := p.relays ++ rs }
    dropDraws c ((x.bufs.filter fun b => !rs.any fun r => r.bufs.contains b.2.2).foldl (fun s b => engineRelease b.1 b.2.2 s) s)

/-- A collective leaves, and what it staged as a relay is dropped. -/
def dropColl (c : CmdRef) (s : State) : State :=
  let s := match s.coll c with
    | none => s
    | some x => s.onPrl fun p => { p with staged := p.staged.filter fun k => !(k.ty == 0x20 && k.f 36 4 == x.g.tag.toNat && k.f 34 2 == x.seq.toNat) }
  leaveColl c (fun _ => []) s

/-- A collective fails. -/
def failColl (c : CmdRef) (e : Err) (s : State) : State := failCmd c e (dropColl c s)

/-! ### Contributions (R235, R236) -/

/-- A block of w-bit elements with its scale code; none when the code is invalid (R69). -/
def decodeBlk (w n : Nat) (bs : List Byte) (code : Nat) : Option Blk :=
  if w = 48 then
    if bad16 code then none
    else some (match scale16 code with
      | none => Blk.zero
      | some e => Blk.keep n ⟨unpack 48 32 bs, some e⟩)
  else some ((readBlk w bs code).keep n)

/-- Elements of block j that lie within the row (R66). -/
def Coll.inRow (x : Coll) (j : Nat) : Nat := min 32 (x.count - 32 * j)

/-- An invalid exponent code in a collective source (R69, R559). -/
def badSource : Err := integrity 0x03 7 0

/-- Element and scale bytes of n blocks of the source from block j on. -/
def sourceBytes (x : Coll) (j n : Nat) (s : State) : Except Err (List Byte × List Byte) := do
  let w := x.inBits
  let ea := x.addr 40
  let sa := x.addr 48
  let el ← cmdRead x.cmd x.part ⟨ea.tiered, ea.a + j * blockBytesOf w⟩ (n * blockBytesOf w) s
  let sc ← cmdRead x.cmd x.part ⟨sa.tiered, sa.a + j * scaleBytesOf w⟩ (n * scaleBytesOf w) s
  .ok (el, sc)

/-- Blocks out of element and scale bytes. -/
def blocksOf (x : Coll) (w j n : Nat) (el sc : List Byte) : Except Err (List Blk) :=
  (List.range n).mapM fun i =>
    match decodeBlk w (x.inRow (j + i)) (slice el (i * blockBytesOf w) (blockBytesOf w)) (le sc (i * scaleBytesOf w) (scaleBytesOf w)) with
    | some b => .ok b
    | none => .error badSource

/-- This member's own block j. -/
def ownBlock (x : Coll) (j : Nat) (s : State) : Except Err Blk := do
  let (el, sc) ← sourceBytes x j 1 s
  let bs ← blocksOf x x.inBits j 1 el sc
  .ok (bs.headD Blk.zero)

/-- ⌈log2 n⌉. -/
def clog2 (n : Nat) : Nat := if n ≤ 1 then 0 else Nat.log2 (n - 1) + 1

/-- The largest exponent known for block j, this member's own included. -/
def Coll.eMax (x : Coll) (own : Blk) (j : Nat) : Option Int := maxExp (own.e :: getD x.exps j [])

/-- The agreed exponent of block j; none when no member contributes (R235). -/
def Coll.eC (x : Coll) (own : Blk) (j : Nat) : Option Int :=
  if !x.auto then some (signed 10 (x.f 22 2))
  else
    let h : Int := 48 - (x.inBits : Int) - (if x.isMax then 0 else (clog2 x.n : Int))
    (x.eMax own j).map fun e => max (-1023) (min 1023 (e - h))

/-- A block aligned to an exponent, and whether an element clamped (R236). A zero block contributes nothing. -/
def alignBlk (b : Blk) (ec : Int) : Terms × Bool :=
  match b.e with
  | none => (none, false)
  | some e =>
    let t := b.q.map fun q => align q e ec
    (some (t.map (·.1)), t.any (·.2))

/-- Two contributions together (R236): sums in 64 bits; under MAX a member without contribution counts as 0 beside one with. -/
def joinTerms (isMax : Bool) (a b : Terms) : Terms :=
  match a, b with
  | none, none => none
  | some u, none => some (if isMax then u.map (max 0) else u)
  | none, some v => some (if isMax then v.map (max 0) else v)
  | some u, some v => some (List.zipWith (fun p q => if isMax then max p q else wrap64 (p + q)) u v)

/-- The terms of block j that this member sends or ends with in a stage, at exponent ec, and whether an alignment clamped: the cube's sum where the switch has
given it, else its own block and the blocks and sums received in the reduce stages; and the ring's sum (R240, R245, R246). For C_RS the switch's sum does not count. -/
def Coll.termsAt (x : Coll) (st : Nat) (own : Blk) (j : Nat) (ec : Int) : Terms × Bool :=
  let got := getD x.terms j []
  let from_ (sts : List Nat) : List Terms := (got.filter fun t => sts.contains t.1).map (·.2)
  let base : Terms × Bool :=
    match (from_ (if st = stCrs then [] else [stSw])).head? with
    | some t => (t, false)
    | none =>
      let o := alignBlk own ec
      let rs := (getD x.raw j []).map fun r => alignBlk ⟨r.2.1, r.2.2⟩ ec
      ((rs.map (·.1) ++ from_ [stBrs, stCrs, stFlat]).foldl (joinTerms x.isMax) o.1, o.2 || rs.any (·.2))
  ((from_ [stHrs]).foldl (joinTerms x.isMax) base.1, base.2)

/-- The wire form of a contribution (log 54): none is written as -2^63 in every element. -/
def encodeTerms (t : Terms) : List Byte := (t.getD (List.replicate 32 (-2 ^ 63))).flatMap fun v => toBytes 8 (bitsOf 64 v)

/-- A contribution from its wire form. -/
def decodeTerms (bs : List Byte) : Terms :=
  let v := unpack 64 32 bs
  if v.all (· == -2 ^ 63) then none else some v

/-! ### Building and sending messages (R240 to R245, R250, R251) -/

/-- Type header of a message (Table Purlin-5). -/
def prlHeader (s : State) (tag : W32) (seq : W16) (kind stage : Nat) (last : Bool) (off n fin : Nat) : List (Nat × Nat × Nat) :=
  [(32, 1, 1 + 16 * kind), (33, 1, b2n last + 2 * stage), (34, 2, seq.toNat), (36, 4, tag.toNat), (40, 4, s.selfId), (44, 2, s.flt.epoch.toNat),
   (48, 5, off), (56, 4, n), (60, 4, fin)]

/-- The device to which data for rank b go in a stage: the relay in its cube in an all-to-all stage of a regular group, else b itself (R250). -/
def Coll.nextHop (x : Coll) (st b : Nat) : Nat :=
  let d := x.g.dev b
  let me := x.g.dev x.me
  if st = stA2a ∧ x.g.regular ∧ d / 64 ≠ me / 64 then d / 64 * 64 + me % 64 else d

/-- A message that this member sends carries results. -/
def Coll.outMsg (x : Coll) (m : PrlMsg) : Bool := x.gathersAt m.stage x.me m.lo

/-- Offset of a message. -/
def Coll.offsetOf (x : Coll) (m : PrlMsg) : Nat :=
  (m.lo - x.stageBase m.stage x.me) * x.unitBytes (x.outMsg m) m.kind + x.flatShift m.stage m.kind (x.outMsg m)

/-- The contribution or sum of block j in a PARTIAL message, and whether an alignment clamped; none where no member known here contributes. The adders' copies are
compared (R238). -/
def partialTerms (x : Coll) (st j : Nat) (s : State) : Except Err (Terms × Bool) := do
  let b ← ownBlock x j s
  match x.eC b j with
  | none => .ok (none, false)
  | some ec =>
    let t := if st = stSw then alignBlk b ec else x.termsAt st b j ec
    guardE (s.prl.upset.sum != 0 && t.1.isSome) (integrity 0x03 3 0)
    .ok t

/-- Elements and scales as a DATA payload, each padded to whole granules. -/
def dataPayload (el sc : List Byte) : List Byte := slice el 0 (toGranules el.length) ++ slice sc 0 (toGranules sc.length)

/-- The range of memory that a message of a byte operation carries. -/
def Coll.byteRange (x : Coll) (m : PrlMsg) : Addr × Nat :=
  let a := if x.isA2a then x.addr 40 else if x.isBcast && x.me == x.root then x.addr 40 else x.addr 56
  let off := if x.isV then (x.tables.1.getD m.peer (0, 0)).1 else if x.isA2a then m.peer * x.count else 0
  (⟨a.tiered, a.a + off + 64 * m.lo⟩, 64 * m.n)

/-- Element and scale ranges of n source blocks of a reduction from block j on. -/
def Coll.sourceRanges (x : Coll) (j n : Nat) : List (Addr × Nat) :=
  let one (a : Addr) (w : Nat) : Addr × Nat := (⟨a.tiered, a.a + j * w⟩, n * w)
  [one (x.addr 40) (blockBytesOf x.inBits), one (x.addr 48) (scaleBytesOf x.inBits)]

/-- The memory that a message reads as it is built (R388). -/
def Coll.msgReads (x : Coll) (m : PrlMsg) : List (Addr × Nat) :=
  if !x.reduces then [x.byteRange m] else if m.kind ≠ kExp ∧ m.kind ≠ kPartial ∧ x.outMsg m then [] else x.sourceRanges m.lo m.n

/-- The payload of a message that this member sends, and whether an alignment clamped (R238). -/
def payloadOf (x : Coll) (m : PrlMsg) (s : State) : Except Err (List Byte × Bool) :=
  let js := (List.range m.n).map (m.lo + ·)
  if !x.reduces then (cmdRead x.cmd x.part (x.byteRange m).1 (x.byteRange m).2 s).map fun bs => (bs, false)
  else if m.kind = kExp then do
    let es ← js.mapM fun j => (ownBlock x j s).map fun b => x.eMax b j
    .ok (es.flatMap fun e => toBytes 2 (scale16Code e), false)
  else if m.kind = kPartial then do
    let ts ← js.mapM fun j => partialTerms x m.stage j s
    .ok (ts.flatMap fun t => encodeTerms t.1, ts.any (·.2))
  else if x.outMsg m then
    let r := js.map fun j => getD x.res j ([], [])
    .ok (dataPayload (r.flatMap (·.1)) (r.flatMap (·.2)), false)
  else do
    let (el, sc) ← sourceBytes x m.lo m.n s
    let _ ← blocksOf x x.inBits m.lo m.n el sc
    .ok (dataPayload el sc, false)

/-- Counts granules sent. -/
def countSent (st n : Nat) (s : State) : State :=
  s.onPrl fun p => if st = stSw then { p with switchGran := satAdd p.switchGran (ceilDiv n 64) } else { p with directGran := satAdd p.directGran (ceilDiv n 64) }

/-- Sends a message with its payload: through a cube plane to the switch (R244), with the count of the cube's contributing members beside the destination in its
last header word (R245, log 55), or to a member. -/
def transmit (x : Coll) (m : PrlMsg) (bs : List Byte) (s : State) : State :=
  let last := ((x.parts m.stage).flatMap fun p => x.allMsgs m.stage p x.me m.peer m.peer).getLast? == some m
  let s := countSent m.stage bs.length s
  let k (dest fin : Nat) : Packet :=
    mkPacket s.selfId dest 0x20 3 (s.cmdLc x.cmd) false (s.parKey x.part) 0
      (prlHeader s x.g.tag x.seq m.kind m.stage last (x.offsetOf m) bs.length fin) bs
  if m.stage = stSw then
    match s.planePort (m.lo / max 1 x.swBlocks % 8) with
    | some f =>
      let peer := (s.port f).peerId.toNat
      sendOnPort (some x.part) f (k peer (peer % 2 ^ 20 + (x.g.cubeSet x.me).length * 2 ^ 20)) s
    | none => s
  else sendPacket (some x.part) (k (x.nextHop m.stage m.peer) (if m.kind = kExp then 0 else x.g.dev m.peer)) s

/-- Sends a CTRL message of a collective to a device. -/
def sendPrlCtrl (tag : W32) (seq : W16) (kind stage off dest fin : Nat) (last : Bool) (s : State) : State :=
  sendCtrl (mkPacket s.selfId dest 0x20 0 false false 0 0 (prlHeader s tag seq kind stage last off 0 fin) []) s

/-- A POST is held from a rank for a part of a stage (R242). -/
def Coll.holds (x : Coll) (st part b : Nat) : Bool := x.posts.any fun p => p.1 == st && p.2.1 == part && p.2.2.1 == b

/-- The credits for messages of a part of a stage to a rank are held: its POST, and the relay's (R242, R250). -/
def Coll.credited (x : Coll) (st part b : Nat) : Bool :=
  st == stSw || (x.holds st part b && (match x.g.rankOf (x.nextHop st b) with
    | some r => r == b || x.holds st part r
    | none => false))

/-- Switch chunk c has its result, for the exponents or for the terms. -/
def Coll.swHas (x : Coll) (exp : Bool) (c : Nat) : Bool :=
  let r := x.swChunk c
  (List.range (r.2 - r.1)).all fun i => x.got.any fun m => m.stage == stSw && m.covers exp (r.1 + i)

/-- Switch chunk c holds no slot any more: it has its result, or is resent directly. -/
def Coll.swDone (x : Coll) (exp : Bool) (c : Nat) : Bool := x.direct.contains c || x.swHas exp c

/-- A slot of a plane is free for switch chunk c: the chunk before it in the slot has its result, and terms follow when every
exponent of the extent has its result (R244, log 55). -/
def Coll.swFree (x : Coll) (exp : Bool) (c : Nat) : Bool :=
  let w := 8 * (match x.sw with
    | some (_, k) => k
    | none => 1)
  (decide (c < w) || x.swDone exp (c - w)) && (exp || !x.auto || (List.range x.swChunks).all (x.swDone true))

/-- What a message carries is ready to be sent. -/
def Coll.ready (x : Coll) (m : PrlMsg) : Bool :=
  let js := (List.range m.n).map (m.lo + ·)
  let exp := m.kind == kExp
  let agreed (j : Nat) : Bool := x.arrived true x.expStages.length j
  if m.stage = stSw then x.swFree exp (m.lo / max 1 x.swBlocks) && (exp || js.all agreed)
  else if x.isA2a then true
  else if m.stage = stFlat ∧ !x.outMsg m then true
  else if !x.reduces then js.all (x.arrived false (x.stageIx false m.stage))
  else if exp then js.all (x.arrived true (x.stageIx true m.stage))
  else if x.outMsg m then js.all fun j => (find? x.res j).isSome
  else if m.kind = kData then true
  else js.all fun j => agreed j && x.arrived false (x.stageIx false m.stage) j

/-- Every message of this member, in the order of its stages. -/
def Coll.outgoing (x : Coll) : List PrlMsg :=
  x.allStages.flatMap fun st =>
    if st = stSw then x.allMsgs st 0 x.me x.n x.n
    else (x.parts st).flatMap fun part => x.others.flatMap fun b => x.allMsgs st part x.me b b

/-- The length for a destination of an unequal all-to-all exceeds its grant (R249). -/
def Coll.tooLong (x : Coll) (st b : Nat) : Bool :=
  x.isV && x.posts.any fun p => p.1 == st && p.2.2.1 == b && decide ((x.tables.1.getD b (0, 0)).2 > p.2.2.2)

/-- Sends what may be sent; the first failing read ends the collective. -/
def sendAll (c : CmdRef) : List PrlMsg → State → State
  | [], s => s
  | m :: r, s =>
    match s.coll c with
    | none => s
    | some x =>
      if x.sent.contains m || !x.credited m.stage (x.partOf m.stage m.lo) m.peer || !x.ready m || x.tooLong m.stage m.peer then sendAll c r s
      else match payloadOf x m s with
        | .error e => failColl c e s
        | .ok (bs, sat) =>
          let s := noteReads c x.part (x.msgReads m) (updColl c (fun x => { x with sent := x.sent ++ [m] }) s)
          sendAll c r (transmit x m bs (if sat then noteSat c s else s))

/-! ### The destination (R234, R237, R247, R248) -/

/-- Writes bytes to the destination of a collective; a failure ends it. -/
def putDest (c : CmdRef) (a : Addr) (bs : List Byte) (s : State) : State :=
  match s.coll c with
  | none => s
  | some x => match cmdWrite c x.part a bs s with
    | (s, _, none) => s
    | (s, _, some e) => failColl c e s

/-- Notes destination units as visible. -/
def noteWrote (c : CmdRef) (r : Range) (s : State) : State := updColl c (fun x => { x with wrote := x.wrote ++ [r] }) s

/-- A result block is known: it is kept for the stages that gather, and written where this member's destination holds it. -/
def landBlock (c : CmdRef) (j : Nat) (el sc : List Byte) (s : State) : State :=
  match s.coll c with
  | none => s
  | some x =>
    let s := updColl c (fun x => { x with res := put x.res j (el, sc) }) s
    let p := x.part_ x.me
    if p.1 ≤ j ∧ j < p.2 then
      let ea := x.addr 56
      let sa := x.addr 64
      let i := j - p.1
      noteWrote c (i, i + 1) (putDest c ⟨sa.tiered, sa.a + i * sc.length⟩ sc (putDest c ⟨ea.tiered, ea.a + i * el.length⟩ el s))
    else s

/-- The rounding of block j (R237). -/
def Coll.rounding (x : Coll) (j : Nat) : Rounding := ⟨(x.f 1 1).testBit 1, BitVec.ofNat 64 (x.f 32 8), x.f 28 4, 32 * j⟩

/-- The result of block j (R235 to R237), by adders and requantizers whose copies are compared (R238). -/
def Coll.resultOf (x : Coll) (u : Upset) (own : Blk) (j : Nat) : OutBlk :=
  let zero := outBlock x.outBits (List.replicate 32 0) none (x.rounding j)
  match x.eC own j with
  | none => zero
  | some ec => match x.termsAt stHrs own j ec with
    | (none, _) => zero
    | (some v, sat) => let o := outChecked u ⟨0, b2n (u.sum != 0)⟩ x.outBits v (some ec) (x.rounding j); { o with sat := o.sat || sat }

/-- Forms the results of this member's own slice as their terms come in. -/
def formResults (c : CmdRef) : List Nat → State → State
  | [], s => s
  | j :: r, s =>
    match s.coll c with
    | none => s
    | some x =>
      if (find? x.res j).isSome || !x.arrived true x.expStages.length j || !x.arrived false (x.stageIx false x.lastReduce) j then formResults c r s
      else match ownBlock x j s with
        | .error e => failColl c e s
        | .ok b =>
          let o := x.resultOf s.prl.upset b j
          let s := noteReads c x.part (x.sourceRanges j 1) s
          if o.bad.any then failColl c (integrity 0x03 3 0) s
          else formResults c r (landBlock c j o.bytes o.scale (if o.sat then noteSat c s else s))

/-- Visible units without a gap from unit p on. -/
def prefixEnd (rs : List Range) : (fuel : Nat) → Nat → Nat
  | 0, p => p
  | fuel + 1, p => match pick (fun (r : Range) => decide (r.1 ≤ p ∧ p < r.2)) rs with
    | some r => prefixEnd rs fuel r.2
    | none => p

/-- Units of this member's destination. -/
def Coll.destUnits (x : Coll) : Nat := if x.reduces then (x.part_ x.me).2 - (x.part_ x.me).1 else x.units
/-- Element bytes of a destination unit. -/
def Coll.destUnitBytes (x : Coll) : Nat := if x.reduces then blockBytesOf x.outBits else 64
/-- Chunk size (R247). -/
def Coll.chunkBytes (x : Coll) : Nat := 2 ^ (x.f 6 1 % 32)
/-- Every unit of the destination is visible. -/
def Coll.destWhole (x : Coll) : Bool := prefixEnd x.wrote (x.wrote.length + 1) 0 ≥ x.destUnits

/-- Leading chunks that are visible whole (R247). -/
def Coll.chunksDone (x : Coll) : Nat :=
  let p := prefixEnd x.wrote (x.wrote.length + 1) 0
  if p ≥ x.destUnits then ceilDiv (x.destUnits * x.destUnitBytes) x.chunkBytes else p * x.destUnitBytes / x.chunkBytes

/-- Adds the chunks that have become visible to the chunk peg (R247). -/
def addChunks (c : CmdRef) (s : State) : State :=
  match s.coll c with
  | none => s
  | some x =>
    let k := x.chunksDone
    if x.isA2a || !x.chunkEn || k ≤ x.added then s
    else pegUpdate x.chunkPeg (.queue c.q) (.add (BitVec.ofNat 64 (k - x.added))) (updColl c (fun x => { x with added := k }) s)

/-- The region of source rank i is settled (R248, R249): its received length, its flag, and one more on the chunk peg. -/
def settleRegion (c : CmdRef) (i : Nat) (ok : Bool) (n : Nat) (s : State) : State :=
  match s.coll c with
  | none => s
  | some x =>
    if x.regions.contains i then s
    else
      let s := updColl c (fun x => { x with regions := x.regions ++ [i] }) s
      let s := if x.isV then let a := x.addr 80; putDest c ⟨a.tiered, a.a + 16 * i + 12⟩ (toBytes 4 (if ok then n else 0)) s else s
      if x.chunkEn then
        let a := x.addr 88
        let s := putDest c ⟨a.tiered, a.a + i⟩ [if ok then 1 else 2] s
        match s.coll c with
        | none => s
        | some _ => pegUpdate x.chunkPeg (.queue c.q) (.add 1) (updColl c (fun x => { x with added := x.added + 1 }) s)
      else s

/-- Bytes of a source's region, where known: equal for an equal all-to-all, and told by its last message in an unequal one. -/
def Coll.regionBytes (x : Coll) (i : Nat) : Option Nat := if x.isV then find? x.totals i else some x.count

/-- Bytes received of a source's region. -/
def Coll.regionGot (x : Coll) (i : Nat) : Nat := ((x.got.filter fun m => m.peer == i && m.kind == kData).map (64 * ·.n)).sum

/-- Settles the regions whose every byte is visible. -/
def settleRegions (c : CmdRef) (s : State) : State :=
  match s.coll c with
  | none => s
  | some x =>
    if !x.isA2a then s
    else x.others.foldl (fun s i => match x.regionBytes i with
      | some n => if x.regionGot i ≥ n then settleRegion c i true n s else s
      | none => s) s

/-! ### Credits (R241, R242) -/

/-- Senders whose groups this member relays: the members of other cubes at its in-cube position (R250). -/
def Coll.relayed (x : Coll) : List Nat :=
  if x.g.regular && (x.isA2a || x.scatters) && (x.g.cubeSet x.me).length > 1 then (x.g.hallSet x.me).filter (· != x.me) else []

/-- Bytes of the group of messages that a member of another cube sends through this relay: to the other members of this cube (R250). The lengths of an unequal
all-to-all are not known here. -/
def Coll.groupBytes (x : Coll) (p : Nat) : Nat :=
  (((x.g.cubeSet x.me).filter (· != x.me)).map fun b => ((x.allMsgs stA2a 0 p b b).map fun m => x.payloadBytes (x.outMsg m) m.kind m.n).sum).sum

/-- The staging buffers for the group of a sender, each as large as a Yard buffer may be: the whole group, and one where its length is not known (R250, log 53). -/
def Coll.staging (x : Coll) (p : Nat) : List (Nat × Nat × Nat) :=
  let n := if x.isV then 65536 else x.groupBytes p
  (List.range (ceilDiv n 65536)).map fun i => (5, 16 + p + x.n * i, min 65536 (n - 65536 * i))

/-- The Yard buffers a collective draws: use, draw and bytes (R241, R250, log 53). -/
def Coll.needs (x : Coll) : List (Nat × Nat × Nat) :=
  (if x.reduces then (x.dataStages.filter fun st => [stFlat, stBrs, stCrs, stHrs, stSw].contains st).map fun st => (4, st, 65536) else []) ++
  x.relayed.flatMap x.staging

/-- Draws the buffers not yet taken; each that is not free is waited for. -/
def takeArea (c : CmdRef) (s : State) : State :=
  match s.coll c with
  | none => s
  | some x =>
    x.needs.foldl (fun s n =>
      if x.bufs.any fun b => b.1 == n.1 && b.2.1 == n.2.1 then s
      else match engineWait { use := n.1, cmd := c, ix := n.2.1, lc := s.cmdLc c, n := 1 } x.part n.2.2 s with
        | (some h, s) => updColl c (fun x => { x with bufs := x.bufs ++ [(n.1, n.2.1, h)] }) s
        | (none, s) => s) s

/-- The working area is taken whole. -/
def Coll.hasArea (x : Coll) : Bool := x.needs.all fun n => n.1 != 4 || x.bufs.any fun b => b.1 == 4 && b.2.1 == n.2.1
/-- The staging for a relayed sender is taken. -/
def Coll.hasStaging (x : Coll) (p : Nat) : Bool :=
  !x.relayed.contains p || (x.staging p).all fun n => x.bufs.any fun b => b.1 == 5 && b.2.1 == n.2.1

/-- The bytes this member grants a rank in a part of a stage: exactly what it will send, or in an unequal all-to-all the capacity (R241, R249). -/
def Coll.grantOf (x : Coll) (st part p : Nat) : Nat :=
  if x.isV then (x.tables.2.getD p (0, 0)).2
  else ((x.allMsgs st part p x.me p).map fun m => x.payloadBytes (x.gathersAt st p m.lo) m.kind m.n).sum

/-- This member posts to a rank in a part of a stage: it receives from it, or relays for it. -/
def Coll.postsTo (x : Coll) (st part p : Nat) : Bool :=
  st != stSw && (x.isV || x.grantOf st part p != 0 || (st == stA2a && x.relayed.contains p))

/-- Sends a POST (R241, R251). -/
def sendPost (x : Coll) (st part p : Nat) (s : State) : State :=
  sendPacket (some x.part) (mkPacket s.selfId (x.g.dev p) 0x20 3 (s.cmdLc x.cmd) false (s.parKey x.part) 0
    (prlHeader s x.g.tag x.seq kPost st false (x.partOff st part) (x.grantOf st part p) x.me) (x.blk.take 40)) s

/-- Sends the POSTs not yet sent, once the working area is taken; one to a relayed sender waits for its staging. -/
def postAll (c : CmdRef) (s : State) : State :=
  match s.coll c with
  | none => s
  | some x =>
    if !x.hasArea then s
    else x.allParts.foldl (fun s k => x.others.foldl (fun s p =>
      if x.posted.contains (k.1, k.2, p) || !x.postsTo k.1 k.2 p || (k.1 == stA2a && !x.hasStaging p) then s
      else sendPost x k.1 k.2 p (updColl c (fun x => { x with posted := x.posted ++ [(k.1, k.2, p)] }) s)) s) s

/-! ### DONE and the end (R249, R252) -/

/-- Everything a rank sends this member in a part of a stage has come. -/
def Coll.stageIn (x : Coll) (st part p : Nat) : Bool :=
  if x.isV then (match find? x.totals p with
    | some n => n != 0 && decide (x.regionGot p ≥ n)
    | none => false)
  else
    let ms := x.allMsgs st part p x.me p
    !ms.isEmpty && allIn ms x.got

/-- Sends DONE for every stage whose bytes have all come. -/
def sendDones (c : CmdRef) (s : State) : State :=
  match s.coll c with
  | none => s
  | some x =>
    x.allParts.foldl (fun s k => x.others.foldl (fun s p =>
      if x.doneTo.contains (k.1, k.2, p) || !x.stageIn k.1 k.2 p then s
      else sendPrlCtrl x.g.tag x.seq kDone k.1 (x.partOff k.1 k.2) (x.g.dev p) 0 false
        (updColl c (fun x => { x with doneTo := x.doneTo ++ [(k.1, k.2, p)] }) s)) s) s

/-- A destination refused (R249). -/
def countRefused (s : State) : State := s.onPrl fun p => { p with refused := satAdd p.refused 1 }

/-- The stage of an all-to-all. -/
def Coll.a2aStage (x : Coll) : Nat := if x.g.regular then stA2a else stFlat

/-- In an unequal all-to-all a destination whose grant is too small is refused, and one that gets nothing is told so by a DONE with last
set (R249, log 56). -/
def settleSends (c : CmdRef) (s : State) : State :=
  match s.coll c with
  | none => s
  | some x =>
    if !x.isV then s
    else x.others.foldl (fun s b =>
      let st := x.a2aStage
      let mark : PrlMsg := ⟨st, b, kDone, 0, 0⟩
      if !x.holds st 0 b || x.sent.contains mark then s
      else if x.tooLong st b then
        countRefused (sendPrlCtrl x.g.tag x.seq kRefuse st 0 (x.g.dev b) 0 false
          (updColl c (fun x => { x with sent := x.sent ++ [mark], refused := x.refused ++ [b] }) s))
      else if (x.tables.1.getD b (0, 0)).2 = 0 then
        sendPrlCtrl x.g.tag x.seq kDone st 0 (x.g.dev b) 0 true (updColl c (fun x => { x with sent := x.sent ++ [mark] }) s)
      else s) s

/-- Every message of this member has been sent and answered. -/
def Coll.allAnswered (x : Coll) : Bool :=
  (!x.allStages.contains stSw || allIn (x.allMsgs stSw 0 x.me x.n x.n) x.sent) &&
  x.allParts.all fun k => x.others.all fun b =>
    let ms := x.allMsgs k.1 k.2 x.me b b
    if x.isV ∧ x.sent.contains ⟨k.1, b, kDone, 0, 0⟩ then true
    else if ms.isEmpty then !x.isV
    else allIn ms x.sent && x.doneFrom.contains (k.1, k.2, b)

/-- Every byte this member receives has come and has been answered. -/
def Coll.allReceived (x : Coll) : Bool :=
  if x.isA2a then (List.range x.n).all x.regions.contains
  else x.destWhole && x.allParts.all fun k => x.others.all fun p =>
    (x.allMsgs k.1 k.2 p x.me p).isEmpty || x.doneTo.contains (k.1, k.2, p)

/-- Result field: elements written, or bytes received (Table Purlin-1). -/
def Coll.result (x : Coll) : Nat :=
  if x.reduces then (if x.scatters then x.count / x.n else x.count)
  else if x.isV then ((x.regions.filter fun i => !x.refused.contains i).map fun i =>
    if i = x.me then (x.tables.1.getD i (0, 0)).2 else (find? x.totals i).getD 0).sum
  else if x.isBcast then x.count else x.n * x.count

/-- The bytes of a group that this device has forwarded as its relay. -/
def PrlState.forwarded (r : PrlState) (tag seq src : Nat) : Nat :=
  ((r.staged.filter fun k => k.ty == 0x20 && k.f 36 4 == tag && k.f 34 2 == seq && k.f 40 4 % 2 ^ 20 == src).map fun k => k.payload.length).sum

/-- The groups that a member which completes still relays, with their staging (R250). -/
def Coll.relaying (x : Coll) (r : PrlState) : List Relay :=
  (x.relayed.map fun p =>
    { tag := x.g.tag, seq := x.seq, src := x.g.dev p, left := x.groupBytes p - r.forwarded x.g.tag.toNat x.seq.toNat (x.g.dev p),
      bufs := (x.bufs.filter fun b => b.1 == 5 && (x.staging p).any fun n => n.2.1 == b.2.1).map (·.2.2) }).filter fun e => e.left != 0

/-- Ends a collective that is complete (R252); one with a refused pair ends QUOTA with the lowest rank (R249). -/
def finishColl (c : CmdRef) (s : State) : State :=
  match s.coll c with
  | none => s
  | some x =>
    if !x.hasArea || !x.allReceived || !x.allAnswered then s
    else
      let s := leaveColl c (fun x => x.relaying s.prl) s
      let s := match s.inflight c with
        | some i => if i.sat then s.onPrl fun p => { p with satEvents := satAdd p.satEvents 1 } else s
        | none => s
      if x.refused.isEmpty then endCmd c .ok x.result 0 s
      else endCmd c .quota x.result (x.refused.foldl min (2 ^ 17)) s

/-! ### Progress -/

/-- A switch chunk is resent directly from now on (R246). -/
def resendChunk (c : CmdRef) (k : Nat) (s : State) : State :=
  match s.coll c with
  | none => s
  | some x =>
    if x.sw.isNone ∨ x.direct.contains k ∨ k ≥ x.swChunks then s
    else (updColl c (fun x => { x with direct := x.direct ++ [k] }) s).onPrl fun p => { p with planeResends := satAdd p.planeResends 1 }

/-- The switch chunks of planes without a link that have no result here are resent directly. The POST for one tells its members, which resend it too, whether or not
they hold its result (R246, log 55). -/
def goDirect (c : CmdRef) (planes : List Nat) (s : State) : State :=
  match s.coll c with
  | none => s
  | some x =>
    ((List.range x.swChunks).filter fun k => planes.contains (k % 8) && !(x.swHas false k && (!x.auto || x.swHas true k))).foldl (fun s k => resendChunk c k s) s

/-- A collective goes on as far as it can. -/
def pumpColl (c : CmdRef) (s : State) : State :=
  let s := takeArea c s
  let s := goDirect c ((List.range 8).filter fun p => (s.planePort p).isNone) s
  let s := match s.coll c with
    | some x => if x.reduces then formResults c ((List.range ((x.ownSlice x.me).2 - (x.ownSlice x.me).1)).map ((x.ownSlice x.me).1 + ·)) s else s
    | none => s
  let s := postAll c s
  let s := match s.coll c with
    | some x => if x.hasArea then settleSends c (sendAll c x.outgoing s) else s
    | none => s
  finishColl c (sendDones c (addChunks c (settleRegions c s)))

/-- A cube plane is lost (R246): every collective in an SW stage resends its chunks of that plane. -/
def purlinPlaneLost (plane : Nat) (s : State) : State :=
  (s.prl.colls.map (·.cmd)).foldl (fun s c => pumpColl c (goDirect c [plane] s)) s

/-! ### Ending early (R253) -/

/-- Free bytes over a range of a partition's memory: its content is undefined. -/
def undefine (p : Nat) (a : Addr) (n : Nat) (s : State) : State :=
  let (bs, s) := s.freeBytes n
  s.write p a.tiered a.a bs

/-- The destination of a collective that ends early is undefined, except for what the chunk peg has counted (R253). -/
def undefineDest (x : Coll) (s : State) : State :=
  let ea := x.addr 56
  if x.isA2a then
    ((List.range x.n).filter fun i => !(x.chunkEn && x.regions.contains i)).foldl (fun s i =>
      let r := if x.isV then x.tables.2.getD i (0, 0) else (i * x.count, x.count)
      undefine x.part ⟨ea.tiered, ea.a + r.1⟩ r.2 s) s
  else
    let total := x.destUnits * x.destUnitBytes
    let kept := min total (if x.chunkEn then x.added * x.chunkBytes else 0)
    let s := undefine x.part ⟨ea.tiered, ea.a + kept⟩ (total - kept) s
    if x.reduces then
      let sa := x.addr 64
      let u := ceilDiv kept x.destUnitBytes
      let z := scaleBytesOf x.outBits
      undefine x.part ⟨sa.tiered, sa.a + u * z⟩ ((x.destUnits - u) * z) s
    else s

/-- The packet carries contributions or data of this member for a collective. -/
def Coll.sendsIn (x : Coll) (s : State) (k : Packet) : Bool :=
  k.ty == 0x20 && k.cls != 0 && k.f 34 2 == x.seq.toNat && k.f 36 4 == x.g.tag.toNat && k.f 40 4 % 2 ^ 20 == s.selfId

/-- The packets of a collective that are not admitted are withdrawn (R333). -/
def withdrawColl (x : Coll) (s : State) : State :=
  s.onFab fun b => { b with
    waiting := b.waiting.filter fun e => !(e.withdrawable && x.sendsIn s e.q.k)
    heldTx := b.heldTx.filter fun e => !x.sendsIn s e.2.2 }

/-- A collective ends early with a status: it stops sending. -/
def abortColl (c : CmdRef) (e : Err) (s : State) : State :=
  match s.coll c with
  | none => s
  | some x => failCmd c e (undefineDest x (withdrawColl x (dropColl c s)))

/-- A device is declared dead: the collectives of its groups end PEER_LOST (R253). -/
def purlinPeerLost (d : Nat) (s : State) : State :=
  ((s.prl.colls.filter fun x => x.g.members.contains d).map (·.cmd)).foldl (fun s c => abortColl c ⟨.peerLost, d⟩ s) s

/-- The ranks a collective waits on: those whose data have not all come, or else those that have not answered (Table Fault-6). -/
def Coll.waitsOn (x : Coll) : List Nat :=
  let data := x.others.filter fun p => x.allParts.any fun k => x.postsTo k.1 k.2 p && !x.stageIn k.1 k.2 p
  if data.isEmpty then x.others.filter fun p => x.allParts.any fun k => !(x.allMsgs k.1 k.2 x.me p p).isEmpty && !x.doneFrom.contains (k.1, k.2, p) else data

/-- COLLECTIVE_TIMEOUT (R253): the timeout runs from the grant; the members waited on are suspected of NO_REPLY (R462). -/
def execCollectiveTimeout (c : CmdRef) (s : State) : Host.Outcome State Fault Refusal :=
  .next <|
    match s.coll c, s.inflight c with
    | some x, some i =>
      let t := x.f 20 2
      if t = 0 ∨ s.clk - i.since < t * 1000 then s
      else x.waitsOn.foldl (fun s p => suspect (x.g.dev p) 2 s) (abortColl c ⟨.timeout, 0⟩ s)
    | _, _ => s

end Sys2Proof.Machine
end

