-- ==== Sys2Proof/Machine/Sweep.lean ====
section
/-! DEFINITION. The discovery sweep (R319 to R322). -/

namespace Sys2Proof.Machine

/-- Changes the sweep. -/
def State.onSweep (s : State) (f : Sweep → Sweep) : State := s.onFab fun b => { b with sweep := f b.sweep }

/-- Sends a sweep packet of a type to a neighbour (Table Route-5). -/
def sendSweep (n : Neighbour) (ty : Nat) (th : List (Nat × Nat × Nat)) (s : State) : State :=
  sendOnPort none n.1 (ctrlPacket s n.2 ty th) s

/-- Active lanes of a port whose link runs (PORT_STATUS.lanes). -/
def Port.lanes (x : Port) : Nat := if x.linked then 8 * min (halvesOf x.txHalves).length (halvesOf x.rxHalves).length else 0

/-- PORT_STATUS.state code (Table Link-11). -/
def PortState.code : PortState → Nat
  | .disabled => 0 | .detect => 1 | .equalize => 2 | .align => 3 | .card => 4 | .check => 5 | .up => 6 | .managementOnly => 7 | .failed => 8

/-- The type header of a SWEEP_REPORT about a port (Table Route-5). -/
def reportHeader (s : State) (num : W32) (f : Nat) : List (Nat × Nat × Nat) :=
  let x := s.port f
  [(32, 4, num.toNat), (36, 4, s.selfId), (40, 1, portIx f), (41, 1, portClass f), (42, 1, x.st.code), (43, 1, x.reason), (44, 4, x.peerId.toNat),
   (48, 1, x.peerKind), (49, 1, x.peerPort), (50, 1, x.lanes), (52, 2, s.flt.epoch.toNat), (54, 8, Config.serial.toNat)]

/-- In-cube positions that the device's own bent links reach: the DXU devices of its cube behind the bent ports that run (R319: no table is read). -/
def State.bentReach (s : State) : List Nat :=
  ((List.range 15).filter fun f => let x := s.port f
    s.isLive f && x.peerKind == 0 && x.peerId.toNat / 64 == s.selfCube).map fun f => (s.port f).peerId.toNat % 64

/-- The neighbours that a device probes, but for its parent (R320). -/
def State.probeList (s : State) (parent : Option Neighbour) : List Neighbour :=
  allPorts.flatMap fun f =>
    let x := s.port f
    if !s.isLive f then []
    else if portClass f = 1 then
      ((List.range 64).filter fun q => q != s.selfPos && !s.bentReach.contains q && parent != some (f, s.inCube q)).map fun q => (f, s.inCube q)
    else if x.peerKind = 0 ∧ parent.map (·.1) ≠ some f then [(f, x.peerId.toNat)]
    else []

/-- Sends SWEEP to every neighbour to be probed. -/
def sendProbes (parent : Option Neighbour) (s : State) : State :=
  let w := s.fab.sweep
  let ns := s.probeList parent
  let s := s.onSweep fun w => { w with probes := ns.map (·, s.clk) }
  ns.foldl (fun s n => sendSweep n 0x40 [(32, 4, (w.number.getD 0).toNat), (36, 4, w.rootId.toNat), (40, 8, w.start.toNat)] s) s

/-- Abandons a sweep in progress: SWEEP_DONE with incomplete set goes to its parent, and a root's own sweep is superseded (R320). -/
def abandon (s : State) : State :=
  let w := s.fab.sweep
  if !w.running then s
  else if w.root then s.onSweep fun w => { w with running := false, state := 4 }
  else
    let s := match w.parent with
      | some n => sendSweep n 0x46 [(32, 4, (w.number.getD 0).toNat), (36, 4, w.devices + 1), (40, 1, 1), (41, 1, min w.late 255)] s
      | none => s
    s.onSweep fun w => { w with running := false }

/-- The root ends its sweep (R322). -/
def endRoot (s : State) : State :=
  s.onSweep fun w =>
    let bad := w.incomplete || w.overflow
    { w with running := false, state := if bad then 3 else 2, partialAt := if bad then some s.clk else none,
             status := (w.number.getD 0, w.devices, min w.late 127) }

/-- Ends the device's part once every probe is answered or absent and every child has finished or is lost (R321). -/
def sweepSettle (s : State) : State :=
  let w := s.fab.sweep
  if !w.running || !w.probes.isEmpty || !(w.children.all fun c => c.2.2) then s
  else if w.root then endRoot s
  else
    let s := match w.parent with
      | some n => sendSweep n 0x46 [(32, 4, (w.number.getD 0).toNat), (36, 4, w.devices + 1), (40, 1, b2n w.incomplete), (41, 1, min w.late 255)] s
      | none => s
    s.onSweep fun w => { w with running := false }

/-- Starts sweep n as root (R319, R320). -/
def startSweep (n : W32) (s : State) : State :=
  let s := abandon s
  let s := s.onSweep fun w => { w with number := some n, root := true, parent := none, rootId := BitVec.ofNat 20 s.selfId, start := s.hall,
                                       running := true, probes := [], children := [], devices := 0, incomplete := false, late := 0, ringAt := 0, overflow := false, state := 1, epochs := [],
                                       partialAt := none, status := (n, 0, 0) }
  sweepSettle (sendProbes none s)

/-- start of RTE_SWEEP_CTL: the device runs the sweep of the register's number as root. -/
def sweepStart (s : State) : State :=
  startSweep (BitVec.ofNat 32 (fld (s.reg 0x0D000040) 63 32)) (s.onSweep fun w => { w with followups := 0 })

/-- SWEEP_START: register operation of RTE_SWEEP_CTL. -/
def execSweepStart (s : State) : Host.Outcome State Fault Refusal := .next (sweepStart s)

/-- Answers a SWEEP. -/
def answerSweep (n : Neighbour) (num code : Nat) (s : State) : State := sendSweep n 0x41 [(32, 4, num), (36, 1, code)] s

/-- A device becomes the child of a sweep's sender: it answers, reports its ports and probes on (R320). -/
def joinSweep (n : Neighbour) (k : Packet) (s : State) : State :=
  let num := BitVec.ofNat 32 (k.f 32 4)
  let s := abandon s
  let s := s.onSweep fun w => { w with number := some num, root := false, parent := some n, rootId := BitVec.ofNat 20 (k.f 36 4),
                                       start := BitVec.ofNat 64 (k.f 40 8), running := true, probes := [], children := [], devices := 0, incomplete := false, late := 0,
                                       aliveAt := s.clk, epochs := [] }
  let s := answerSweep n num.toNat 0 s
  let s := allPorts.foldl (fun s f => sendSweep n 0x44 (reportHeader s num f) s) s
  sweepSettle (sendProbes (some n) s)

/-- A sweep packet of a type is taken. -/
def takeSweep (ty : Nat) (k : Packet) (act : State → State) (s : State) : Host.Outcome State Fault Refusal := takeCtrl ty k act s

/-- SWEEP (R320). -/
def execSweep (port : PortIx) (k : Packet) (s : State) : Host.Outcome State Fault Refusal :=
  takeSweep 0x40 k (fun s =>
    let n : Neighbour := (port, k.src)
    let num := k.f 32 4
    let last := s.fab.sweep.number.map (·.toNat)
    if (match last with | some m => decide (num < m) | none => false) then answerSweep n num 3 s
    else if (match s.fab.firstUp with | some t => decide (k.f 40 8 < t.toNat) | none => true) then answerSweep n num 2 s
    else if last = some num then answerSweep n num 1 s
    else joinSweep n k s) s

/-- The packet belongs to the sweep in progress. -/
def State.inSweep (s : State) (k : Packet) : Bool := s.fab.sweep.running && s.fab.sweep.number == some (BitVec.ofNat 32 (k.f 32 4))

/-- SWEEP_ACK (R320). -/
def execSweepAck (port : PortIx) (k : Packet) (s : State) : Host.Outcome State Fault Refusal :=
  takeSweep 0x41 k (fun s =>
    let n : Neighbour := (port, k.src)
    if s.inSweep k && s.fab.sweep.probes.any (fun p => p.1 == n) then
      sweepSettle (s.onSweep fun w => { w with probes := w.probes.filter (fun p => p.1 != n),
                                               children := if k.f 36 1 = 0 then w.children ++ [(n, s.clk, false)] else w.children,
                                               late := if k.f 36 1 = 2 then w.late + 1 else w.late,
                                               epochs := (w.epochs.filter fun e => e.1 != n) ++ [(n, BitVec.ofNat 16 k.memberEpoch)] })
    else s) s

/-- Writes a report into the sweep ring (R320): in HBM of the PF partition, 32 bytes an entry; a full ring loses it. -/
def ringReport (k : Packet) (s : State) : State :=
  let r := s.reg 0x0D000050
  let n := ringSize r
  let w := s.fab.sweep
  let a := fld r 63 12 * 4096 + 32 * w.ringAt
  match s.partOfFn 0 with
  | none => s.onSweep fun w => { w with overflow := true }
  | some p =>
    if w.ringAt ≥ n ∨ (s.writeFault p true a 32).isSome then s.onSweep fun w => { w with overflow := true }
    else (s.write p true a ((blockBytes k.hdr).drop 32)).onSweep fun w => { w with ringAt := w.ringAt + 1 }

/-- SWEEP_REPORT (R320). -/
def execSweepReport (port : PortIx) (k : Packet) (s : State) : Host.Outcome State Fault Refusal :=
  takeSweep 0x44 k (fun s =>
    if s.inSweep k then
      let s := heardFrom port k s
      if s.fab.sweep.root then ringReport k s
      else match s.fab.sweep.parent with
        | some n => sendSweep n 0x44 [(32, 32, byteFld k.hdr 32 32)] s
        | none => s
    else s) s

/-- SWEEP_ALIVE (R321). -/
def execSweepAlive (port : PortIx) (k : Packet) (s : State) : Host.Outcome State Fault Refusal :=
  takeSweep 0x45 k (fun s => if s.inSweep k then heardFrom port k s else s) s

/-- SWEEP_DONE (R321). -/
def execSweepDone (port : PortIx) (k : Packet) (s : State) : Host.Outcome State Fault Refusal :=
  takeSweep 0x46 k (fun s =>
    let n : Neighbour := (port, k.src)
    if s.inSweep k && s.fab.sweep.children.any (fun c => c.1 == n && !c.2.2) then
      sweepSettle (s.onSweep fun w => { w with children := w.children.map (fun c => if c.1 = n then (c.1, s.clk, true) else c),
                                               devices := w.devices + k.f 36 4 % 2 ^ 17, incomplete := w.incomplete || bit k.hdr 320, late := w.late + k.f 41 1 })
    else s) s

/-- SWEEP_PROBE_TIMEOUT (R320): probes on a port unanswered for 20 µs record absent positions. -/
def execSweepProbeTimeout (port : PortIx) (s : State) : Host.Outcome State Fault Refusal :=
  .next (if s.fab.sweep.running then
    sweepSettle (s.onSweep fun w => { w with probes := w.probes.filter fun p => !(p.1.1 == port.val && decide (s.clk - p.2 ≥ 20000)) })
  else s)

/-- SWEEP_ALIVE_TIMER (R321). -/
def execSweepAliveTimer (s : State) : Host.Outcome State Fault Refusal :=
  .next <|
    let w := s.fab.sweep
    match w.parent with
    | some n =>
      if w.running && !w.root && decide (s.clk - w.aliveAt ≥ 50000) then
        sendSweep n 0x45 [(32, 4, (w.number.getD 0).toNat)] (s.onSweep fun w => { w with aliveAt := s.clk })
      else s
    | none => s

/-- The member epoch of a child: that of its last packet. -/
def State.childEpoch (s : State) (c : Neighbour) : W16 :=
  match pick (fun (e : Neighbour × W16) => e.1 == c) s.fab.sweep.epochs with
  | some e => e.2
  | none => 0

/-- A child is lost (R321): its link is down, its member epoch is superseded by a newer verdict that names it, or 200 µs have passed without a packet of it. -/
def childLost (s : State) (c : Neighbour × Nat × Bool) : Bool :=
  !c.2.2 && (!s.isLive c.1.1 || decide (s.clk - c.2.1 ≥ 200000) || s.history.any fun v => v.2 == c.1.2 && newer v.1 (s.childEpoch c.1))

/-- Marks the lost children of a port (R321). -/
def dropChildren (port : Nat) (s : State) : State :=
  let w := s.fab.sweep
  let gone := w.children.filter fun c => c.1.1 == port && childLost s c
  if w.running && !gone.isEmpty then
    sweepSettle (s.onSweep fun w => { w with children := w.children.filter (fun c => !gone.contains c), incomplete := true })
  else s

/-- SWEEP_CHILD_LOST (R321). -/
def execSweepChildLost (port : PortIx) (s : State) : Host.Outcome State Fault Refusal := .next (dropChildren port s)

/-- SWEEP_FOLLOWUP (R322): after a PARTIAL sweep the root starts the next, up to followup_max in a row. -/
def execSweepFollowup (s : State) : Host.Outcome State Fault Refusal :=
  .next <|
    let w := s.fab.sweep
    match w.partialAt, w.number with
    | some _, some n =>
      if w.root && !w.running && decide (w.followups < fld (s.reg 0x0D000008) 17 16) then
        startSweep (n + 1) (s.onSweep fun w => { w with followups := w.followups + 1 })
      else s
    | _, _ => s

end Sys2Proof.Machine
end

