-- ==== Sys2Proof/Machine/Time.lean ====
section
/-! DEFINITION. Hall time and its servo (R504, R506). -/

namespace Sys2Proof.Machine

/-- Changes power, clocks and hall time. -/
def State.onPwr (s : State) (f : PwrState → PwrState) : State := { s with pwr := f s.pwr }

/-- TIM_CFG.source: 0 free-running, 1 IEEE 1588, 2 SYNC, 3 TIME_1PPS. -/
def State.timSource (s : State) : Nat := fld (s.reg 0x19000000) 47 44

/-- A sample of the source against hall time [ns] (R504): the first steps the counter, later ones are slewed. -/
def servoSample (off : Int) (s : State) : State :=
  let s := s.onPwr fun p => { p with timOffset := BitVec.ofInt 32 off }
  if !s.pwr.stepped then
    { s with hall := s.hall + BitVec.ofInt 64 off, pwr := { s.pwr with stepped := true, timState := 1, slew := 0 } }
  else s.onPwr fun p => { p with slew := off, timState := if off.natAbs ≤ 10 then 2 else 1 }

/-- The hall time of a source, in ns, as a sample. -/
def servoTime (t : W64) (s : State) : State := servoSample (t - s.hall).toInt s

/-- One nanosecond of hall time: slewed by at most 200 ppm, never backwards (R504, log 32). -/
def hallTick (s : State) : State :=
  let p := s.pwr
  if p.slew = 0 then { s with hall := s.hall + 1 }
  else if p.slewAt + 200 < 1000000 then { s with hall := s.hall + 1, pwr := { p with slewAt := p.slewAt + 200 } }
  else if p.slew > 0 then { s with hall := s.hall + 2, pwr := { p with slewAt := 0, slew := p.slew - 1 } }
  else { s with pwr := { p with slewAt := 0, slew := p.slew + 1 } }

/-- TIME_1PPS_OUT falls 1 µs after it rose (R506). -/
def ppsTick (s : State) : State :=
  match s.pwr.ppsAt with
  | some t => if s.clk - t ≥ 1000 then (s.onPwr fun p => { p with ppsAt := none }).emit (.pin "TIME_1PPS_OUT" false) else s
  | none => s

/-- PPS_OUT_EDGE (R506): hall time has reached a multiple of 10^9 ns. -/
def execPpsOutEdge (s : State) : Host.Outcome State Fault Refusal :=
  .next (if bit (s.reg 0x19000000) 0 && s.hall.toNat % 1000000000 == 0 && s.pwr.ppsAt.isNone then
    (s.onPwr fun p => { p with ppsAt := some s.clk }).emit (.pin "TIME_1PPS_OUT" true) else s)

/-- TIME_1PPS_EDGE (R504): the source is TIME_1PPS, and the edge has the time of TIM_SET. -/
def execTime1ppsEdge (s : State) : Host.Outcome State Fault Refusal :=
  .next (if s.timSource = 3 then servoTime (s.reg 0x19000008) s else s)

/-- TIME_SOURCE_LOST (R504). -/
def execTimeSourceLost (s : State) : Host.Outcome State Fault Refusal :=
  .next (if s.timSource ≠ 0 then s.onPwr fun p => { p with timState := 3, slew := 0 } else s)

end Sys2Proof.Machine
end

