-- ==== Sys2Proof/Machine/Links.lean ====
section
/-! DEFINITION. Training of the fabric ports, the neighbour card, links going down, and their timers (R271, R280 to R290, R310, R312). -/

namespace Sys2Proof.Machine

/-- Hall time in units of 2^-4 ns. -/
def State.hall16 (s : State) : W64 := s.hall <<< 4

/-- Mask of every half of a port's link (R257). -/
def State.allHalves (s : State) (f : Nat) : Nat := if portClass f = 2 then 1 else if s.halfBent f then 15 else 3

/-! ### Link-control flits that this side sends (Table Link-7) -/

/-- HEARTBEAT. -/
def heartbeatFlit (s : State) : Block :=
  BitVec.ofNat 512 (layout [(0, 1, 0x03), (1, 1, 1), (4, 4, s.selfId), (8, 2, s.flt.epoch.toNat), (10, 1, b2n s.flt.fenced), (16, 8, s.hall.toNat)])

/-- RETRY_REQ for a sequence number. -/
def retryFlit (n : W16) : Block := BitVec.ofNat 512 (layout [(0, 1, 0x02), (1, 1, 1), (2, 2, n.toNat)])

/-- WIDTH. -/
def widthFlit (ack : Bool) (mask : Nat) : Block := BitVec.ofNat 512 (layout [(0, 1, 0x07), (1, 1, 1), (2, 1, b2n ack), (4, 4, mask)])

/-- TIME. -/
def timeFlit (response : Bool) (t1 t2 t3 : W64) : Block :=
  BitVec.ofNat 512 (layout [(0, 1, 0x09), (1, 1, 1), (2, 1, b2n response), (8, 8, t1.toNat), (16, 8, t2.toNat), (24, 8, t3.toNat)])

/-- The credits advertised for a VC by link class (Table Link-9). -/
def advertised (cls vc : Nat) : Nat :=
  match cls, vc / 5 with
  | 0, 0 => 16 | 0, 3 => 320 | 0, _ => 160
  | 1, 0 => 16 | 1, 3 => 384 | 1, _ => 192
  | _, 0 => 64 | _, 3 => 4096 | _, _ => 2048

/-- The card that this device sends on a port (Table Link-12). -/
def cardBytes (s : State) (f : Nat) : List Byte :=
  toBytes 112 (layout ([(0, 1, 1), (1, 1, portClass f + 4 * b2n (s.halfBent f)), (2, 1, 1), (3, 1, 1), (4, 4, s.selfId), (8, 2, portIx f),
    (13, 1, b2n s.flt.fenced), (14, 2, s.flt.epoch.toNat), (16, 8, Config.serial.toNat), (24, 2, s.host.featureLevel.toNat), (26, 2, 1)] ++
    (List.range 20).map fun v => (40 + 2 * v, 2, advertised (portClass f) v)))

/-- Sends the card in CARD0 and CARD1, in a TRAIN frame on a hall port (R281, R294). -/
def sendCard (f : Nat) (s : State) : State :=
  let c := cardBytes s f
  let half (i : Nat) : Block := BitVec.ofNat 512 (layout [(0, 1, 4 + i), (1, 1, 1), (8, 56, ofBytes ((c.drop (56 * i)).take 56))])
  let s := s.onPort f fun x => { x with cardSent := s.clk }
  if portClass f = 2 then sendFrame f 3 0 [(1, half 0), (1, half 1)] s else sendCtl f (half 1) (sendCtl f (half 0) s)

/-- CARD_ACK for a card received. -/
def sendCardAck (f : Nat) (card : List Byte) (s : State) : State :=
  let fl : Block := BitVec.ofNat 512 (layout [(0, 1, 0x06), (1, 1, 1), (4, 4, crc32c card)])
  if portClass f = 2 then sendFrame f 3 0 [(1, fl)] s else sendCtl f fl s

/-! ### Changes of state -/

/-- A port enters a state. -/
def enter (f : Nat) (st : PortState) (s : State) : State := s.onPort f fun x => { x with st := st, entered := s.clk }

/-- A port fails with a reason: 1 VERSION, 4 WIRING, 5 AUTH, 6 TIMEOUT. -/
def failPort (f reason : Nat) (s : State) : State :=
  enter f .failed (s.onPort f fun x => { x with reason := reason, target := none, event := if reason = 1 then x.event ||| 0x20 else x.event })

/-- The link layer's state is reset in ALIGN (Table Link-11): sequences, credits, replay buffer, reassembly, segments and keys. The width stays (R290). -/
def Port.clearLink (x : Port) : Port :=
  { x with txSeq := 0, replay := [], sendAt := 0, ctl := [], blocks := 0, ackDue := false, sent := [], rxSeq := 0, wait := none,
           credits := [], freedIn := [], creditDue := [], freedOut := [], rxOpen := none, rxSpacing := 4, rxRun := 0, rxSegment := [], rxSegSeq := 0,
           tagFails := 0, txSegment := [], txSegAt := 0, txCounter := 0, txSlot := 0, rxSlot := 0, keys := [], steps := (0, 0), rxFirst := true,
           exMine := none, exPeer := none, target := none, txFrame := 0, frames := [], rxFrame := 0, nakAt := none, ackAt := 0, card := none,
           cardHalf := none, cardAcked := false, widening := none, txNext := none, txOpen := none, txFlits := [], rxMap := 0, rxBlocks := 0 }

/-- PLANE_STATE to every other device of the cube (R312). -/
def tellPlane (plane : Nat) (up : Bool) (s : State) : State :=
  ((List.range 64).filter (· != s.selfPos)).foldl (fun s q =>
    sendCtrl (ctrlPacket s (s.inCube q) 0x43 [(32, 4, s.selfId), (36, 1, plane), (37, 1, b2n up), (38, 2, s.fab.epoch.toNat)]) s) s

/-- The packets in doubt when a link goes down (R310), and the partial packet and unverified headers of the receiver. -/
def Port.inDoubt (x : Port) : List Packet := x.sent.map (·.k)

/-- The partial packet held for reassembly. -/
def Port.partials (x : Port) : List Packet := match x.rxOpen with
  | some (_, p) => [⟨p.hdr, []⟩]
  | none => []

/-- A link that carried traffic ceases to (R309, R310, R312, R321, R462): no route leads over its port any more, packets in doubt are lost, a plane is reported, children of a sweep are lost, and the peer is suspected. -/
def loseLink (f : Nat) (s : State) : State :=
  let x := s.port f
  let was := s.isLive f
  let up := s.isUp f
  let s := s.onPort f fun x => { x.clearLink with st := .align }
  let s := s.onFab fun b => { b with inDoubt := satAdd b.inDoubt x.inDoubt.length }
  let s := (x.inDoubt ++ x.partials).foldl (fun s k => reportLoss f k s) s
  let s := if up && portClass f == 2 then countWiring [f] s else s
  let s := if was && portClass f == 1 then
      match x.bound with
      | some p => purlinPlaneLost p (tellPlane p false s)
      | none => s
    else s
  let s := dropChildren f s
  if was && x.peerKind == 0 then suspect x.peerId.toNat 1 s else s

/-- A link goes down under R271 and retrains from ALIGN. -/
def linkDown (f : Nat) (s : State) : State :=
  if !(s.port f).linked then s
  else
    let s := loseLink f s
    enter f .align (s.onPort f fun x => { x with event := x.event ||| 2, linkDowns := satAdd x.linkDowns 1, trainAt := s.clk })

/-- A port stops: DISABLED, or DETECT again. -/
def stopPort (f : Nat) (next : PortState) (s : State) : State :=
  let s := if (s.port f).linked then
      let s := loseLink f s
      s.onPort f fun x => { x with event := x.event ||| 2, linkDowns := satAdd x.linkDowns 1 }
    else s.onPort f Port.clearLink
  enter f next (s.onPort f fun x => { x with reason := 0, version := 0, bound := none, trainAt := s.clk, txHalves := 0, rxHalves := 0, sak := if next = .disabled then none else x.sak })

/-- A port enters UP or MANAGEMENT_ONLY after the checks and key establishment (R280, R283 to R288). -/
def runPort (f : Nat) (st : PortState) (s : State) : State :=
  let s := s.onPort f fun x =>
    { x with target := none, heard := s.clk, beat := s.clk, creditAt := s.clk,
             event := x.event ||| (if st = .up then 1 else 0x10), upThisEpoch := x.upThisEpoch || st == .up }
  let s := (enter f st s).onFab fun b => { b with firstUp := b.firstUp.or (some s.hall) }
  if st ≠ .up then s
  else if portClass f = 1 then
    match (s.port f).bound with
    | some p => tellPlane p true (s.onFab fun b => { b with planeDown := b.planeDown.map fun e => (e.1, if e.2.testBit p then e.2 - 2 ^ p else e.2) })
    | none => s
  else if portClass f = 2 then countWiring [f] s
  else s

/-! ### CHECK (R282 to R286) -/

/-- n bytes of a card. -/
def cardF (c : List Byte) (off n : Nat) : Nat := le c off n

/-- The peer's fields of a card are kept in the port's registers. The credits are the card's until flits have been counted against them: a CHECK that is
repeated without retraining leaves them (R273, R286). -/
def notePeer (f : Nat) (c : List Byte) (s : State) : State :=
  s.onPort f fun x =>
    { x with peerKind := cardF c 0 1 / 16, peerPort := cardF c 8 2 % 64, peerId := BitVec.ofNat 20 (cardF c 4 4), peerCube := cardF c 10 2 % 2048,
             peerPlane := cardF c 12 1 % 8, peerFenced := (cardF c 13 1).testBit 0, peerFeature := BitVec.ofNat 16 (cardF c 24 2),
             peerEpoch := BitVec.ofNat 16 (cardF c 14 2), version := 1,
             credits := if x.credits.isEmpty then (List.range 20).map fun v => (v, cardF c (40 + 2 * v) 2) else x.credits }

/-- The peer advertises enough credits (R274). -/
def creditsOk (c : List Byte) : Bool := (List.range 20).all fun v => decide (cardF c (40 + 2 * v) 2 ≥ if v < 5 then 8 else 65)

/-- The position that the expected wiring gives a bent port (R284), and the port of its peer. -/
def State.expectedBent (s : State) (f : Nat) : Nat × Nat :=
  let p := Config.posId.toNat
  if s.halfBent f then (p / 8 * 8 + (p % 8 + f / 2 + 1) % 8, 2 * (6 - f / 2)) else ((p + f + 1) % 16, 14 - f)

/-- Another port of the class is bound to the same peer or plane. -/
def State.boundElsewhere (s : State) (f v : Nat) : Bool :=
  allPorts.any fun g => g != f && portClass g == portClass f && (s.port g).bound == some v

/-- The wiring check (R284 to R286): none where it fails; otherwise what the port binds, and whether it adopts a swap. -/
def wiring (s : State) (f : Nat) : Option (Option Nat × Bool) :=
  let x := s.port f
  let auto := bit (s.portCfg f) 1
  if portClass f = 2 then
    if x.peerKind = 0 ∧ x.peerId.toNat = fld (s.portCfg f) 47 28 then some (none, false) else none
  else if portClass f = 0 then
    let e := s.expectedBent f
    let pos := x.peerId.toNat % 16
    let same := x.peerKind == 0 && x.peerId.toNat / 16 == s.selfId / 16 && x.peerId.toNat != s.selfId
    if same && pos == e.1 && x.peerPort == e.2 then some (some pos, false)
    else if same && auto && !s.boundElsewhere f pos && !x.upThisEpoch then some (some pos, true)
    else none
  else
    let same := x.peerKind == 1 && x.peerCube == s.selfCube
    if same && x.peerPlane == portIx f then some (some x.peerPlane, false)
    else if same && auto && !s.boundElsewhere f x.peerPlane then some (some x.peerPlane, true)
    else none

/-- Adopts the observed wiring (R285, R299): the binding replaces the expected port in both copies of the bent entry. -/
def adopt (f : Nat) (b : Option Nat) (swap : Bool) (s : State) : State :=
  let s := s.onPort f fun x => { x with bound := b, event := if swap then x.event ||| 8 else x.event }
  if swap && portClass f == 0 then
    match b with
    | some pos =>
      let off := 0x0D000200 + 8 * pos
      let v : W64 := BitVec.ofNat 64 (16 + f)
      (s.setReg off v).onFab fun t => { t with current := put t.current off v }
    | none => s
  else s

/-- Key establishment begins (R288, R476): a TIME request on bent and cube ports; a hall port waits for its SAK. -/
def beginKeys (f : Nat) (target : PortState) (reason : Nat) (s : State) : State :=
  let s := s.onPort f fun x => { x with target := some target, reason := reason }
  if portClass f = 2 then
    if (s.port f).sak.isSome then runPort f target s else s
  else if s.sec.fabricKey.isNone then failPort f 5 s
  else sendCtl f (timeFlit false 0 0 0) s

/-- CHECK: the first case of R282 to R286 that applies decides. -/
def check (f : Nat) (s : State) : State :=
  let s := enter f .check s
  match (s.port f).card with
  | none => s
  | some c =>
    let s := notePeer f c s
    let x := s.port f
    if cardF c 2 1 > 1 ∨ cardF c 3 1 < 1 then failPort f 1 s
    else if !creditsOk c then failPort f 4 s
    else if x.peerFeature.toNat < fld (s.portCfg f) 63 48 then beginKeys f .managementOnly 2 s
    else if x.peerFenced ∨ (x.peerKind = 0 ∧ staleTo s.flt.epoch x.peerEpoch) then beginKeys f .managementOnly 3 s
    else match wiring s f with
      | none => beginKeys f .managementOnly 4 s
      | some (b, swap) => beginKeys f .up 0 (adopt f b swap s)

/-- The card exchange is complete: the peer's card is here and this side's is acknowledged. -/
def cardDone (f : Nat) (s : State) : State :=
  let x := s.port f
  if x.st = .card ∧ x.card.isSome ∧ x.cardAcked then check f s else s

/-- A well-formed card: generation, class and reserved fields (Table Link-12). A card that is not is ignored (log 33). -/
def cardOk (c : List Byte) (f : Nat) : Bool :=
  cardF c 0 1 % 16 == 1 && cardF c 1 1 % 4 == portClass f &&
  !rsvSet (ofBytes c) [(11, 5), (52, 12), (70, 10), (91, 5), (99, 5), (105, 7), (211, 13), (248, 8), (272, 48), (640, 256)]

/-- A complete card arrives: it is acknowledged, and checked in CARD (R281). -/
def takeCard (f : Nat) (c : List Byte) (s : State) : State :=
  if !cardOk c f then countMalformed f s
  else cardDone f ((sendCardAck f c s).onPort f fun x => { x with card := some c, cardHalf := none })

/-- The 56 card bytes of a CARD0 or CARD1 flit. -/
def cardPart (b : Block) : List Byte := (blockBytes b).drop 8

/-- Reserved parts of a link-control flit, by subtype (Table Link-7): first bit and width. -/
def ctlRsv (sub : Nat) : List (Nat × Nat) :=
  (12, 4) :: (match sub with
    | 0x01 => [(24, 8)]
    | 0x02 => [(32, 480)]
    | 0x03 => [(16, 16), (52, 12), (81, 47), (192, 320)]
    | 0x04 => [(16, 48)]
    | 0x05 => [(16, 48)]
    | 0x06 => [(16, 16), (64, 448)]
    | 0x07 => [(17, 15), (64, 448)]
    | 0x08 => [(17, 47), (144, 240)]
    | 0x09 => [(17, 47), (256, 256)]
    | _ => [(16, 48), (128, 384)])

/-- A link-control flit is well formed: generation and subtype; its reserved parts are zero (R266). -/
def ctlOk (b : Block) : Bool :=
  let sub := byteFld b 0 1
  byteFld b 1 1 % 16 == 1 && sub != 0 && decide (sub ≤ 0x0A) && !rsvSet b.toNat (ctlRsv sub)

/-- A link-control flit of a subtype acts on a port whose link runs; another is ignored and counted (R266). -/
def onCtl (f sub : Nat) (b : Block) (act : State → State) (s : State) : State :=
  if !(s.port f).linked then s
  else if !ctlOk b || byteFld b 0 1 != sub then countMalformed f s
  else act (s.onPort f fun x => { x with heard := s.clk })

/-- CARD0 and CARD1 (R281). -/
def cardFlits (f : Nat) (f0 f1 : Block) (s : State) : State :=
  onCtl f 4 f0 (onCtl f 5 f1 (takeCard f (cardPart f0 ++ cardPart f1))) s

/-- CARD. -/
def execCard (port : PortIx) (f0 f1 : BitVec 512) (s : State) : Host.Outcome State Fault Refusal := .next (cardFlits port f0 f1 s)

/-- CARD_ACK (R281). -/
def cardAckFlit (f : Nat) (b : Block) (s : State) : State :=
  onCtl f 6 b (fun s =>
    if byteFld b 4 4 = crc32c (cardBytes s f) then cardDone f (s.onPort f fun x => { x with cardAcked := true }) else s) s

/-- CARD_ACK. -/
def execCardAck (port : PortIx) (f : BitVec 512) (s : State) : Host.Outcome State Fault Refusal := .next (cardAckFlit port f s)

/-- CARD_RESEND_TIMER (R281). -/
def execCardResendTimer (port : PortIx) (s : State) : Host.Outcome State Fault Refusal :=
  .next (let x := s.port port
    if x.st = .card ∧ !x.cardAcked ∧ s.clk - x.cardSent ≥ 10000 then sendCard port s else s)

/-! ### Training (R280) -/

/-- SIGNAL_DETECT. -/
def execSignalDetect (port : PortIx) (s : State) : Host.Outcome State Fault Refusal :=
  .next (if (s.port port).st = .detect then enter port .equalize s else s)

/-- A half being widened is trained (R290): the receiver takes it up, and WIDTH names it to the peer. -/
def widened (f mask : Nat) (s : State) : State :=
  let m := Nat.lor (s.port f).rxHalves mask
  sendCtl f (widthFlit false m) (s.onPort f fun x => { x with widening := none, rxHalves := m })

/-- The halves with which a link leaves ALIGN: those it had, or all of them after DETECT; the device never restores width on its own (R290). -/
def State.alignHalves (s : State) (f kept : Nat) : Nat := if kept = 0 then s.allHalves f else kept

/-- BLOCK_LOCK (R280, R290): the port leaves ALIGN for CARD, or a half being widened is trained. -/
def execBlockLock (port : PortIx) (s : State) : Host.Outcome State Fault Refusal :=
  .next <|
    let x := s.port port
    if x.st = .align then
      let tx := s.alignHalves port x.txHalves
      let rx := s.alignHalves port x.rxHalves
      let s := s.onPort port fun x => { x.clearLink with txHalves := tx, rxHalves := rx, rxMap := rx, heard := s.clk, sakAt := s.clk }
      sendCard port (enter port .card s)
    else match x.widening with
      | some (m, _) => if x.linked then widened port m s else s
      | none => s

/-- TRAINING_TIMEOUT (R280): a bent or cube port has not reached UP or MANAGEMENT_ONLY within 100 ms of DETECT. -/
def execTrainingTimeout (port : PortIx) (s : State) : Host.Outcome State Fault Refusal :=
  .next <|
    let x := s.port port
    if portClass port ≠ 2 ∧ [PortState.detect, .equalize, .align, .card, .check].contains x.st ∧ s.clk - x.trainAt ≥ 100000000
    then failPort port 6 s else s

/-- PORT_ENABLE (R280): the enable bit of PORT_CFG is written. A port that a half-bent leaves idle does not train (R257). -/
def setEnable (f : Nat) (on : Bool) (s : State) : State :=
  let old := bit (s.portCfg f) 0
  let s := s.setReg (portReg f 0) (setFld (s.portCfg f) 0 0 (b2n on))
  if on = old then s
  else if on && s.idlePort f then s
  else if on then enter f .detect (s.onPort f fun x => { x with trainAt := s.clk, reason := 0 })
  else stopPort f .disabled s

/-- PORT_ENABLE. -/
def execPortEnable (port : PortIx) (on : Bool) (s : State) : Host.Outcome State Fault Refusal := .next (setEnable port on s)

/-- RETRAIN: an enabled port trains from DETECT. -/
def retrainPort (f : Nat) (s : State) : State := if bit (s.portCfg f) 0 && !s.idlePort f then stopPort f .detect s else s

/-- RETRAIN. -/
def execRetrain (port : PortIx) (s : State) : Host.Outcome State Fault Refusal :=
  .next (if s.pwr.ready then retrainPort port s else logWrite 0 7 (portReg port 0) s)

/-- WIDEN (R290): training of the removed halves begins. -/
def widenPort (f : Nat) (s : State) : State :=
  let x := s.port f
  let m := (List.range 4).foldl (fun m h => if (s.allHalves f).testBit h && !x.rxHalves.testBit h then m + 2 ^ h else m) 0
  if s.isLive f && portClass f != 2 && m != 0 then s.onPort f fun x => { x with widening := some (m, s.clk) } else s

/-- WIDEN. -/
def execWiden (port : PortIx) (s : State) : Host.Outcome State Fault Refusal := .next (widenPort port s)

/-- WIDEN_TIMEOUT (R290). -/
def execWidenTimeout (port : PortIx) (s : State) : Host.Outcome State Fault Refusal :=
  .next (match (s.port port).widening with
    | some (_, t) => if s.clk - t ≥ 100000000 then s.onPort port fun x => { x with widening := none } else s
    | none => s)

/-- A hall port that is MANAGEMENT_ONLY repeats CHECK (R286). -/
def repeatCheck (f : Nat) (s : State) : State := if portClass f = 2 ∧ (s.port f).st = .managementOnly then check f s else s

/-- Writes expected_peer of a hall port (R286). -/
def setExpectedPeer (f v : Nat) (s : State) : State := repeatCheck f (s.setReg (portReg f 0) (setFld (s.portCfg f) 47 28 v))

/-- EXPECTED_PEER_WRITE (R286): only the PF writes link registers (R515). -/
def execExpectedPeerWrite (fn : Fn) (port : PortIx) (v : BitVec 64) (s : State) : Host.Outcome State Fault Refusal :=
  .next (barWrite fn (portReg port 0) (fun s =>
    if fn ≠ 0 then logWrite fn 5 (portReg port 0) s
    else if portClass port ≠ 2 then s
    else setExpectedPeer port (fld v 47 28) s) s)

/-! ### Lanes and width (R289) -/

/-- The halves that remain when a half fails (R289): a 32-lane link keeps only the intact pair, so a pair that loses a half leaves none. -/
def remaining (halfBent : Bool) (active h : Nat) : Nat :=
  if halfBent then (if active = 15 then (if h < 2 then 12 else 3) else 0)
  else if active.testBit h then active - 2 ^ h else active

/-- The receiver waits for a number: RETRY_REQ is sent and the count begins (R269). -/
def beginWait (f : Nat) (s : State) : State :=
  let x := s.port f
  if x.wait.isSome then s
  else sendCtl f (retryFlit x.rxSeq) (s.onPort f fun x => { x with wait := some (1, s.clk) })

/-- An active half loses its lanes: its blocks are discarded, and RETRY_REQ and WIDTH go out; without a half that remains the link goes down (R289). -/
def failHalf (f h : Nat) (s : State) : State :=
  let m := remaining (s.halfBent f) (s.port f).rxHalves h
  if m = 0 then linkDown f s
  else
    let s := s.onPort f fun x => { x with rxHalves := m, degrades := satAdd x.degrades 1, event := x.event ||| 4 }
    sendCtl f (widthFlit false m) (beginWait f s)

/-- LANE_FAULT (R289). -/
def execLaneFault (port : PortIx) (lane : Fin 32) (s : State) : Host.Outcome State Fault Refusal :=
  .next <|
    let x := s.port port
    let h := lane.val / 8
    if !x.linked || portClass port == 2 || !x.rxHalves.testBit h then s else failHalf port h s

/-- WIDTH (R289, R290) on a bent or cube port: the transmitter answers in one of its next blocks and takes the mask with the one after; an answer ends the
change, and the blocks that follow are counted under the new mapping. A mask outside the link's halves is ignored. -/
def widthFlitIn (f : Nat) (b : Block) (s : State) : State :=
  onCtl f 7 b (fun s =>
    let m := byteFld b 4 4
    if portClass f = 2 ∨ m = 0 ∨ Nat.land m (s.allHalves f) ≠ m then s
    else if bit b 16 then s.onPort f fun x => { x with rxHalves := m, rxMap := m, rxBlocks := 0 }
    else s.onPort f fun x => { x with txNext := some m }) s

/-- WIDTH. -/
def execWidth (port : PortIx) (f : BitVec 512) (s : State) : Host.Outcome State Fault Refusal := .next (widthFlitIn port f s)

/-! ### Time and keys (R296, R476) -/

/-- Number of bytes of a timestamp exchange: t1, t2, t3, each 8 bytes little-endian. -/
def exBytes (e : W64 × W64 × W64) : List Byte := toBytes 8 e.1.toNat ++ toBytes 8 e.2.1.toNat ++ toBytes 8 e.2.2.toNat

/-- The letters of an info string. -/
def ascii (t : String) : List Byte := t.toList.map fun c => BitVec.ofNat 8 c.toNat

/-- A link key and salt for the direction from X to Y (R476): serial and port of each side; a port index is 1 byte (log 35). -/
def linkKey (fabric : Nat) (gen : W32) (ea eb : W64 × W64 × W64) (sx sy : W64) (px py : Nat) : Nat :=
  (Config.hkdf (toBytes 32 fabric) (exBytes ea ++ exBytes eb)
    (ascii "TLAHA-LK" ++ toBytes 8 sx.toNat ++ toBytes 8 sy.toNat ++ toBytes 1 px ++ toBytes 1 py ++ toBytes 4 gen.toNat)).toNat

/-- Link keys are derived once both exchanges are known, and the port runs (R476, R288). -/
def settleKeys (f : Nat) (s : State) : State :=
  let x := s.port f
  match x.st, x.exMine, x.exPeer, x.card, s.sec.fabricKey, x.target with
  | .check, some em, some ep, some c, some fk, some st =>
    let ser : W64 := BitVec.ofNat 64 (cardF c 16 8)
    let mine := Config.serial
    let a := decide (mine.toNat < ser.toNat) || (mine == ser && decide (portIx f < x.peerPort))
    let ea := if a then em else ep
    let eb := if a then ep else em
    let tx := linkKey fk s.sec.fabricGen ea eb mine ser (portIx f) x.peerPort
    let rx := linkKey fk s.sec.fabricGen ea eb ser mine x.peerPort (portIx f)
    runPort f st (s.onPort f fun x => { x with keys := [(0, tx), (2, rx)], txSlot := 0, rxSlot := 0, txCounter := 0, steps := (0, 0), rxFirst := true })
  | _, _, _, _, _, _ => s

/-- TIME (R296, R476): a request is answered, t3 being put in as the answer leaves; a response gives the delay, and in CHECK the exchange. -/
def timeFlitIn (f : Nat) (b : Block) (s : State) : State :=
  onCtl f 9 b (fun s =>
    let t1 : W64 := BitVec.ofNat 64 (byteFld b 8 8)
    let now := s.hall16
    if !bit b 16 then sendCtl f (timeFlit true t1 now 0) s
    else
      let t2 : W64 := BitVec.ofNat 64 (byteFld b 16 8)
      let t3 : W64 := BitVec.ofNat 64 (byteFld b 24 8)
      let d := ((now - t1).toInt - (t3 - t2).toInt) / 2
      let s := s.onPort f fun x => { x with delay := BitVec.ofInt 32 d }
      if (s.port f).st = .check then settleKeys f (s.onPort f fun x => { x with exMine := some (t1, t2, t3) }) else s) s

/-- TIME. -/
def execTime (port : PortIx) (f : BitVec 512) (s : State) : Host.Outcome State Fault Refusal := .next (timeFlitIn port f s)

/-- SYNC (R296): the time carried, with the link's delay added, is a sample of the source that TIM_CFG names. -/
def syncFlitIn (f : Nat) (b : Block) (s : State) : State :=
  onCtl f 0x0A b (fun s =>
    if s.timSource = 2 ∧ fld (s.reg 0x19000000) 43 38 = f then
      servoTime ((BitVec.ofNat 64 (byteFld b 8 8) + BitVec.ofNat 64 (s.port f).delay.toNat) >>> 4) s
    else s) s

/-- SYNC. -/
def execSync (port : PortIx) (f : BitVec 512) (s : State) : Host.Outcome State Fault Refusal := .next (syncFlitIn port f s)

/-- LINK_DELAY_TIMER (R296): a TIME exchange at least every 1 ms; t1 is put in as the request leaves. -/
def execLinkDelayTimer (port : PortIx) (s : State) : Host.Outcome State Fault Refusal :=
  .next (if s.isLive port && portClass port != 2 && decide (s.clk - (s.port port).timeAt ≥ 1000000) then
    sendCtl port (timeFlit false 0 0 0) (s.onPort port fun x => { x with timeAt := s.clk }) else s)

/-! ### Credits, heartbeats, silence -/

/-- CREDIT (R273): the difference from the last count accepted is added. -/
def creditFlitIn (f : Nat) (b : Block) (s : State) : State :=
  onCtl f 1 b (fun s =>
    let n := byteFld b 2 1
    if n = 0 ∨ n > 20 then countMalformed f s
    else (List.range n).foldl (fun s i =>
      let v := byteFld b (4 + 3 * i) 1
      let c : W16 := BitVec.ofNat 16 (byteFld b (5 + 3 * i) 2)
      if v < 20 then s.onPort f fun x =>
        { x with credits := upd x.credits v 0 (· + (c - getD x.freedIn v 0).toNat), freedIn := put x.freedIn v c }
      else s) s) s

/-- CREDIT. -/
def execCredit (port : PortIx) (f : BitVec 512) (s : State) : Host.Outcome State Fault Refusal := .next (creditFlitIn port f s)

/-- CREDIT_REPEAT_TIMER (R273): every count is sent at least every 20 µs. -/
def execCreditRepeatTimer (port : PortIx) (s : State) : Host.Outcome State Fault Refusal :=
  .next (if (s.port port).linked && decide (s.clk - (s.port port).creditAt ≥ 20000) then
    s.onPort port fun x => { x with creditAt := s.clk, creditDue := List.range 20 } else s)

/-- HEARTBEAT (R266): the peer's epoch and fenced state. -/
def heartbeatFlitIn (f : Nat) (b : Block) (s : State) : State :=
  onCtl f 3 b (fun s => s.onPort f fun x => { x with peerEpoch := BitVec.ofNat 16 (byteFld b 8 2), peerFenced := bit b 80 }) s

/-- HEARTBEAT. -/
def execHeartbeat (port : PortIx) (f : BitVec 512) (s : State) : Host.Outcome State Fault Refusal := .next (heartbeatFlitIn port f s)

/-- LINK_SILENCE_TIMEOUT (R271, R294): no flit or frame has passed its check for 60 µs. -/
def execLinkSilenceTimeout (port : PortIx) (s : State) : Host.Outcome State Fault Refusal :=
  .next (if s.isLive port && decide (s.clk - (s.port port).heard ≥ 60000) then linkDown port s else s)

/-- HEARTBEAT_TIMER (R271): a HEARTBEAT at least every 20 µs; a link whose peer has been silent for 60 µs goes down. -/
def execHeartbeatTimer (port : PortIx) (s : State) : Host.Outcome State Fault Refusal :=
  .next <|
    if !s.isLive port then s
    else if s.clk - (s.port port).heard ≥ 60000 then linkDown port s
    else if s.clk - (s.port port).beat ≥ 20000 then sendCtl port (heartbeatFlit s) (s.onPort port fun x => { x with beat := s.clk })
    else s

/-- PLANE_STATE (R302, R312): live() for the sender's position; switch chunks of a lost plane are resent (R246). -/
def execPlaneState (k : Packet) (s : State) : Host.Outcome State Fault Refusal :=
  takeCtrl 0x43 k (fun s =>
    let q := k.f 32 4 % 64
    let p := k.f 36 1 % 8
    let up := bit k.hdr (8 * 37)
    let s := s.onFab fun b => { b with planeDown := upd b.planeDown q 0 fun m => if up then (if m.testBit p then m - 2 ^ p else m) else Nat.lor m (2 ^ p) }
    if up then s else purlinPlaneLost p s) s

end Sys2Proof.Machine
end

