-- ==== Sys2Proof/Machine/Receive.lean ====
section
/-! DEFINITION. Receiving on a link: blocks, sequence and retry, segments, preemption (R258 to R279), and hall frames (R291 to R294). -/

namespace Sys2Proof.Machine

/-! ### Packets out of verified flits (R275, R276) -/

/-- A verified header or payload flit: packets are put together, a short packet may preempt a long one, and a protocol error of R276 takes the link down. A
short COLL header is none: it goes on to be discarded (R264). -/
def rxFlit (f : Nat) (kind : Nat) (b : Block) (s : State) : State :=
  let x := s.port f
  if !x.linked then s
  else if kind = 2 then
    let k : Packet := ⟨b, []⟩
    match x.rxOpen with
    | none =>
      if k.len = 0 then arrive f k s
      else s.onPort f fun x => { x with rxOpen := some (k.vc, ⟨b, []⟩), rxSpacing := 4, rxRun := 0 }
    | some _ =>
      if k.len ≠ 0 ∨ k.cls = 2 then linkDown f s
      else if x.rxRun = 0 ∧ x.rxSpacing < 4 then linkDown f s
      else if x.rxRun ≥ 4 then linkDown f s
      else arrive f k (s.onPort f fun x => { x with rxRun := x.rxRun + 1, rxSpacing := 0 })
  else match x.rxOpen with
    | none => linkDown f s
    | some (vc, p) =>
      let fs := p.flits ++ [b]
      let k : Packet := ⟨p.hdr, []⟩
      let s := s.onPort f fun x => { x with rxSpacing := x.rxSpacing + 1, rxRun := 0 }
      if fs.length = ceilDiv k.len 64 then
        arrive f ⟨p.hdr, (fs.flatMap blockBytes).take k.len⟩ (s.onPort f fun x => { x with rxOpen := none })
      else s.onPort f fun x => { x with rxOpen := some (vc, ⟨p.hdr, fs⟩) }

/-! ### Segments (R277 to R279, R477, R478) -/

/-- The next key of a direction (R477). -/
def nextKey (key step : Nat) : Nat := (Config.hkdf (toBytes 32 (key % 2 ^ 256)) [] (ascii "TLAHA-NEXT" ++ toBytes 4 step)).toNat

/-- A segment fails its tag (R271, R279, R478): it is discarded and asked for again; the third time in a row the link goes down, or fails on its first segment. -/
def tagFailed (f : Nat) (s : State) : State :=
  let x := s.port f
  let n := x.tagFails + 1
  let from_ := if x.rxSegment.isEmpty then x.rxSeq - 1 else x.rxSegSeq
  let s := s.onPort f fun x => { x with authErrs := satAdd x.authErrs 1, tagFails := n, rxSeq := from_, rxSegment := [] }
  if n ≥ 3 then
    if x.rxFirst then failPort f 5 (loseLink f s) else linkDown f s
  else beginWait f (s.onPort f fun x => { x with wait := none })

/-- A TAG flit ends the open segment: its tag is verified before any of its flits goes on (R279). -/
def onTag (f : Nat) (b : Block) (s : State) : State :=
  let slot := byteFld b 2 1 % 2
  let x := s.port f
  let s := if slot = x.rxSlot then s else s.onPort f fun x =>
    { x with rxSlot := slot, keys := put x.keys (2 + slot) (nextKey (x.key (2 + x.rxSlot)) (x.steps.2 + 1)), steps := (x.steps.1, x.steps.2 + 1) }
  let x := s.port f
  let c : W64 := BitVec.ofNat 64 (byteFld b 8 8)
  let key := x.key (2 + slot)
  let tag := Config.gcmTag key c.toNat (segmentAad c (x.rxSegment.map (·.1))) (x.rxSegment.flatMap fun e => blockBytes e.2)
  if byteFld b 16 2 = x.rxSegment.length ∧ tag.toNat = byteFld b 48 16 then
    let fs := x.rxSegment
    let s := s.onPort f fun x => { x with rxSegment := [], tagFails := 0, rxFirst := false }
    (List.range fs.length).foldl (fun s i =>
      let e := fs.getD i (0, 0)
      rxFlit f e.1 (e.2 ^^^ Config.gcmStream key c.toNat i) s) s
  else tagFailed f s

/-- A sequenced flit is accepted with the number expected (R260, R269). -/
def acceptFlit (f kind : Nat) (b : Block) (s : State) : State :=
  let s := s.onPort f fun x => { x with rxSeq := x.rxSeq + 1, wait := none, ackDue := true }
  if kind = 1 then onTag f b s
  else s.onPort f fun x =>
    { x with rxSegSeq := if x.rxSegment.isEmpty then x.rxSeq - 1 else x.rxSegSeq, rxSegment := x.rxSegment ++ [(kind, b)] }

/-- TAG: the TAG flit with the number expected arrives (R279). -/
def execTag (port : PortIx) (f : BitVec 512) (s : State) : Host.Outcome State Fault Refusal := .next (onCtl port 8 f (acceptFlit port 1 f) s)

/-! ### Retry (R267, R269) -/

/-- An acknowledgement frees the flits before it (R267). -/
def ackTo (f : Nat) (n : W16) (s : State) : State :=
  let x := s.port f
  let old := x.txSeq - BitVec.ofNat 16 x.replay.length
  let d := (n - old).toNat
  if d = 0 ∨ d > x.replay.length then s
  else s.onPort f fun x =>
    { x with replay := x.replay.drop d, sendAt := if (x.sendAt - old).toNat < d then n else x.sendAt,
             sent := x.sent.filter fun p => p.last.all fun l => decide ((BitVec.ofNat 16 l.toNat - old).toNat > d) }

/-- RETRY_REQ (R269, R271): the transmitter resends from the number, or goes down when it is out of range. -/
def retryFlitIn (f : Nat) (b : Block) (s : State) : State :=
  onCtl f 2 b (fun s =>
    let x := s.port f
    let n : W16 := BitVec.ofNat 16 (byteFld b 2 2)
    let old := x.txSeq - BitVec.ofNat 16 x.replay.length
    if (n - old).toNat ≤ x.replay.length then s.onPort f fun x => { x with sendAt := n, replays := satAdd x.replays 1 }
    else linkDown f s) s

/-- RETRY_REQ. -/
def execRetryReq (port : PortIx) (f : BitVec 512) (s : State) : Host.Outcome State Fault Refusal := .next (retryFlitIn port f s)

/-- RETRY_REQ_REPEAT (R269, R271): 1 µs in WAIT; the eighth request for one number takes the link down. -/
def execRetryReqRepeat (port : PortIx) (s : State) : Host.Outcome State Fault Refusal :=
  .next (match (s.port port).wait with
    | some (n, t) =>
      if s.clk - t < 1000 ∨ !(s.port port).linked then s
      else if n + 1 ≥ 8 then linkDown port (sendCtl port (retryFlit (s.port port).rxSeq) s)
      else sendCtl port (retryFlit (s.port port).rxSeq) (s.onPort port fun x => { x with wait := some (n + 1, s.clk) })
    | none => s)

/-! ### Link-control flits and blocks -/

/-- A link-control flit that is not sequenced, by its subtype (R260, R266). -/
def ctlFlitIn (f : Nat) (b : Block) (s : State) : State :=
  match byteFld b 0 1 with
  | 0x01 => creditFlitIn f b s
  | 0x02 => retryFlitIn f b s
  | 0x03 => heartbeatFlitIn f b s
  | 0x04 => onCtl f 4 b (fun s => s.onPort f fun x => { x with cardHalf := some b }) s
  | 0x05 => (match (s.port f).cardHalf with
    | some a => cardFlits f a b s
    | none => s)
  | 0x06 => cardAckFlit f b s
  | 0x07 => widthFlitIn f b s
  | 0x09 => timeFlitIn f b s
  | 0x0A => syncFlitIn f b s
  | _ => countMalformed f s

/-- A flit of a block takes a sequence number, as far as the receiver can tell: a link-control flit that fails its CRC may have been a TAG (log 36). -/
def mayCount (ok : Bool) (kind : Nat) (b : Block) : Bool := sequenced kind b || (!ok && kind == 1)

/-- One flit of a received block: whether its CRC passed, its kind, its number and its bytes (R260, R269). -/
def blockFlit (f : Nat) (ok : Bool) (kind : Nat) (num : W16) (b : Block) (s : State) : State :=
  if !(s.port f).linked then s
  else if !mayCount ok kind b then
    if ok && kind == 1 then ctlFlitIn f b s else s
  else if ok && num == (s.port f).rxSeq then acceptFlit f kind b s
  else beginWait f s

/-- The flits of a block with their kinds, whether each passes its CRC, and its number (R258, R259). -/
def blockFlits (bs : List Byte) : List (Bool × Nat × W16 × Block) :=
  let t := (bs.drop 1024).take 8
  let kinds := le bs 1028 4
  let crcs := le bs 1032 24
  let fl := (List.range 16).map fun i => toBlock ((bs.drop (64 * i)).take 64)
  let go := (List.range 16).foldl (fun (acc : List (Bool × Nat × W16 × Block) × W16) i =>
    let b := fl.getD i 0
    let kind := kinds / 4 ^ i % 4
    let ok := flitCrc b t i == crcs / 2 ^ (12 * i) % 4096
    (acc.1 ++ [(ok, kind, acc.2, b)], if mayCount ok kind b then acc.2 + 1 else acc.2)) ([], BitVec.ofNat 16 (le bs 1024 2))
  go.1

/-- A block arrives (R260): its ack is used when a flit passes; its flits are taken in order. A block of which no flit passes is asked for again (log 36). -/
def blockIn (f : Nat) (bs : List Byte) (s : State) : State :=
  let fs := blockFlits bs
  let bad := (fs.filter fun e => !e.1).length
  let s := s.onPort f fun x => { x with crcErrs := satAdd x.crcErrs bad }
  if bad = 16 then beginWait f s
  else
    let s := ackTo f (BitVec.ofNat 16 (le bs 1026 2)) (s.onPort f fun x => { x with heard := s.clk })
    fs.foldl (fun s e => blockFlit f e.1 e.2.1 e.2.2.1 e.2.2.2 s) s

/-- The half on which the next block arrives, under the mapping of the peer (R257). -/
def Port.rxHalf (x : Port) : Nat := (halvesOf x.rxMap).getD (x.rxBlocks % (halvesOf x.rxMap).length) 0

/-- LINK_BLOCK: a block of 1,056 bytes arrives on a bent or cube port whose link runs. One on a half that has failed is discarded (R289). -/
def execLinkBlock (port : PortIx) (b : List Byte) (s : State) : Host.Outcome State Fault Refusal :=
  if b.length ≠ 1056 then .fault .illFormed
  else .next (if portClass port ≠ 2 ∧ (s.port port).linked then
      let h := (s.port port).rxHalf
      let s := s.onPort port fun x => { x with rxBlocks := x.rxBlocks + 1 }
      if (s.port port).rxHalves.testBit h then blockIn port b s else s
    else s)

/-- SEGMENT_CLOSE_TIMEOUT (R277). -/
def execSegmentCloseTimeout (port : PortIx) (s : State) : Host.Outcome State Fault Refusal :=
  .next (let x := s.port port
    if !x.txSegment.isEmpty && decide (s.clk - x.txSegAt ≥ 64) then s.onPort port closeSegment else s)

/-- KEY_ROLLOVER (R477): the counter has reached 2^47, no segment of the other slot's key is unacknowledged, and the next segment begins in that slot. -/
def execKeyRollover (port : PortIx) (s : State) : Host.Outcome State Fault Refusal :=
  .next (let x := s.port port
    let o := 1 - x.txSlot
    let held := x.replay.any fun e => e.1 == 1 && byteFld e.2 2 1 % 2 == o
    if x.txCounter.toNat < 2 ^ 47 || held || !s.isLive port then s
    else s.onPort port fun x =>
      let x := closeSegment x
      { x with keys := put x.keys o (nextKey (x.key x.txSlot) (x.steps.1 + 1)), steps := (x.steps.1 + 1, x.steps.2), txSlot := o, txCounter := 0 })

/-! ### Hall frames (R291 to R294) -/

/-- What a frame holds once its FCS and ICV have passed: kind, frame sequence, ack, and the flits with their kinds. -/
structure Frame where
  /-- kind -/
  kind : Nat
  /-- frame sequence -/
  seq : W32
  /-- ack -/
  ack : W32
  /-- flits with kinds -/
  flits : List (Nat × Block)

/-- Why a frame is discarded. -/
inductive FrameBad where
  | fcs | icv | malformed
deriving DecidableEq, Repr

/-- The whole packet number of a received frame (IEEE 802.1AE XPN): the upper half follows the lowest number still accepted. -/
def recoverPn (low : Nat) (next : W64) : Nat :=
  let hi := next.toNat / 2 ^ 32
  if low < next.toNat % 2 ^ 32 ∧ next.toNat % 2 ^ 32 - low > 2 ^ 31 then (hi + 1) * 2 ^ 32 + low else hi * 2 ^ 32 + low

/-- Bytes 28 to the last flit of a received frame, with its packet number, once FCS and MACsec pass (R292). -/
def openFrame (x : Port) (bs : List Byte) : Except FrameBad (List Byte × Nat) :=
  let n := bs.length
  if n < 146 ∨ crc32 (bs.take (n - 4)) ≠ le bs (n - 4) 4 then .error .fcs
  else
    let sec := (bs.take (n - 20)).drop 28
    let pn := recoverPn (ofBe ((bs.drop 16).take 4)) x.rxPn
    match x.sak with
    | none => .ok (sec, pn)
    | some key =>
      if pn < x.rxPn.toNat ∨ (Config.xpnIcv key pn (bs.take (n - 20))).toNat ≠ le bs (n - 20) 16 then .error .icv
      else .ok ((List.range sec.length).map (fun i => sec.getD i 0 ^^^ Config.xpnStream key pn i), pn)

/-- The shim and the flits of a frame's plain bytes, once the checks of R293 and of the shim pass. -/
def parseFrame (s : State) (f : Nat) (p : List Byte) : Except FrameBad Frame :=
  let at_ (off n : Nat) : List Byte := (p.drop (off - 28)).take n
  let n := le p (79 - 28) 1
  let kind := le p (78 - 28) 1 / 16
  let port := beBytes 2 (fld (s.udpCfg f) 63 48)
  let bad := at_ 28 2 != [0x86, 0xDD] || at_ 36 1 != [17] || at_ 54 16 != s.ipAddr f 0x48 || at_ 38 16 != s.ipAddr f 0x58 ||
    at_ 72 2 != port || at_ 70 2 != port || le p (78 - 28) 1 % 16 != 1 || decide (kind > 3) || p.length != 98 + 64 * n ||
    (kind == 0 && (n == 0 || decide (n > fld (s.udpCfg f) 21 14))) || (kind == 3 && (n == 0 || decide (n > 2))) || ((kind == 1 || kind == 2) && n != 0)
  if bad then .error .malformed
  else
    let kinds := le p (94 - 28) 32
    .ok ⟨kind, BitVec.ofNat 32 (le p (82 - 28) 4), BitVec.ofNat 32 (le p (86 - 28) 4),
      (List.range n).map fun i => (kinds / 4 ^ i % 4, toBlock (at_ (126 + 64 * i) 64))⟩

/-- A frame arrives on a hall port: it is opened and parsed, or counted and discarded; a good frame of the kind acts. -/
def onFrame (f kind : Nat) (bs : List Byte) (act : Frame → State → State) (s : State) : State :=
  let x := s.port f
  if portClass f ≠ 2 ∨ !x.linked then s
  else match openFrame x bs with
    | .error .fcs => s.onPort f fun x => { x with crcErrs := satAdd x.crcErrs 1 }
    | .error .icv => s.onPort f fun x => { x with authErrs := satAdd x.authErrs 1 }
    | .error .malformed => countMalformed f s
    | .ok (p, pn) =>
      match parseFrame s f p with
      | .error _ => countMalformed f s
      | .ok fr =>
        if fr.kind ≠ kind then s
        else act fr (s.onPort f fun x => { x with heard := s.clk, rxPn := if x.sak.isSome then BitVec.ofNat 64 (pn + 1) else x.rxPn })

/-- An acknowledgement of frames (R294): the frames before it are freed. -/
def ackFrames (f : Nat) (n : W32) (s : State) : State :=
  let x := s.port f
  let old := x.txFrame - BitVec.ofNat 32 x.frames.length
  let d := (n - old).toNat
  if d = 0 ∨ d > x.frames.length then s
  else s.onPort f fun x => { x with frames := x.frames.drop d, ackAt := s.clk, sent := x.sent.filter fun p => p.last.all fun l => decide ((l - old).toNat > d) }

/-- Resends the frames from a sequence number on, each secured anew (R294). -/
def resendFrames (f : Nat) (n : W32) (s : State) : State :=
  let x := s.port f
  let old := x.txFrame - BitVec.ofNat 32 x.frames.length
  let d := (n - old).toNat
  if d > x.frames.length then s
  else
    let fs := x.frames.drop d
    let s := s.onPort f fun x => { x with replays := satAdd x.replays 1, ackAt := s.clk }
    (List.range fs.length).foldl (fun s i => sendFrame f 0 (n + BitVec.ofNat 32 i) (fs.getD i []) s) s

/-- One flit of an accepted frame. -/
def frameFlit (f : Nat) (e : Nat × Block) (s : State) : State :=
  if e.1 = 0 then s else if e.1 = 1 then ctlFlitIn f e.2 s else rxFlit f e.1 e.2 s

/-- HALL_DATA_FRAME (R294): accepted in sequence, or NAKed at most once per µs; a frame seen before is acknowledged again. -/
def execHallDataFrame (port : PortIx) (f : List Byte) (s : State) : Host.Outcome State Fault Refusal :=
  .next (onFrame port 0 f (fun fr s =>
    let s := ackFrames port fr.ack s
    let x := s.port port
    let d := (fr.seq - x.rxFrame).toNat
    if d = 0 then
      fr.flits.foldl (fun s e => frameFlit port e s) (s.onPort port fun x => { x with rxFrame := x.rxFrame + 1, ackDue := true })
    else if d ≥ 2 ^ 31 then s.onPort port fun x => { x with ackDue := true }
    else if (match x.nakAt with | some t => decide (s.clk - t < 1000) | none => false) then s
    else sendFrame port 2 0 [] (s.onPort port fun x => { x with nakAt := some s.clk })) s)

/-- HALL_ACK_FRAME (R294). -/
def execHallAckFrame (port : PortIx) (f : List Byte) (s : State) : Host.Outcome State Fault Refusal :=
  .next (onFrame port 1 f (fun fr s => ackFrames port fr.ack s) s)

/-- HALL_NAK_FRAME (R294): frames are resent from the sequence requested. -/
def execHallNakFrame (port : PortIx) (f : List Byte) (s : State) : Host.Outcome State Fault Refusal :=
  .next (onFrame port 2 f (fun fr s => resendFrames port fr.ack (ackFrames port fr.ack s)) s)

/-- HALL_TRAIN_FRAME (R281, R294): card flits. -/
def execHallTrainFrame (port : PortIx) (f : List Byte) (s : State) : Host.Outcome State Fault Refusal :=
  .next (onFrame port 3 f (fun fr s => fr.flits.foldl (fun s e =>
    if e.1 = 1 ∧ [4, 5, 6].contains (byteFld e.2 0 1) then ctlFlitIn port e.2 s else s) s) s)

/-- HALL_RTO (R294). -/
def execHallRto (port : PortIx) (s : State) : Host.Outcome State Fault Refusal :=
  .next (let x := s.port port
    if portClass port = 2 ∧ s.isLive port ∧ !x.frames.isEmpty ∧ s.clk - x.ackAt ≥ fld (s.udpCfg port) 13 6 * 1000
    then resendFrames port (x.txFrame - BitVec.ofNat 32 x.frames.length) s else s)

/-- A SAK is installed on a hall port (R479, R288); a port that waits for it runs. -/
def installSak (f key : Nat) (s : State) : State :=
  let s := s.onPort f fun x => { x with sak := some key, sakAt := s.clk, pn := 1, rxPn := 1 }
  match (s.port f).st, (s.port f).target with
  | .check, some st => runPort f st s
  | _, _ => s

/-- MKA_FRAME (R479): on a port with a CAK, MKA answers the frame, if it does, and installs the SAK that the frame distributes, if it does (log 37). -/
def execMkaFrame (port : PortIx) (f : List Byte) (s : State) : Host.Outcome State Fault Refusal :=
  .next (if portClass port ≠ 2 ∨ !(s.port port).linked then s
    else match find? s.sec.cak (portIx port) with
      | none => s
      | some cak =>
        let s := match Config.mkaAnswer cak f with
          | some a => s.emit (.frame port a)
          | none => s
        match Config.mkaSak cak f with
        | some key => installSak port key s
        | none => s)

/-- SAK_TIMEOUT (R479): 6 s after CARD no SAK is installed. -/
def execSakTimeout (port : PortIx) (s : State) : Host.Outcome State Fault Refusal :=
  .next (let x := s.port port
    if portClass port = 2 ∧ (x.st = .card ∨ x.st = .check) ∧ x.sak.isNone ∧ s.clk - x.sakAt ≥ 6000000000 then failPort port 5 s else s)

/-- SAK_REKEY (R479): near packet number 2^62 a new SAK, drawn by the key server, is distributed and installed. -/
def execSakRekey (port : PortIx) (s : State) : Host.Outcome State Fault Refusal :=
  .next (let x := s.port port
    if portClass port = 2 ∧ x.sak.isSome ∧ s.isLive port then
      let (n, s) := s.draw
      let key := (Config.freeWord n).toNat
      let s := match find? s.sec.cak (portIx port) with
        | some cak => s.emit (.frame port (Config.mkaFrame cak (some key) s.clk))
        | none => s
      installSak port key s
    else s)

/-- PTP_MESSAGE (R295): the message is timestamped and answered, if it is answered; the best master clock algorithm may choose its port to receive time; and
a message of the chosen port gives the source of hall time a sample, with the path's delay. What the standard computes is free (log 38). -/
def execPtpMessage (port : PortIx) (f : List Byte) (s : State) : Host.Outcome State Fault Refusal :=
  .next (if portClass port ≠ 2 ∨ !(s.port port).linked then s
    else
      let s := s.onPort port fun x => { x with ptpAt := some s.hall }
      let s := match Config.ptpAnswer port s.clk f with
        | some a => s.emit (.frame port a)
        | none => s
      let (c, s) := s.draw
      let s := if Config.freeBit c then s.onFab fun b => { b with timePort := some port.val } else s
      if s.timSource = 1 ∧ s.fab.timePort = some port.val then
        let (n, s) := s.draw
        let (m, s) := s.draw
        servoSample (Config.freeWord n).toInt (s.onPort port fun x => { x with delay := BitVec.ofNat 32 (Config.freeWord m).toNat })
      else s)

end Sys2Proof.Machine
end

