-- ==== Sys2Proof/Machine/Remote.lean ====
section
/-! DEFINITION. The requesting side of remote operations: windows, tags, ordered flows, issue, replies and losses (R344 to R353, R313, R314). -/

namespace Sys2Proof.Machine

/-! ### Windows -/

/-- Kind of a window: 0 memory, 1 peg range (Table Rem-1). -/
def winKind (w : BitVec 256) : Nat := fld w 5 4
/-- Rights: READ, WRITE, ATOMIC, PEG. -/
def winRights (w : BitVec 256) : Nat := fld w 11 8
/-- Partition key of the target. -/
def winKey (w : BitVec 256) : Nat := fld w 31 16
/-- Peer device ID. -/
def winPeer (w : BitVec 256) : Nat := fld w 51 32
/-- Base, or first peg. -/
def winBase (w : BitVec 256) : Nat := fld w 127 64
/-- Size, or peg count. -/
def winSize (w : BitVec 256) : Nat := fld w 191 128

/-- The handle of a remote-operation command. -/
def remHandle (k : Block) : Nat := op k 32 2 % 2 ^ 12

/-- Reserved fields of a window record. -/
def winRsv : List Rsv := [rbits 0 7 6, rbits 1 7 4, rbits 4 31 20, rb 28 4]

/-- The checks of R345, with the bits of the base that its kind reserves (R347). -/
def winVals (self : Nat) (bs : List Byte) : List (Nat × Bool) :=
  let kind := le bs 0 1 / 16 % 4
  let rights := le bs 1 1 % 16
  let base := le bs 8 8
  let size := le bs 16 8
  [(0, decide (kind ≥ 2)),
   (1, (kind == 0 && (rights.testBit 3 || (rights.testBit 2 && base.testBit 0))) || (kind == 1 && rights % 8 != 0)),
   (4, le bs 4 4 % 2 ^ 20 / 64 != self / 64),
   (8, kind == 0 && base / 2 % 4 != 0),
   (9, kind == 1 && decide (base ≥ 2 ^ 14)),
   (16, size == 0 || (kind == 0 && size % 8 != 0) || (kind == 1 && decide (size > 16384)))]

/-- REM_WIN_INSTALL (R344, R345). -/
def execRemWinInstall (c : CmdRef) (s : State) : Host.Outcome State Fault Refusal :=
  .next (wholeCmd c 0x0610 (fun k p s => do
    let bs ← cmdBlock c p (addr154 (op k 40 8)) 32 0x14 0 winRsv (winVals s.selfId) s
    .ok { s := s.onRem fun r => { r with windows := put r.windows (remHandle k) (BitVec.ofNat 256 (ofBytes bs)) } }) s)

/-- REM_WIN_REMOVE (R344). -/
def execRemWinRemove (c : CmdRef) (s : State) : Host.Outcome State Fault Refusal :=
  .next (wholeCmd c 0x0611 (fun k _ s => .ok { s := s.onRem fun r => { r with windows := del r.windows (remHandle k) } }) s)

/-! ### The checks of the sender (R346) -/

/-- The right an operation needs: bit of the rights field. -/
def neededRight (o : Nat) : Nat :=
  match o with
  | 0x0600 => 1
  | 0x0601 => 0
  | 0x0604 => 3
  | _ => 2

/-- The bytes an operation covers in its window: a put or get its length, an atomic operation one word, a signal one peg. -/
def remLength (k : Block) : Nat :=
  match opcode k with
  | 0x0600 => op k 36 3
  | 0x0601 => op k 36 3
  | 0x0604 => 1
  | _ => 8

/-- Byte offset of the command field at fault, if one is (R346). A signal whose peg number would exceed 16,383 is at fault in its offset (log 39). -/
def windowFault (w : Option (BitVec 256)) (k : Block) : Option Nat :=
  match w with
  | none => some 32
  | some w =>
    let off := op k 40 8
    let n := remLength k
    let peg := opcode k == 0x0604
    if !(winRights w).testBit (neededRight (opcode k)) then some 32
    else if !peg && off % 8 != 0 then some 40
    else if !peg && n % 8 != 0 then some 36
    else if off + n > winSize w ∨ (peg ∧ winBase w + off ≥ 2 ^ 14) then some 40
    else none

/-! ### Tags -/

/-- A tag may be taken: it is free and was not freed within the last microsecond (R352). -/
def State.tagFree (s : State) (t : Nat) : Bool :=
  (find? s.rem.tags t).isNone && (match find? s.rem.freedAt t with
    | none => true
    | some at_ => decide (s.clk - at_ ≥ 1000))

/-- A free tag; which one is not given (log 4). -/
def State.freeTag (s : State) : Option Nat := scan s.tagFree 65536 (Config.allocHint s.draws) 65536

/-- Takes a tag: its incarnation advances (R353). -/
def takeTag (t : Nat) (s : State) : W16 × State :=
  let i := getD s.rem.incs t 0 + 1
  (i, { s with draws := s.draws + 1, rem := { s.rem with incs := put s.rem.incs t i } })

/-- Frees a tag. -/
def dropTag (t : Nat) (s : State) : State :=
  s.onRem fun r => { r with tags := del r.tags t, freedAt := put r.freedAt t s.clk }

/-- The job of a command. -/
def State.job (s : State) (c : CmdRef) : Option RemJob := pick (fun j => j.cmd == c) s.rem.jobs

/-- Changes the job of a command. -/
def updJob (c : CmdRef) (f : RemJob → RemJob) (s : State) : State :=
  s.onRem fun r => { r with jobs := r.jobs.map fun j => if j.cmd = c then f j else j }

/-- Notes a failure at an offset of a job; the lowest offset stands (R358). -/
def failAt (off : Nat) (e : Err) (j : RemJob) : RemJob :=
  match j.fail with
  | some (o, _) => if off < o then { j with fail := some (off, e) } else j
  | none => { j with fail := some (off, e) }

/-! ### Requests -/

/-- The request for the part of a command that begins at `off` and has n bytes (Table Rem-3, Table Rem-4). -/
def request (s : State) (j : RemJob) (k : Block) (t : Nat) (inc : W16) (off n : Nat) (data : List Byte) : Packet :=
  let addr := winBase j.win + op k 40 8 + off
  let torn := (48, 1, b2n (flagTorn k))
  let mk (ty : Nat) (th : List (Nat × Nat × Nat)) (bs : List Byte) : Packet :=
    mkPacket s.selfId j.peer ty 2 (flagLc k) (flagOrdered k) (winKey j.win) t
      ([(40, 4, s.hallUs.toNat), (44, 2, inc.toNat), torn] ++ th) bs
  match opcode k with
  | 0x0600 => mk 0x01 [(32, 8, addr)] data
  | 0x0601 => mk 0x02 [(32, 8, addr), (46, 2, n / 8)] []
  | 0x0602 => mk 0x03 [(32, 8, addr), (49, 1, op k 56 1), (50, 1, op k 57 1), (56, 8, op k 48 8)] []
  | 0x0603 => mk 0x04 [(32, 8, addr), (56, 8, op k 48 8)] (toBytes 8 (op k 56 8))
  | _ => mk 0x05 [(52, 2, winBase j.win + op k 40 8), (56, 8, op k 48 8)] []

/-! ### Ordered flows (R313, R314) -/

/-- A flow enters REPATH. Requests of LC held in it break the LC deadlines, once a flow (Table Part-6). -/
def enterRepath (i : Nat) (s : State) : State := updFlow i ({ · with repath := true }) s

/-- A new request of a flow may be issued; a change of path while requests are outstanding begins REPATH (R313, R314). -/
def admitFlow (k : Packet) (s : State) : Bool × State :=
  if !k.ordered then (true, s)
  else
    let i := flowOf k
    let f := s.flow i
    let p := pathKey s k
    if f.repath then (false, s)
    else if f.open_ = [] ∨ f.path = p then (true, updFlow i ({ · with path := p }) s)
    else (false, enterRepath i s)

/-- LC requests of a partition are held in REPATH towards a peer (R433). -/
def repathBreach (p peer : Nat) (s : State) : State :=
  if s.par.breaches.any fun b => b.cause == 2 && b.part == p && b.detail.toNat == peer then s else openBreach p 5 3 2 none peer s

/-- The requests of some tags that are not admitted are withdrawn (R333). -/
def withdrawReqs (ts : List Nat) (s : State) : State :=
  let mine (k : Packet) : Bool := k.cls == 2 && k.src == s.selfId && ts.contains k.tag
  s.onFab fun b => { b with
    waiting := b.waiting.filter fun e => !(e.withdrawable && mine e.q.k)
    heldTx := b.heldTx.filter fun e => !mine e.2.2 }

/-- Issues a request again with its tag and incarnation, and a new issue time (R314, R349, R355). -/
def resend (t : Nat) (s : State) : State :=
  match find? s.rem.tags t with
  | none => s
  | some x =>
    let k := x.k.set 40 4 s.hallUs.toNat
    sendPacket ((s.job x.cmd).map (·.part)) k (withdrawReqs [t] (s.onRem fun r => { r with tags := put r.tags t { x with k := k, at_ := s.clk } }))

/-- A flow leaves REPATH when each outstanding request is declared lost: those are resent in issue order on the new path (R314). -/
def settleFlow (i : Nat) (s : State) : State :=
  let f := s.flow i
  if f.repath && f.open_.all f.lost.contains then
    let p := match f.open_ with
      | t :: _ => match find? s.rem.tags t with
        | some x => pathKey s x.k
        | none => f.path
      | [] => f.path
    let s := updFlow i ({ · with repath := false, lost := [], path := p }) s
    let s := closeBreaches (fun b => b.cause == 2 && b.detail.toNat == i / 2 ^ 16) s
    f.open_.foldl (fun s t => resend t s) s
  else s

/-! ### Issuing a command's requests (R349, R352) -/

/-- A job has issued every request and every reply has come: its command ends (R358). -/
def finishJob (c : CmdRef) (s : State) : State :=
  match s.job c with
  | none => s
  | some j =>
    if (j.halted || decide (j.next ≥ j.total)) && !s.rem.tags.any (fun e => e.2.cmd == c) then
      let s := s.onRem fun r => { r with jobs := r.jobs.filter fun x => x.cmd != c }
      let put := match s.inflight c with
        | some i => opcode i.pkt == 0x0600 || opcode i.pkt == 0x0601
        | none => false
      let res := if put then j.good else j.result.toNat
      match j.fail with
      | some (_, e) => endCmd c e.st res e.det s
      | none => endCmd c .ok res 0 s
    else s

/-- The data of a put's next request, read from the partition's own memory; nothing for any other operation. -/
def putData (c : CmdRef) (p : Nat) (k : Block) (off n : Nat) (s : State) : Except Err (List Byte) :=
  let a := addr347 (op k 48 8)
  if opcode k = 0x0600 then cmdRead c p ⟨a.tiered, a.a + off⟩ n s else .ok []

/-- A put read a torn plank under ACCEPT_TORN (R388). -/
def putTorn (p : Nat) (k : Block) (off n : Nat) (s : State) : Bool :=
  let a := addr347 (op k 48 8)
  opcode k == 0x0600 && s.rangeTorn p a.tiered (a.a + off) n

/-- Issues requests of a command in ascending offset until it has no more, no tag is free, or its flow holds them. -/
def issueJob (c : CmdRef) : (fuel : Nat) → State → State
  | 0, s => s
  | fuel + 1, s =>
    match s.job c, s.inflight c with
    | some j, some i =>
      if j.halted ∨ j.next ≥ j.total then s
      else
        let n := min 4096 (j.total - j.next)
        match putData c j.part i.pkt j.next n s with
        | .error e => updJob c (fun j => { failAt j.next e j with halted := true }) s
        | .ok data =>
          match s.freeTag with
          | none => s
          | some t =>
            let k := request s j i.pkt t (getD s.rem.incs t 0 + 1) j.next n data
            match admitFlow k s with
            | (false, s) => if k.lc then repathBreach j.part j.peer s else s
            | (true, s) =>
              let s := (takeTag t s).2
              let s := noteTorn c (putTorn j.part i.pkt j.next n s) s
              let a := addr347 (op i.pkt 48 8)
              let s := if opcode i.pkt = 0x0600 then chargeCmd c j.part ⟨a.tiered, a.a + j.next⟩ n s else s
              let s := s.onRem fun r => { r with tags := put r.tags t ⟨c, j.next, n, k, s.clk⟩ }
              let s := if k.ordered then updFlow (flowOf k) (fun f => { f with open_ := f.open_ ++ [t] }) s else s
              issueJob c fuel (sendPacket (some j.part) k (updJob c ({ · with next := j.next + n }) s))
    | _, _ => s

/-- The most requests one command has (R348). -/
def maxRequests : Nat := 4097

/-- Every command at work goes on as far as it can. -/
def pumpJobs (s : State) : State :=
  s.rem.jobs.foldl (fun s j => finishJob j.cmd (issueJob j.cmd maxRequests s)) s

/-- A remote operation begins, or goes on after it had to wait for a tag (R346, R349, R352). -/
def remoteCmd (c : CmdRef) (o : Nat) (s : State) : Host.Outcome State Fault Refusal :=
  .next <|
    match s.job c with
    | some _ => pumpJobs s
    | none => beginCmd c o (fun k p s =>
        let w := find? s.rem.windows (remHandle k)
        match windowFault w k, w with
        | none, some w =>
          .ok (pumpJobs (s.onRem fun r => { r with jobs := r.jobs ++ [{ cmd := c, part := p, peer := winPeer w, win := w, total := remLength k }] }))
        | some off, _ => .error (accessErr off)
        | none, none => .error (accessErr 32)) s

/-- REM_PUT (R349). -/
def execRemPut (c : CmdRef) (s : State) : Host.Outcome State Fault Refusal := remoteCmd c 0x0600 s
/-- REM_GET (R349). -/
def execRemGet (c : CmdRef) (s : State) : Host.Outcome State Fault Refusal := remoteCmd c 0x0601 s
/-- REM_FADD (R348). -/
def execRemFadd (c : CmdRef) (s : State) : Host.Outcome State Fault Refusal := remoteCmd c 0x0602 s
/-- REM_CAS (R348). -/
def execRemCas (c : CmdRef) (s : State) : Host.Outcome State Fault Refusal := remoteCmd c 0x0603 s
/-- REM_PEG (R348). -/
def execRemPeg (c : CmdRef) (s : State) : Host.Outcome State Fault Refusal := remoteCmd c 0x0604 s

/-! ### Replies (R351 to R353) -/

/-- Counts a stale request or reply. -/
def countStale (s : State) : State := s.onRem fun r => { r with stale := satAdd r.stale 1 }

/-- A request is settled: its tag is freed, its flow goes on, and so do the commands at work. -/
def settleTag (t : Nat) (x : Tag) (s : State) : State :=
  let s := dropTag t s
  let s := if x.k.ordered then
      settleFlow (flowOf x.k) (updFlow (flowOf x.k) (fun f => { f with open_ := f.open_.erase t, lost := f.lost.erase t }) s)
    else s
  finishJob x.cmd (pumpJobs s)

/-- The data of a get reach their destination; a reply of another length than was asked for is an integrity failure. -/
def landGet (x : Tag) (data : List Byte) (s : State) : Except Err State × State :=
  match s.inflight x.cmd with
  | none => (.ok s, s)
  | some i =>
    let a := addr347 (op i.pkt 48 8)
    if data.length ≠ x.len then (.error (integrity 0x09 5 0), s)
    else match cmdWrite x.cmd (s.cmdPart x.cmd) ⟨a.tiered, a.a + x.off⟩ data s with
      | (s', _, some e) => (.error e, s')
      | (s', _, none) => (.ok s', s')

/-- Applies a reply to its tag, or discards it as stale (R353, R358). -/
def applyReply (k : Packet) (s : State) : State :=
  match find? s.rem.tags k.tag with
  | none => countStale s
  | some x =>
    if x.k.f 44 2 ≠ k.f 34 2 then countStale s
    else
      let st := Status.ofCode (k.f 32 1)
      let e : Err := ⟨st, k.f 36 4⟩
      let result := BitVec.ofNat 64 (k.f 40 8)
      let s :=
        if st = .ok then
          let s := noteTorn x.cmd ([2, 3, 4].contains x.k.ty && bit (BitVec.ofNat 32 (k.f 36 4)) 31) s
          match (if x.k.ty = 2 then landGet x k.payload s else (.ok s, s)) with
          | (.error e, s) => updJob x.cmd (failAt x.off e) s
          | (.ok _, s) => updJob x.cmd (fun j => { j with good := j.good + x.len, result := result }) s
        else updJob x.cmd (fun j => { failAt x.off e j with result := result }) s
      settleTag k.tag x s

/-- ACK (R351, R353). -/
def execAck (k : Packet) (s : State) : Host.Outcome State Fault Refusal := takeData 0x10 k (applyReply k) s
/-- GET_DATA (R351, R353). -/
def execGetData (k : Packet) (s : State) : Host.Outcome State Fault Refusal := takeData 0x11 k (applyReply k) s

/-! ### Lost requests -/

/-- A request is declared lost (R314, R355): one of an ordered flow puts it in REPATH and is resent with the others, any other is resent at once. -/
def declareLost (t : Nat) (s : State) : State :=
  match find? s.rem.tags t with
  | none => s
  | some x =>
    if x.k.ordered then
      let i := flowOf x.k
      pumpJobs (settleFlow i (updFlow i (fun f => { f with repath := true, lost := f.lost ++ (if f.lost.contains t then [] else [t]) }) s))
    else resend t s

/-- E2E_TIMEOUT (R314): a reply is late, the request is declared lost, and its peer suspected of NO_REPLY (R462). -/
def execE2eTimeout (tag : BitVec 16) (s : State) : Host.Outcome State Fault Refusal :=
  .next <|
    match find? s.rem.tags tag.toNat with
    | none => s
    | some x =>
      if s.clk - x.at_ < fld (s.reg 0x0D000008) 9 0 * 1000 then s
      else declareLost tag.toNat (suspect x.k.dest 2 s)

/-! ### Commands that end early -/

/-- The jobs that satisfy a predicate are dropped and their tags freed; a flow keeps none of their requests. -/
def dropJobs (sel : RemJob → Bool) (s : State) : State :=
  let gone := (s.rem.jobs.filter sel).map (·.cmd)
  let ts := s.rem.tags.filter fun e => gone.contains e.2.cmd
  let s := withdrawReqs (ts.map (·.1)) (s.onRem fun r => { r with jobs := r.jobs.filter fun j => !sel j })
  ts.foldl (fun s e =>
    let s := dropTag e.1 s
    if e.2.k.ordered then
      settleFlow (flowOf e.2.k) (updFlow (flowOf e.2.k) (fun f => { f with open_ := f.open_.erase e.1, lost := f.lost.erase e.1 }) s)
    else s) s

/-- The commands to a device end with a status, all of them or those with a request outstanding; no further packet of them is sent (R358, R453, R457). -/
def endToPeer (all : Bool) (peer : Nat) (e : Err) (s : State) : State :=
  let sel (j : RemJob) : Bool := j.peer == peer && (all || s.rem.tags.any fun t => t.2.cmd == j.cmd)
  let cs := (s.rem.jobs.filter sel).map (·.cmd)
  cs.foldl (fun s c => failCmd c e s) (dropJobs sel s)

end Sys2Proof.Machine
end

