-- ==== Sys2Proof/Machine/FabricCtl.lean ====
section
/-! DEFINITION. Register operations of routing and scheduling: drain and switch (R315 to R317), shapers (R338), queue sampling (R340), telemetry (R343). -/

namespace Sys2Proof.Machine

/-- Only the PF writes a register of the fabric blocks (R515). -/
def pfOnly (fn off : Nat) (act : State → State) (s : State) : State := if fn = 0 then act s else logWrite fn 5 off s

/-- A command sends REQ or COLL packets: Dovetail dispatch, the Purlin, remote operations. -/
def sendsPackets (k : Block) : Bool := [4, 5, 6].contains (opcode k / 256)

/-- The partitions with an LC command whose packets a drain holds (R318). -/
def State.lcSenders (s : State) : List Nat :=
  (List.range 8).filter fun p => (s.openCmds p).any fun e => flagLc e.2.pkt && sendsPackets e.2.pkt

/-- A REQ or COLL packet that this device queued at an adapter and of which nothing has been admitted (R333). -/
def unadmitted (e : Crossing) : Bool := e.withdrawable && decide (e.q.k.cls ≥ 2)

/-- A packet that goes out on its port whatever the routes: a message to a switch's reduction memory (R305). -/
def fixedPort (e : Crossing) : Option Nat := if e.q.k.ty = 0x20 ∧ e.q.k.f 33 1 / 2 % 16 = stSw then some e.dst else none

/-- The engines withdraw their packets that are not admitted, and the packets wait at the source (R316, R333). -/
def withdraw (b : FabState) : FabState :=
  { b with
    waiting := b.waiting.filter fun e => !unadmitted e
    heldTx := b.heldTx ++ (b.waiting.filter unadmitted).map fun e => (e.q.shaper.map (· / 6), fixedPort e, e.q.k) }

/-- The packets held at ingress are taken up again, each by its epoch in the device's present state (R315). -/
def takeHeld (s : State) : State :=
  s.fab.held.foldl (fun s e => byEpoch e.1 e.2 s) (s.onFab fun b => { b with held := [] })

/-- DRAIN_BEGIN (R316): the device moves to DRAIN, from SWITCH pending too, and then no switch is pending for what waited for it. -/
def drainBegin (s : State) : State :=
  if s.fab.drain = 1 then s
  else
    let lc := (s.fab.waiting.filter fun e => unadmitted e && e.q.k.lc).filterMap fun e => e.q.shaper
    let s := s.onFab fun b => { withdraw b with drain := 1, drainAt := s.clk }
    takeHeld ((s.lcSenders ++ lc.map (· / 6)).foldl (fun s p => drainBreach p s) s)

/-- DRAIN_BEGIN. -/
def execDrainBegin (s : State) : Host.Outcome State Fault Refusal := .next (drainBegin s)

/-- The device returns to RUN: the breaches of the drain close, the waiting packets go out, and a flow whose path has changed settles once nothing of it is
on the old one (R314). -/
def drainOver (s : State) : State :=
  let s := releaseHeld (closeBreaches (fun b => b.cause == 1) (s.onFab fun b => { b with drain := 0 }))
  s.fab.flows.foldl (fun s e => settleFlow e.1 s) s

/-- DRAIN_END (R316): the device returns to RUN under the current epoch; what waited at ingress for the switch is taken up (R315). -/
def drainEnd (s : State) : State := if s.fab.drain = 0 then s else takeHeld (drainOver s)

/-- DRAIN_END. -/
def execDrainEnd (s : State) : Host.Outcome State Fault Refusal := .next (drainEnd s)

/-- SWITCH (R316): accepted only in DRAIN with a newer staged epoch; otherwise dropped and logged. -/
def armSwitch (s : State) : State :=
  if s.fab.drain = 1 ∧ newer (BitVec.ofNat 16 s.stagedEpoch) s.fab.epoch then s.onFab fun b => { b with drain := 2 }
  else logWrite 0 7 0x0D000018 s

/-- SWITCH. -/
def execSwitch (s : State) : Host.Outcome State Fault Refusal := .next (armSwitch s)

/-- The staged table registers of Table Route-1: bent, cube, hall, hall direction and job entries. -/
def isTable (off : Nat) : Bool :=
  off == 0x0D000030 || (decide (0x0D000100 ≤ off) && decide (off < 0x0D000130)) || (decide (0x0D000200 ≤ off) && decide (off < 0x0D000280)) ||
  (decide (0x0D000400 ≤ off) && decide (off < 0x0D000600)) || (decide (0x0D010000 ≤ off) && decide (off < 0x0D014000))

/-- The switch takes effect (R299, R316): every staged table becomes current under the staged epoch. -/
def doSwitch (s : State) : State :=
  let e : W16 := BitVec.ofNat 16 s.stagedEpoch
  let s := s.onFab fun b =>
    { b with current := s.csr.filter (fun c => isTable c.1), epoch := e, ports := b.ports.map fun p => (p.1, { p.2 with upThisEpoch := p.2.st == .up }) }
  takeHeld (drainOver (countWiring allPorts s))

/-- SWITCH_TIME_REACHED (R316). -/
def execSwitchTimeReached (s : State) : Host.Outcome State Fault Refusal :=
  .next (if s.fab.drain = 2 ∧ s.hall.toNat ≥ (s.reg 0x0D000020).toNat then doSwitch s else s)

/-- held (R317): the packets that are not CTRL in queues, reassembly slots, replay buffers and transit buffers. -/
def State.heldCount (s : State) : Nat :=
  let n (ks : List Packet) : Nat := (ks.filter fun k => k.cls != 0).length
  n (s.fab.held.map (·.2)) + n ((s.fab.inbox.filter fun e => e.1 < 64).map (·.2)) + n (s.fab.waiting.map (·.q.k)) +
  n ((s.fab.middle.map (·.2.2) ++ s.fab.arrived).filterMap fun x => x.whole.map (·.k)) +
  (s.fab.ports.map fun e => n (e.2.queue.map (·.k)) + n (e.2.sent.map (·.k)) + n e.2.partials).sum

/-- SNAP (R317). -/
def snapDrain (s : State) : State := s.onFab fun b => { b with snap := (BitVec.ofNat 32 s.heldCount, b.rx), rx := 0 }

/-- SNAP. -/
def execSnap (s : State) : Host.Outcome State Fault Refusal := .next (snapDrain s)

/-- SHAPER_ELIGIBLE (R338): the first cycle of the calendar slot is reached. -/
def execShaperEligible (sh : Fin 48) (s : State) : Host.Outcome State Fault Refusal :=
  .next (match (s.shaper sh).slot with
    | some t => if s.trsNow ≥ 16 * t then
        s.onFab fun b => { b with shapers := upd b.shapers sh {} fun x => { shaperUpdate (s.shaperCfg sh) s.trsNow x with slot := none } } else s
    | none => s)

/-- The age of the oldest packet of a VC at a port [ns]. -/
def State.vcAge (s : State) (f v : Nat) : Nat := ((s.port f).queue.filter fun q => q.vc == v).foldl (fun m q => max m (s.clk - q.at_)) 0

/-- QSAMPLE_PERIOD (R340): every egress VC is sampled once the period has passed. -/
def execQsamplePeriod (s : State) : Host.Outcome State Fault Refusal :=
  .next <|
    if s.trsNow - 2 * s.fab.sampledAt < 2 ^ fld (s.reg 0x08000500) 4 0 then s
    else
      let m := allPorts.foldl (fun m f => (List.range 20).foldl (fun m v =>
        let d : W16 := BitVec.ofNat 16 (min ((s.port f).depth v) 65535)
        let a : W16 := BitVec.ofNat 16 (min (s.vcAge f v) 65535)
        let o := getD m (f * 32 + v) {}
        let x : QSample := ⟨if o.maxDelay.toNat < a.toNat then a else o.maxDelay, a, if o.maxDepth.toNat < d.toNat then d else o.maxDepth, d⟩
        if x = o then m else put m (f * 32 + v) x) m) s.fab.qsample
      s.onFab fun b => { b with qsample := m, sampledAt := s.clk }

/-- clr of TRS_QSAMPLE_CFG (R340): every max field is cleared. -/
def qsampleClear (s : State) : State :=
  s.onFab fun b => { b with qsample := b.qsample.map fun e => (e.1, { e.2 with maxDelay := 0, maxDepth := 0 }), egressMax := [] }

/-- QSAMPLE_CLEAR. -/
def execQsampleClear (s : State) : Host.Outcome State Fault Refusal := .next (qsampleClear s)

/-- A write of TEL_HDR_CFG (R341, R343): enabling a direction seeds its LFSRs and zeroes prod and dropped. -/
def setTelCfg (v : W64) (s : State) : State :=
  let old := s.reg 0x09000000
  let v : W64 := BitVec.ofNat 64 (fld v 38 0)
  let ing := bit v 37 && !bit old 37
  let egr := bit v 38 && !bit old 38
  let s := s.setReg 0x09000000 v
  if !(ing || egr) then s
  else
    let s := s.onFab fun b => { b with telProd := 0, telDropped := 0 }
    allPorts.foldl (fun s f => s.onPort f fun x =>
      { x with lfsrIn := if ing then BitVec.ofNat 16 (f + 1) else x.lfsrIn, lfsrOut := if egr then BitVec.ofNat 16 (f + 1) else x.lfsrOut }) s

/-- TEL_HDR_CFG_WRITE. -/
def execTelHdrCfgWrite (fn : Fn) (v : BitVec 64) (s : State) : Host.Outcome State Fault Refusal :=
  .next (barWrite fn 0x09000000 (pfOnly fn 0x09000000 (setTelCfg v)) s)

end Sys2Proof.Machine
end

