-- ==== Sys2Proof/Machine/Power.lean ====
section
/-! DEFINITION. The Brace, the brake, clock steps, the duty cap and the alert pin (R488 to R499). -/

namespace Sys2Proof.Machine

/-- PWR_CFG. -/
def State.pwrCfg (s : State) : W64 := s.reg 0x16000000

/-- The grade's CLK_ARR in 50 MHz units (R501). -/
def gradeClk : Nat := if Config.grade1800 then 36 else 40

/-- PWR_STATUS.clk_arr: CLK_ARR in 50 MHz units. -/
def State.clkArr (s : State) : Nat := gradeClk - s.pwr.stepsBelow

/-- clk_floor of PWR_CFG, in 50 MHz units. -/
def State.clkFloor (s : State) : Nat := fld s.pwrCfg 19 12

/-- A brake is requested: BRAKE_N, brake_sw, THERMTRIP_N or low VIN12 (R492, R497, R499). -/
def State.brakeRequest (s : State) : Bool := s.pwr.brakeN || bit s.pwrCfg 0 || s.pwr.thermtrip || s.pwr.vinBrake

/-- The device brakes: a request made during power-up holds from fw_ready onwards, any other at once (R507, R510). -/
def State.braking (s : State) : Bool :=
  s.brakeRequest && (s.pwr.fwReady || (s.pwr.lastReset != 0 && s.pwr.lastReset != 6))

/-- ALERT_N follows the status bits while alert_en is set (R498). -/
def settleAlert (s : State) : State :=
  let p := s.pwr
  let on := (p.limited || p.vinLow || p.thermtrip || p.unmet || p.hotspot) && bit s.pwrCfg 1
  if on = p.alert then s else (s.onPwr ({ · with alert := on })).emit (.pin "ALERT_N" (!on))

/-- braked clears when no request is left. -/
def settleBrake (s : State) : State := if s.brakeRequest then s else s.onPwr ({ · with braked := false })

/-! ### The Brace (R488) -/

/-- Work for the governed units is granted: launches, Dovetail steps, Planes (R487). -/
def governed (k : Block) : Bool := opcode k / 256 == 3 || opcode k / 256 == 4 || [0x02F0, 0x02F1, 0x02F2].contains (opcode k)

/-- One CLK_PWR cycle, with the work's g_full and demand, in units of 10 mA: T moves by at most 0.03 A; duty is in 64ths and burn in
64ths of 10 mA. The duty cap of R496 also caps the demand, so that T falls with it (log 65). -/
def braceCycle (gFull demand : Nat) (s : State) : State :=
  let t := s.pwr.target
  let cap := s.pwr.dutyCap
  let demand := min demand (cap * gFull / 64)
  let goal := if s.braking then 0 else max demand (100 * fld s.pwrCfg 27 20)
  let t := if goal > t then min goal (t + 3) else max goal (t - 3)
  let duty := if gFull = 0 then 0 else min cap (64 * min t demand / gFull)
  s.onPwr fun p => { p with target := t, duty := duty, burn := 64 * t - duty * gFull }

/-- BRACE_UPDATE (R488). The currents of the work are free values, at most the 60 A of R487, and zero when none is granted (log 66). -/
def execBraceUpdate (s : State) : Host.Outcome State Fault Refusal :=
  .next <|
    if !s.pwr.rails then s
    else
      let d := s.draw
      let g := if s.busyWith governed then (Config.freeWord d.1).toNat % 6001 else 0
      let e := d.2.draw
      braceCycle g ((Config.freeWord e.1).toNat % (g + 1)) e.2

/-! ### The brake (R492) -/

/-- BRAKE_N (R492): the pin asserts or releases the brake. -/
def execBrakeN (on : Bool) (s : State) : Host.Outcome State Fault Refusal := .next (settleBrake (s.onPwr ({ · with brakeN := on })))

/-- BRAKE_LEVEL_REACHED (R492). -/
def execBrakeLevelReached (s : State) : Host.Outcome State Fault Refusal :=
  .next (if s.braking then s.onPwr ({ · with braked := true }) else s)

/-! ### Limits (R493 to R499) -/

/-- HOTSPOT_N (R493): hot_limit applies while it is asserted. -/
def execHotspotN (on : Bool) (s : State) : Host.Outcome State Fault Refusal := .next (settleAlert (s.onPwr ({ · with hotspot := on })))

/-- The package power limit in force [W] (R493). -/
def State.powerLimit (s : State) : Nat := if s.pwr.hotspot then fld s.pwrCfg 39 28 else fld s.pwrCfg 51 40

/-- Nothing of the kind has happened within the last n ns. -/
def State.apart (s : State) (t : Option Nat) (n : Nat) : Bool :=
  match t with
  | none => true
  | some t => decide (s.clk - t ≥ n)

/-- CLOCK_STEP_DOWN (R494): one step of 50 MHz, at most one per 5 µs, never below clk_floor. -/
def execClockStepDown (s : State) : Host.Outcome State Fault Refusal :=
  .next <|
    if s.clkArr > s.clkFloor ∧ s.apart s.pwr.stepAt 5000 then
      settleAlert (s.onPwr fun p =>
        { p with stepsBelow := p.stepsBelow + 1, stepsDown := satAdd p.stepsDown 1, limited := true, stepAt := some s.clk })
    else s

/-- CLOCK_STEP_UP (R494, R496): one step, at most one per 100 µs, never above the grade, and only with the duty cap lifted. -/
def execClockStepUp (s : State) : Host.Outcome State Fault Refusal :=
  .next <|
    if s.pwr.stepsBelow > 0 ∧ s.pwr.dutyCap = 64 ∧ s.apart s.pwr.stepAt 100000 then
      s.onPwr fun p => { p with stepsBelow := p.stepsBelow - 1, stepAt := some s.clk }
    else s

/-- DUTY_CAP_STEP (R496): at clk_floor the cap moves by 1/64, at most once per 5 µs; a limit still exceeded at cap 0 is unmet. -/
def execDutyCapStep (up : Bool) (s : State) : Host.Outcome State Fault Refusal :=
  .next <|
    if !s.apart s.pwr.capAt 5000 then s
    else if up then
      settleAlert (s.onPwr fun p => { p with dutyCap := min 64 (p.dutyCap + 1), unmet := false, capAt := some s.clk })
    else if s.clkArr > s.clkFloor then s
    else if s.pwr.dutyCap = 0 then settleAlert (s.onPwr ({ · with unmet := true }))
    else s.onPwr fun p => { p with dutyCap := p.dutyCap - 1, capAt := some s.clk }

/-- THERMTRIP (R497): THERMTRIP_N asserts and the brake is held until power-on. -/
def execThermtrip (s : State) : Host.Outcome State Fault Refusal :=
  .next <|
    if s.pwr.thermtrip then s
    else settleAlert ((s.onPwr ({ · with thermtrip := true })).emit (.pin "THERMTRIP_N" false))

/-- VIN_LOW (R499): vin_low is set and the device brakes until VIN12 is back. -/
def execVinLow (s : State) : Host.Outcome State Fault Refusal :=
  .next (settleAlert (s.onPwr ({ · with vinLow := true, vinBrake := true })))

end Sys2Proof.Machine
end

