-- ==== Sys2Proof/Machine/Clamp.lean ====
section
/-! DEFINITION. The target of remote operations and the Clamp: checks, repeat filter, execution, combined reads, fetch-add groups and batches (R354 to R366). -/

namespace Sys2Proof.Machine

/-! ### Checks (R354) and the repeat filter (R355) -/

/-- REM_CFG. -/
def State.remCfg (s : State) : W64 := s.reg 0x0E000000
/-- clamp_window [ns]. -/
def State.clampWindow (s : State) : Nat := fld s.remCfg 19 8

/-- Sends the reply to one request (R351). -/
def sendReply (dest key : Nat) (lc : Bool) (tag : Nat) (inc : W16) (e : Err) (result : W64) (data : List Byte) (s : State) : State :=
  sendNow none (mkPacket s.selfId dest (if data.isEmpty then 0x10 else 0x11) 1 lc false key tag
    [(32, 1, e.st.code), (34, 2, inc.toNat), (36, 4, e.det), (40, 8, result.toNat)] data) s

/-- Incarnation of a request's tag. -/
def reqInc (k : Packet) : W16 := BitVec.ofNat 16 (k.f 44 2)

/-- Replies to a request that came singly. -/
def replyTo (k : Packet) (e : Err) (result : W64) (data : List Byte) (s : State) : State :=
  sendReply k.src k.key k.lc k.tag (reqInc k) e result data s

/-- OK. -/
def okErr : Err := ⟨.ok, 0⟩

/-- Target address of a request (R347). -/
def target (k : Packet) : Addr := addr347 (k.f 32 8)
/-- Bytes that a request on memory names: its payload, its length, or a word. -/
def reqLen (k : Packet) : Nat := if k.ty = 1 then k.payload.length else if k.ty = 2 ∨ k.ty = 6 then k.f 46 2 * 8 else 8

/-- Checks 4 and 5 of R354 for a request on memory: its partition, or ACCESS. No granule of it may lie beyond the partition's tiers, on a NONE plank or on a
FLASH plank (R374). -/
def checkTarget (s : State) (k : Packet) (atomic : Bool) : Except Err Nat :=
  match s.partOfKey k.key with
  | none => .error (accessErr 0xE0)
  | some p =>
    let a := target k
    if atomic && a.tiered then .error (accessErr 0xE1)
    else if (granules a.a (reqLen k)).any (fun g => match s.place p a.tiered g with
        | .error _ => true
        | .ok _ => false) then .error (accessErr 0xE1)
    else .ok p

/-- Number of a served record: source position and tag. -/
def servedAt (src tag : Nat) : Nat := src % 64 * 65536 + tag

/-- What the repeat filter decides. -/
inductive Filter where
  /-- newer than the record: it executes -/
  | fresh
  /-- a repeat: it is answered from the record -/
  | again (r : Served)
  /-- older: it is discarded -/
  | old

/-- The repeat filter (R355). -/
def filterReq (s : State) (src tag : Nat) (inc : W16) : Filter :=
  let r := getD s.rem.served (servedAt src tag) {}
  if newer inc r.inc then .fresh else if inc = r.inc then .again r else .old

/-- Records what a request did (R355). -/
def recordServed (src tag : Nat) (inc : W16) (e : Err) (result : W64) (s : State) : State :=
  s.onRem fun r => { r with served := put r.served (servedAt src tag) ⟨inc, e.st, e.det, result⟩ }

/-- Counts a repeat answered from the table. -/
def countRepeat (s : State) : State := s.onRem fun r => { r with repeats := satAdd r.repeats 1 }

/-- A single request passes the filter: it executes, is recorded and answered; a repeat is answered from its record. -/
def filtered (k : Packet) (act : State → State × Err × W64) (s : State) : State :=
  match filterReq s k.src k.tag (reqInc k) with
  | .old => countStale s
  | .again r => replyTo k ⟨r.st, r.det⟩ r.result [] (countRepeat s)
  | .fresh =>
    match act s with
    | (s, e, v) => replyTo k e v [] (recordServed k.src k.tag (reqInc k) e v s)

/-! ### Fetch-add groups (R361, R362) -/

/-- Members in ascending requester ID, those of one device in order of arrival. -/
def insertMember (m : FaddMember) : List FaddMember → List FaddMember
  | [] => [m]
  | x :: r => if m.src < x.src then m :: x :: r else x :: insertMember m r

/-- Sorts the members of a group. -/
def sortMembers (ms : List FaddMember) : List FaddMember := ms.foldl (fun acc m => insertMember m acc) []

/-- The word at a physical Loft byte. -/
def State.word (s : State) (ph : Nat) : W64 := BitVec.ofNat 64 (ofBytes (memRead s.loft ph 8))

/-- Writes a word of the Loft. -/
def setWord (ph : Nat) (v : W64) (s : State) : State :=
  State.closeReads { s with loft := memWrite s.loft ph (toBytes 8 v.toNat) } .loft (ph / 64)

/-- The status of a combined reply: that of the first member whose status is not OK; else OK, with bit 31 when a member read a torn plank
(R366, R388, log 41). -/
def combinedErr (ms : List (Nat × Nat × W16 × Option (Err × W64))) : Err :=
  let es := ms.filterMap fun m => m.2.2.2.map (·.1)
  ((pick (fun e => e.st != .ok) es).orElse fun _ => pick (fun e => e.det != 0) es).getD okErr

/-- The peer of a port accepts combined replies: it is a cube port whose peer's card sets capability bit 1. -/
def State.combines (s : State) (f : Nat) : Bool :=
  portClass f == 1 && (match (s.port f).card with
    | some c => (le c 26 2).testBit 1
    | none => false)

/-- Answers an MFADD all of whose members are settled: combined where the peer accepts that, otherwise member by member (R366, log 42). -/
def answerCombined (n : Nat) (s : State) : State :=
  match find? s.rem.combs n with
  | none => s
  | some x =>
    if x.members.any (·.2.2.2.isNone) then s
    else
      let s := s.onRem fun r => { r with combs := del r.combs n }
      if s.combines x.port then
        let bs := x.members.flatMap fun m => toBytes 16 (layout [(0, 4, m.1), (4, 2, m.2.1), (6, 2, m.2.2.1.toNat), (8, 8, match m.2.2.2 with
          | some (_, v) => v.toNat
          | none => 0)])
        let e := combinedErr x.members
        sendOnPort none x.port (mkPacket s.selfId x.k.src 0x13 1 x.k.lc false x.k.key x.k.tag
          [(32, 1, e.st.code), (34, 2, x.k.f 44 2), (36, 4, e.det)] bs) s
      else x.members.foldl (fun s m => match m.2.2.2 with
        | some (e, v) => sendReply m.1 x.k.key x.k.lc m.2.1 m.2.2.1 e v [] s
        | none => s) s

/-- Answers a settled member: singly, or within its combined packet. -/
def answerMember (m : FaddMember) (e : Err) (v : W64) (s : State) : State :=
  match m.comb with
  | none => sendReply m.src m.key m.lc m.tag m.inc e v [] s
  | some n =>
    answerCombined n (s.onRem fun r => { r with combs := upd r.combs n ⟨0, ⟨0, []⟩, []⟩ fun x =>
                                                { x with members := x.members.map fun y =>
                                                         if y.1 = m.src ∧ y.2.1 = m.tag ∧ y.2.2.2.isNone then (y.1, y.2.1, y.2.2.1, some (e, v)) else y } })

/-- Detail of an update that was made: bit 31 when it read a torn plank under accept_torn (R388, log 44). -/
def State.tornDet (s : State) (p a : Nat) : Nat := b2n (s.rangeTorn p false a 8) * 2 ^ 31

/-- Applies the members of a group or batch in order to a word: each receives the value before it (R362).
A member whose granule is torn or poisoned receives that status and adds nothing. -/
def applyMembers (ph : Nat) (st : Status) : List FaddMember → State → State
  | [], s => s
  | m :: r, s =>
    match s.readFault m.part false m.accept m.addr with
    | some e => applyMembers ph st r (answerMember m e 0 (recordServed m.src m.tag m.inc e 0 s))
    | none =>
      let v := s.word ph
      let e : Err := ⟨st, if st = .ok then s.tornDet m.part m.addr else 0⟩
      applyMembers ph st r (answerMember m e v (recordServed m.src m.tag m.inc e v (setWord ph (v + m.addend) (chargeAccess m.part m.lc false m.addr 8 s))))

/-- Applies a group as one update (R362). -/
def applyGroup (ph : Nat) (st : Status) (ms : List FaddMember) (s : State) : State :=
  let s := if ms.length ≥ 2 then s.onRem fun r => { r with faddsCombined := satAdd r.faddsCombined ms.length } else s
  (ms.filterMap (·.buf)).foldl (fun s h => engineRelease 3 h s) (applyMembers ph st (sortMembers ms) s)

/-- Bytes of a group's fan-out record: 64 members of 16 bytes (log 50). -/
def fanBytes : Nat := 1024

/-- Changes the Clamp's record of a word. -/
def updWord (ph : Nat) (f : HotWord → HotWord) (s : State) : State := s.onRem fun r => { r with words := upd r.words ph {} f }

/-- Closes the open group of a word. -/
def closeGroup (x : HotWord) : HotWord :=
  match x.open_ with
  | some (_, ms) => { x with open_ := none, closed := x.closed ++ [(.ok, ms)] }
  | none => x

/-- The physical granules of a range of a partition's space. -/
def State.physGranules (s : State) (p : Nat) (tiered : Bool) (a n : Nat) : List Nat :=
  (granules a n).filterMap fun g => match s.place p tiered g with
    | .ok ph => some (ph / 64)
    | .error _ => none

/-- An update of the word starts: 16 CLK_LFT cycles, 8 ns, until the next (R361). -/
def startUpdate (ph : Nat) (s : State) : State := updWord ph ({ · with started := s.clk }) s

/-- A group or batch goes to a word: at once to an idle one, after what waits to one with an update in progress. -/
def applyTo (ph : Nat) (st : Status) (ms : List FaddMember) (s : State) : State :=
  match find? s.rem.words ph with
  | none => applyGroup ph st ms (startUpdate ph s)
  | some _ => updWord ph (fun x => { x with closed := x.closed ++ [(st, ms)] }) s

/-- The same request waits already in a group or a batch. -/
def State.heldMember (s : State) (m : FaddMember) : Bool :=
  let same (x : FaddMember) : Bool := x.src == m.src && x.tag == m.tag && x.inc == m.inc
  s.rem.words.any (fun w => w.2.closed.any (·.2.any same) || (match w.2.open_ with
    | some (_, ms) => ms.any same
    | none => false)) || s.rem.batches.any fun b => b.members.any same

/-- A member that joins a group retains the group's buffer, whose refcount is the number of replies still to send (Table Yard-3). -/
def retainBuf (b : Option Nat) (s : State) : State := match b with
  | some h => engineRetain 3 h s
  | none => s

/-- An unbatched fetch-add arrives at a word (R361): an idle word takes it at once; otherwise it opens or joins the open group,
or waits alone while fadd_comb is 0 or the Yard has no buffer for a group (R410). A group that is too old or full takes no more. -/
def joinWord (ph : Nat) (m : FaddMember) (s : State) : State :=
  match find? s.rem.words ph with
  | none => applyGroup ph .ok [m] (startUpdate ph s)
  | some x =>
    if !bit s.remCfg 1 then updWord ph (fun _ => let y := closeGroup x; { y with closed := y.closed ++ [(.ok, [m])] }) s
    else
      let x := match x.open_ with
        | some (t, ms) => if ms.length ≥ 64 ∨ s.clk - t ≥ s.clampWindow then closeGroup x else x
        | none => x
      match x.open_ with
      | some (t, ms) =>
        let b := ms.head?.bind (·.buf)
        let y := { x with open_ := some (t, ms ++ [{ m with buf := b }]) }
        updWord ph (fun _ => if ms.length + 1 ≥ 64 then closeGroup y else y) (retainBuf b s)
      | none =>
        match engineDraw m.part 3 fanBytes s with
        | (some h, s) => updWord ph (fun _ => { x with open_ := some (s.clk, [{ m with buf := some h }]) }) s
        | (none, s) => updWord ph (fun _ => { x with closed := x.closed ++ [(.ok, [m])] }) s

/-- Physical byte of a target word. -/
def State.wordAt (s : State) (p : Nat) (a : Addr) : Nat :=
  match s.loftPlace p a.a with
  | .ok ph => ph / 8 * 8
  | .error _ => 0

/-- ATOMIC_UPDATE_DONE (R361): the update in progress on a word ends, 8 ns after its start, the open group closes, and the next closed group starts.
The address is the physical Loft byte of the word (log 43). -/
def execAtomicUpdateDone (addr : BitVec 64) (s : State) : Host.Outcome State Fault Refusal :=
  .next <|
    let ph := addr.toNat / 8 * 8
    match find? s.rem.words ph with
    | none => s
    | some x =>
      if s.clk - x.started < 8 then s
      else match (closeGroup x).closed with
        | [] => s.onRem fun r => { r with words := del r.words ph }
        | g :: rest => applyGroup ph g.1 g.2 (updWord ph (fun _ => { started := s.clk, closed := rest, open_ := none }) s)

/-- CLAMP_WINDOW_EXPIRY (R361): a group that is clamp_window old closes. -/
def execClampWindowExpiry (addr : BitVec 64) (s : State) : Host.Outcome State Fault Refusal :=
  .next <|
    let ph := addr.toNat / 8 * 8
    match find? s.rem.words ph with
    | none => s
    | some x => match x.open_ with
      | some (t, _) => if s.clk - t ≥ s.clampWindow then updWord ph closeGroup s else s
      | none => s

/-! ### Batches (R363) -/

/-- A batched fetch-add arrives: the batch is applied as one group at its last arrival. -/
def joinBatch (ph n id : Nat) (m : FaddMember) (s : State) : State :=
  let same (b : Batch) : Bool := b.word == ph && b.id == id && b.n == n
  let b := match pick same s.rem.batches with
    | some b => { b with members := b.members ++ [m] }
    | none => ⟨ph, id, n, s.clk, [m]⟩
  let rest := s.rem.batches.filter fun b => !same b
  if b.members.length ≥ n then applyTo ph .ok b.members (s.onRem fun r => { r with batches := rest })
  else s.onRem fun r => { r with batches := rest ++ [b] }

/-- BATCH_TIMEOUT (R363): a batch on the word is not complete within batch_timeout of its first arrival. -/
def execBatchTimeout (addr : BitVec 64) (s : State) : Host.Outcome State Fault Refusal :=
  .next <|
    let ph := addr.toNat / 8 * 8
    let due (b : Batch) : Bool := b.word == ph && decide (s.clk - b.first ≥ fld s.remCfg 35 20 * 1000)
    let bs := s.rem.batches.filter due
    bs.foldl (fun s b => applyTo ph .timeout b.members s)
      (s.onRem fun r => { r with batches := r.batches.filter fun b => !due b, batchTimeouts := satAdd r.batchTimeouts bs.length })

/-! ### Taking a request -/

/-- An unbatched fetch-add, single or combined. -/
def unbatched (k : Packet) : Bool := (k.ty == 3 && k.f 49 1 == 0) || k.ty == 7

/-- The physical Loft granules of a request on memory; none in the tiered space, and none for a PEG. -/
def State.reqGranules (s : State) (p : Nat) (k : Packet) : List Nat :=
  if k.ty = 5 ∨ (target k).tiered then [] else s.physGranules p false (target k).a (reqLen k)

/-- A request other than an unbatched fetch-add closes the open groups of the words in its granules (R361). -/
def closeFor (p : Nat) (k : Packet) (s : State) : State :=
  if unbatched k then s
  else
    let gs := s.reqGranules p k
    s.onRem fun r => { r with words := r.words.map fun w => if gs.contains (w.1 / 64) then (w.1, closeGroup w.2) else w }

/-- An earlier request of its ordered flow has not executed: it waits itself, or in a group or batch (R357). Unbatched fetch-adds of one word keep their order
in the word's groups. -/
def State.flowWaits (s : State) (p : Nat) (k : Packet) : Bool :=
  let mine (m : FaddMember) : Bool := m.ordered && m.src == k.src && m.key == k.key
  k.ordered &&
  ((s.rem.waiting.takeWhile fun e => e.2 != k).any (fun e => e.2.ordered && e.2.src == k.src && e.2.key == k.key) ||
   s.rem.words.any (fun w => !(unbatched k && w.1 == s.wordAt p (target k)) && (w.2.closed.any (·.2.any mine) || (match w.2.open_ with
     | some g => g.2.any mine
     | none => false))) ||
   s.rem.batches.any fun b => b.members.any mine)

/-- A request waits: for a busy bay (R371, log 10), for a regulator (R418, log 97), for an earlier one of its flow (R357), for the closed groups of a word in its granules, or, a CAS, for the
update in progress on its word (R361). -/
def State.reqWaits (s : State) (p : Nat) (k : Packet) : Bool :=
  s.bayWaits p || s.regWaits p k.lc || s.flowWaits p k ||
  (k.ty != 3 && k.ty != 7 && s.rem.words.any fun w =>
    (s.reqGranules p k).contains (w.1 / 64) && (!w.2.closed.isEmpty || (k.ty == 4 && w.1 == s.wordAt p (target k))))

/-- The request is among those that wait. -/
def State.isWaiting (s : State) (k : Packet) : Bool := s.rem.waiting.any fun e => e.2 == k
/-- The port by which a request came. -/
def State.reqPort (s : State) (k : Packet) : Nat :=
  match pick (fun (e : Nat × Packet) => e.2 == k) s.rem.waiting with
  | some e => e.1
  | none => s.portOf k

/-- A request waits no more. -/
def dropWaiting (k : Packet) (s : State) : State := s.onRem fun r => { r with waiting := r.waiting.filter fun e => e.2 != k }

/-- A request that came by port f has passed checks 1 to 3: it goes on, or waits. -/
def gateReq (f : Nat) (k : Packet) (act : State → State) (s : State) : State :=
  match s.partOfKey k.key with
  | none => act (dropWaiting k s)
  | some p =>
    let s := closeFor p k s
    if s.reqWaits p k then (if s.isWaiting k then s else s.onRem fun r => { r with waiting := r.waiting ++ [(f, k)] })
    else act (dropWaiting k s)

/-- An arriving request is taken: its CRC, source cube, member epoch and lifetime are checked in that order (R265, R354); then it goes on, or waits. -/
def takeReq (ty : Nat) (k : Packet) (act : State → State) (s : State) : Host.Outcome State Fault Refusal :=
  .next <|
    if k.ty ≠ ty ∨ k.cls ≠ 2 ∨ malformed k then s
    else if s.isWaiting k then gateReq (s.reqPort k) k act s
    else if !s.inTurn k then s
    else match crcFails k s with
      | some s' => s'
      | none =>
        if k.src / 64 ≠ s.selfCube then (takeIn k s).onRem fun r => { r with misrouted := satAdd r.misrouted 1 }
        else match epochCheck s k with
          | some r => answerFenced (s.portOf k) r k (takeIn k s)
          | none =>
            if (s.hallUs - BitVec.ofNat 32 (k.f 40 4)).toNat > fld s.remCfg 49 36 then countStale (takeIn k s)
            else gateReq (s.portOf k) k act (takeIn k s)

/-- The state in which a request that goes on acts. -/
def State.opened (s : State) (p : Nat) (k : Packet) : State := dropWaiting k (closeFor p k (takeIn k s))

/-! ### Execution (R356) -/

/-- PUT (R356): each granule is written whole or not at all; the first failing access ends it. -/
def execPut (k : Packet) (s : State) : Host.Outcome State Fault Refusal :=
  takeReq 0x01 k (fun s => match checkTarget s k false with
    | .error e => replyTo k e 0 [] s
    | .ok p =>
      let a := target k
      filtered k (fun s =>
        match s.writeFor p a.tiered a.a k.payload (some (BitVec.ofNat 20 k.src)) with
        | (s, n, some e) => (chargeAccess p k.lc a.tiered a.a n s, e, 0)
        | (s, n, none) => (chargeAccess p k.lc a.tiered a.a n s, okErr, 0)) s) s

/-- Reads for a GET or MGET, and notes whether it joins an open read entry (R360). -/
def clampRead (p : Nat) (k : Packet) (s : State) : Except Err (List Byte) × State :=
  let a := target k
  let n := k.f 46 2 * 8
  let s :=
    if !bit s.remCfg 0 then s
    else
      let live := s.rem.reads.filter fun e => decide (s.clk - e.at_ ≤ s.clampWindow)
      if live.any fun e => e.key == k.key && e.addr == k.f 32 8 && e.len == n then
        s.onRem fun r => { r with reads := live, readsCombined := satAdd r.readsCombined 1 }
      else
        -- an entry is opened with a buffer of the Clamp's pools, which is returned with its last reply (R410)
        match engineDraw p 3 (n + fanBytes) s with
        | (none, s) => s.onRem fun r => { r with reads := live }
        | (some h, s) => (engineRelease 3 h s).onRem fun r =>
          { r with reads := live ++ [⟨k.key, k.f 32 8, n, locSpace a.tiered, s.physGranules p a.tiered a.a n, s.clk⟩] }
  (s.read p a.tiered a.a n (bit (BitVec.ofNat 8 (k.f 48 1)) 0), chargeAccess p k.lc a.tiered a.a n s)

/-- The status of a read that was made, with detail bit 31 when it read a torn plank under accept_torn (R388, log 44). -/
def readErr (p : Nat) (k : Packet) (s : State) : Err :=
  ⟨.ok, b2n (s.rangeTorn p (target k).tiered (target k).a (k.f 46 2 * 8)) * 2 ^ 31⟩

/-- GET (R356, R360): it reads as it passes the Clamp, and is not recorded. -/
def execGet (k : Packet) (s : State) : Host.Outcome State Fault Refusal :=
  takeReq 0x02 k (fun s => match checkTarget s k false with
    | .error e => replyTo k e 0 [] s
    | .ok p => match clampRead p k s with
      | (.error e, s) => replyTo k e 0 [] s
      | (.ok bs, s) => replyTo k (readErr p k s) 0 bs s) s

/-- A single fetch-add as a group member. -/
def memberOf (k : Packet) (p : Nat) : FaddMember :=
  ⟨k.src, k.tag, reqInc k, BitVec.ofNat 64 (k.f 56 8), p, (target k).a, bit (BitVec.ofNat 8 (k.f 48 1)) 0, k.key, k.lc, none, none, k.ordered⟩

/-- FADD (R361 to R363): applied at once, grouped, or held for its batch. A repeat of a fetch-add that still waits is not counted twice. -/
def execFadd (k : Packet) (s : State) : Host.Outcome State Fault Refusal :=
  takeReq 0x03 k (fun s => match checkTarget s k true with
    | .error e => replyTo k e 0 [] s
    | .ok p =>
      let m := memberOf k p
      let ph := s.wordAt p (target k)
      let n := k.f 49 1
      match filterReq s k.src k.tag (reqInc k) with
      | .old => countStale s
      | .again r => replyTo k ⟨r.st, r.det⟩ r.result [] (countRepeat s)
      | .fresh => if s.heldMember m then s else if n = 0 then joinWord ph m s else joinBatch ph n (k.f 50 1) m s) s

/-- CAS (R356): the swap value is stored when the word equals the compare value; the old value is returned in either case. -/
def execCas (k : Packet) (s : State) : Host.Outcome State Fault Refusal :=
  takeReq 0x04 k (fun s => match checkTarget s k true with
    | .error e => replyTo k e 0 [] s
    | .ok p =>
      let ph := s.wordAt p (target k)
      filtered k (fun s =>
        match s.readFault p false (bit (BitVec.ofNat 8 (k.f 48 1)) 0) (target k).a with
        | some e => (s, e, 0)
        | none =>
          let v := s.word ph
          let e : Err := ⟨.ok, s.tornDet p (target k).a⟩
          let s := chargeAccess p k.lc false (target k).a 8 (startUpdate ph s)
          (if v = BitVec.ofNat 64 (k.f 56 8) then setWord ph (BitVec.ofNat 64 (le k.payload 0 8)) s else s, e, v)) s) s

/-- PEG (R356): a remote add or set of a peg. -/
def execPeg (k : Packet) (s : State) : Host.Outcome State Fault Refusal :=
  takeReq 0x05 k (fun s =>
    let i := k.f 52 2 % 2 ^ 14
    match s.partOfKey k.key with
    | none => replyTo k (accessErr 0xE0) 0 [] s
    | some p =>
      if !s.inRange p 1 i then replyTo k (accessErr 0xE1) 0 [] s
      else
        let v := BitVec.ofNat 64 (k.f 56 8 % 2 ^ 48)
        filtered k (fun s => (pegUpdate i (.remote k.src) (if k.f 56 8 / 2 ^ 48 = 0 then .add v else .set v) s, okErr, 0)) s) s

/-! ### Combined packets (R364 to R366) -/

/-- The members of a combined packet whose entries have z bytes: requester, tag, incarnation and addend (Table Rem-5). -/
def membersOf (k : Packet) (z : Nat) : List (Nat × Nat × W16 × W64) :=
  (List.range (k.f 49 1)).map fun i =>
    (le k.payload (z * i) 4 % 2 ^ 20, le k.payload (z * i + 4) 2, BitVec.ofNat 16 (le k.payload (z * i + 6) 2), BitVec.ofNat 64 (le k.payload (z * i + 8) 8))

/-- Answers an MGET (R366): combined where the peer accepts that, otherwise member by member (log 42). -/
def answerMget (f : Nat) (k : Packet) (e : Err) (bs : List Byte) (s : State) : State :=
  if s.combines f then
    sendOnPort none f (mkPacket s.selfId k.src 0x12 1 k.lc false k.key k.tag [(32, 1, e.st.code), (34, 2, k.f 44 2), (36, 4, e.det)] bs) s
  else (membersOf k 8).foldl (fun s m => sendReply m.1 k.key k.lc m.2.1 m.2.2.1 e 0 bs s) s

/-- MGET (R365): served as one read. A combined packet that came over no cube port is not accepted. -/
def execMget (k : Packet) (s : State) : Host.Outcome State Fault Refusal :=
  let f := s.reqPort k
  takeReq 0x06 k (fun s =>
    if portClass f ≠ 1 then s
    else match checkTarget s k false with
      | .error e => answerMget f k e [] s
      | .ok p => match clampRead p k s with
        | (.error e, s) => answerMget f k e [] s
        | (.ok bs, s) => answerMget f k (readErr p k s) bs s) s

/-- A failing MFADD is answered with the status and no data (R366). -/
def failMfadd (f : Nat) (k : Packet) (e : Err) (s : State) : State :=
  if s.combines f then
    sendOnPort none f (mkPacket s.selfId k.src 0x13 1 k.lc false k.key k.tag [(32, 1, e.st.code), (34, 2, k.f 44 2), (36, 4, e.det)] []) s
  else (membersOf k 16).foldl (fun s m => sendReply m.1 k.key k.lc m.2.1 m.2.2.1 e 0 [] s) s

/-- One member of an MFADD passes the filter and joins the word, as if it had come singly (R365).
A member older than its record is left out of the reply (log 41). -/
def joinMember (n p ph : Nat) (k : Packet) (x : Nat × Nat × W16 × W64) (s : State) : State :=
  let note (f : List (Nat × Nat × W16 × Option (Err × W64)) → List (Nat × Nat × W16 × Option (Err × W64))) (s : State) : State :=
    s.onRem fun r => { r with combs := upd r.combs n ⟨0, ⟨0, []⟩, []⟩ fun c => { c with members := f c.members } }
  let here (y : Nat × Nat × W16 × Option (Err × W64)) : Bool := y.1 == x.1 && y.2.1 == x.2.1
  match filterReq s x.1 x.2.1 x.2.2.1 with
  | .old => note (·.filter fun y => !here y) (countStale s)
  | .again r => note (·.map fun y => if here y then (y.1, y.2.1, y.2.2.1, some (⟨r.st, r.det⟩, r.result)) else y) (countRepeat s)
  | .fresh =>
    let m : FaddMember := ⟨x.1, x.2.1, x.2.2.1, x.2.2.2, p, (target k).a, bit (BitVec.ofNat 8 (k.f 48 1)) 0, k.key, k.lc, some n, none, k.ordered⟩
    if s.heldMember m then note (·.filter fun y => !here y) s else joinWord ph m s

/-- MFADD (R365): each member is filtered by itself and joins the word's group. -/
def execMfadd (k : Packet) (s : State) : Host.Outcome State Fault Refusal :=
  let f := s.reqPort k
  takeReq 0x07 k (fun s =>
    if portClass f ≠ 1 then s
    else match checkTarget s k true with
      | .error e => failMfadd f k e s
      | .ok p =>
        let ph := s.wordAt p (target k)
        let ms := membersOf k 16
        let n := s.rem.nextComb
        let s := s.onRem fun r => { r with nextComb := n + 1, combs := put r.combs n ⟨f, k, ms.map fun m => (m.1, m.2.1, m.2.2.1, none)⟩ }
        let s := ms.foldl (fun s m => joinMember n p ph k m s) s
        match find? s.rem.combs n with
        | some c => if c.members.isEmpty then s.onRem fun r => { r with combs := del r.combs n } else answerCombined n s
        | none => s) s

end Sys2Proof.Machine
end

