-- ==== Sys2Proof/Machine/Score.lean ====
section
/-! DEFINITION. The Dovetail: layer entries, normalisation tables, the pieces of scoring and selection (R158 to R174). -/

namespace Sys2Proof.Machine

/-! ### Layer entries (Table Score-1) -/

/-- A layer record. -/
structure LayerEntry where
  /-- its 64 bytes -/
  blk : Block

/-- src: 1 for external logits. -/
def LayerEntry.ext (r : LayerEntry) : Bool := bit r.blk 4
/-- exit_en. -/
def LayerEntry.exitEn (r : LayerEntry) : Bool := bit r.blk 5
/-- Bits of a token element: act_fmt. -/
def LayerEntry.actBits (r : LayerEntry) : Nat := if bit r.blk 6 then 4 else 8
/-- ext_fmt: external logits are ACC48. -/
def LayerEntry.ext48 (r : LayerEntry) : Bool := bit r.blk 7
/-- Normalisation table. -/
def LayerEntry.tableIx (r : LayerEntry) : Nat := fld r.blk 9 8
/-- E. -/
def LayerEntry.experts (r : LayerEntry) : Nat := byteFld r.blk 2 2 % 2 ^ 15
/-- d_model. -/
def LayerEntry.dModel (r : LayerEntry) : Nat := byteFld r.blk 4 2 % 2 ^ 15
/-- k_min. -/
def LayerEntry.kMin (r : LayerEntry) : Nat := byteFld r.blk 6 1 % 32
/-- k_max. -/
def LayerEntry.kMax (r : LayerEntry) : Nat := byteFld r.blk 7 1 % 32
/-- M. -/
def LayerEntry.mCand (r : LayerEntry) : Nat := byteFld r.blk 8 1 % 32
/-- nsh. -/
def LayerEntry.nsh (r : LayerEntry) : Nat := byteFld r.blk 9 1 % 64
/-- e_L. -/
def LayerEntry.logitExp (r : LayerEntry) : Int := signed 10 (byteFld r.blk 10 2)
/-- nmul. -/
def LayerEntry.nmul (r : LayerEntry) : Nat := byteFld r.blk 12 2
/-- E_x. -/
def LayerEntry.exitRows (r : LayerEntry) : Nat := byteFld r.blk 14 2 % 2 ^ 15
/-- τ. -/
def LayerEntry.tau (r : LayerEntry) : Nat := byteFld r.blk 16 2
/-- τ_overflow. -/
def LayerEntry.tauOverflow (r : LayerEntry) : Nat := byteFld r.blk 18 2
/-- Exit threshold. -/
def LayerEntry.exitThreshold (r : LayerEntry) : Nat := byteFld r.blk 20 4
/-- exit_logit_exp. -/
def LayerEntry.exitExp (r : LayerEntry) : Int := signed 10 (byteFld r.blk 24 2)

/-- Reserved fields of a layer record. -/
def layerRsv : List Rsv :=
  [rbits 0 15 10, rbits 2 15 15, rbits 4 15 15, rbits 6 7 5, rbits 7 7 5, rbits 8 7 5, rbits 9 7 6, rbits 10 15 10, rbits 14 15 15,
   rbits 24 15 10, rb 26 6, rbits 32 5 1, rbits 40 5 1, rbits 48 5 1, rbits 56 5 1]

/-- Values of a layer record outside their ranges, and the combinations that R161 rejects. -/
def layerVals (tableValid : Bool) (bs : List Byte) : List (Nat × Bool) :=
  let r : LayerEntry := ⟨toBlock bs⟩
  let wg := le bs 32 16 != 0
  let wx := le bs 48 16 != 0
  [(2, r.experts == 0 || decide (r.experts > 16384)),
   (4, decide (r.dModel > 16384) || (r.dModel == 0 && (!r.ext || r.exitEn))),
   (6, r.kMin == 0 || decide (r.kMin > 16) || decide (r.kMin > r.kMax)),
   (7, r.kMax == 0 || decide (r.kMax > 16) || decide (r.kMax > r.mCand)),
   (8, r.mCand == 0 || decide (r.mCand > 16) || decide (r.mCand > r.experts)),
   (9, decide (r.nsh > 47)),
   (14, if r.exitEn then decide (r.exitRows < 2) || decide (r.exitRows > 16384) else r.exitRows != 0),
   (18, decide (r.tauOverflow > r.tau)),
   (1, !tableValid),
   (32, r.ext && le bs 32 8 != 0), (40, r.ext && wg && le bs 40 8 != 0),
   (48, !(!r.ext && r.exitEn) && le bs 48 8 != 0), (56, !(!r.ext && r.exitEn) && wx && le bs 56 8 != 0)]

/-- ACCESS located at a field of the structure the command names. -/
def accessAt (off : Nat) : Err := accessErr (2 ^ 30 + off)

/-- The layer of a DVT_LAYER_LOAD, DVT_PLAN_LOAD or DVT_AVAIL_SET. -/
def cmdLayer (k : Block) : Nat := op k 32 2 % 2 ^ 10

/-- A layer index of the packet lies in the partition's range (R164). -/
def guardLayer (p l : Nat) (s : State) : Except Err Unit := guardE (!s.inRange p 2 l) (accessErr 32)

/-- The checks of a layer record in a partition. The named table counts as valid for them where it lies outside the range: the record is then ACCESS. -/
def layerCheck (p : Nat) (s : State) (bs : List Byte) : List (Nat × Bool) :=
  let t := (LayerEntry.mk (toBlock bs)).tableIx
  layerVals (!s.inRange p 3 t || (find? s.dvt.tables t).isSome) bs

/-- DVT_LAYER_LOAD (R160, R161, R164). -/
def execDvtLayerLoad (c : CmdRef) (s : State) : Host.Outcome State Fault Refusal :=
  .next (wholeCmd c 0x0400 (fun k p s => do
    guardLayer p (cmdLayer k) s
    let bs ← cmdBlock c p (addr154 (op k 40 8)) 64 8 0 layerRsv (layerCheck p s) s
    guardE (!s.inRange p 3 (LayerEntry.mk (toBlock bs)).tableIx) (accessAt 1)
    .ok { s := s.onDvt fun d => { d with layers := put d.layers (cmdLayer k) (toBlock bs) } }) s)

/-- The first entry of a table image at fault (R162). -/
def tableFault (t : List Nat) : Option Nat :=
  if t.headD 0 = 0 then some 0 else pick (fun j => decide (t.getD j 0 > t.getD (j - 1) 0)) ((List.range t.length).drop 1)

/-- The 1,024 entries of a table image. -/
def tableImage (bs : List Byte) : List Nat := (List.range 1024).map fun j => le bs (2 * j) 2

/-- DVT_TABLE_LOAD (R162). -/
def execDvtTableLoad (c : CmdRef) (s : State) : Host.Outcome State Fault Refusal :=
  .next (wholeCmd c 0x0401 (fun k p s => do
    let n := op k 32 1 % 4
    guardE (!s.inRange p 3 n) (accessErr 32)
    let a := addr154 (op k 40 8)
    let bs ← cmdRead c p a 2048 s
    match tableFault (tableImage bs) with
    | some j => .error (badRsv 1 (2 * j))
    | none => .ok { s := s.onDvt fun d => { d with tables := put d.tables n (tableImage bs) } }) s)

/-! ### Logits (R167) -/

/-- Block j of a row of nb blocks of w bits (R65); an invalid E16 code is an integrity failure of selection (R69). -/
def tensorBlock (c : CmdRef) (p : Nat) (el sc : Addr) (w nb row j : Nat) (s : State) : Except Err Blk := do
  let i := row * nb + j
  if w = 48 then
    let e := le (← cmdRead c p ⟨sc.tiered, sc.a + 2 * i⟩ 2 s) 0 2
    if bad16 e then .error (integrity 0x02 7 4)
    else match scale16 e with
      | none => .ok Blk.zero
      | some x => .ok ⟨unpack 48 32 (← cmdRead c p ⟨el.tiered, el.a + i * blockBytesOf 48⟩ (blockBytesOf 48) s), some x⟩
  else
    let e ← cmdRead c p ⟨sc.tiered, sc.a + i⟩ 1 s
    .ok (readBlk w (← cmdRead c p ⟨el.tiered, el.a + i * blockBytesOf w⟩ (blockBytesOf w) s) (le e 0 1))

/-- The blocks of one row of k positions; positions beyond k read as zero (R66). -/
def tensorRow (c : CmdRef) (p : Nat) (el sc : Addr) (w k row : Nat) (s : State) : Except Err (List Blk) :=
  let nb := ceilDiv k 32
  (List.range nb).mapM fun j => do
    let b ← tensorBlock c p el sc w nb row j s
    .ok (if 32 * (j + 1) ≤ k then b else b.keep (k - 32 * j))

/-- One row of weights against a token on a score array (R167): the logit, whether clamp32 and whether the chain sum saturated, and the checks that failed. -/
def scoreRow (u : Upset) (e : Int) (x w : List Blk) : Int × Bool × Bool × Checks :=
  let d := drainSum u e (List.zip x w) 0
  let y := clamp48 d.sum
  let z := clamp32 y.1
  (z.1, z.2, d.sat || y.2, d.bad)

/-- The score array of row i of a matrix whose first tile column is col0 (R175). -/
def rowArray (col0 i : Nat) : Nat := (col0 + i / 64) % 4

/-- Logits on the score arrays (R167, R175), with the failed checks of each array. -/
def logitsInternal (u : Nat → Upset) (col0 : Nat) (x : List Blk) (rows : List (List Blk)) (e : Int) : Logits × List (Nat × Checks) :=
  let out := rows.mapIdx fun i w => (rowArray col0 i, scoreRow (u (rowArray col0 i)) e x w)
  ({ l := out.map (·.2.1), sat := out.any (·.2.2.1), arrays := ((out.filter (·.2.2.2.1)).map (·.1)).eraseDups },
   (out.filter (·.2.2.2.2.any)).map fun o => (o.1, o.2.2.2.2))

/-- External logits (R167). -/
def logitsExternal (n : Nat) (bs : List Blk) (e : Int) : Logits :=
  let out := (bs.flatMap fun b => match b.e with
    | none => List.replicate 32 ((0 : Int), false)
    | some x => b.q.map fun q =>
        let a := align q x e
        let z := clamp32 a.1
        (z.1, z.2)).take n
  { l := out.map (·.1), sat := out.any (·.2) }

/-! ### Selection (R168) and early exit (R170) -/

/-- Exact quotient, rounded half to even. -/
def divRne (a b : Nat) : Nat :=
  let q := a / b
  let r := a % b
  if 2 * r > b ∨ (2 * r = b ∧ q % 2 = 1) then q + 1 else q

/-- Inserts an expert into a list ranked by logit, equal logits by ascending index. -/
def insertRank (x : Nat × Int) : List (Nat × Int) → List (Nat × Int)
  | [] => [x]
  | y :: r => if x.2 > y.2 then x :: y :: r else y :: insertRank x r

/-- The largest of a list of integers. -/
def maxInt : List Int → Int
  | [] => 0
  | x :: r => r.foldl max x

/-- The table value of a logit difference (R168). -/
def tableAt (r : LayerEntry) (t : List Nat) (d : Nat) : Nat := t.getD (min 1023 (rshiftRne (d * r.nmul : Nat) r.nsh).toNat) 0

/-- route_token (R168). -/
def selectToken (r : LayerEntry) (t : List Nat) (l : List Int) : Select :=
  let m := maxInt l
  let v := l.map fun x => tableAt r t (m - x).toNat
  let sum := v.sum
  let order := ((l.zipIdx.map fun e => (e.2, e.1)).foldl (fun acc x => insertRank x acc) []).take r.mCand
  let cand := order.map fun e => (e.1, min 65535 (divRne (v.getD e.1 0 * 65536) sum))
  let n := (cand.filter fun e => decide (e.2 ≥ r.tau)).length
  { count := max r.kMin (min n r.kMax), cand := cand, m := m, sum := sum, n := n }

/-- exit_margin (R170). -/
def exitMargin (x : List Int) : Nat :=
  let a := maxInt x
  let i := x.findIdx (· == a)
  (a - maxInt (x.eraseIdx i)).toNat

/-! ### The DVT_SCORE parameter block (Table Score-3) -/

/-- Reserved fields of a score block. -/
def scoreRsv : List Rsv :=
  [rbits 0 15 5, rbits 2 15 10, rbits 4 31 17] ++ ([8, 16, 24, 32, 40, 48, 56].map fun o => rbits o 5 1)

/-- V outside 1 to 65,536. -/
def badV (bs : List Byte) : Bool := le bs 4 4 % 2 ^ 17 == 0 || decide (le bs 4 4 % 2 ^ 17 > 65536)

/-- Fields that the last column of Table Score-3 reserves, for a layer entry. -/
def scoreCombos (r : LayerEntry) (bs : List Byte) : List (Nat × Bool) :=
  let set (o : Nat) : Bool := le bs o 8 != 0
  let flags := (le bs 0 1).testBit 4
  [(8, r.ext && set 8), (16, r.ext && set 16), (24, !flags && set 24), (32, !r.ext && set 32), (40, !r.ext && set 40),
   (48, !(r.ext && r.exitEn) && set 48), (56, !(r.ext && r.exitEn) && set 56)]

/-- The layer entry that a step uses: the one in force at its grant (R163). -/
def State.stepEntry (s : State) (c : CmdRef) (l : Nat) : Option LayerEntry := ((s.inflight c).bind fun i => find? i.layers l).map LayerEntry.mk

/-- The normalisation table that a step uses: the one in force at its grant (R163). -/
def State.stepTable (s : State) (c : CmdRef) (n : Nat) : List Nat := ((s.inflight c).bind fun i => find? i.tables n).getD []

/-- Reads and checks a score block at a place (R166); answers it with the layer entry. -/
def readScoreBlock (c : CmdRef) (p : Nat) (a : Addr) (place : Nat) (s : State) : Except Err (List Byte × LayerEntry) := do
  let bs ← cmdRead c p a 64 s
  guardE (le bs 0 1 % 16 != 1) (badGen 9 0)
  match fieldFault (ofBytes bs) scoreRsv [(4, badV bs)] with
  | some o => .error (badRsv place o)
  | none =>
    let l := le bs 2 2 % 2 ^ 10
    guardE (!s.inRange p 2 l) (accessErr (place * 2 ^ 30 + 2))
    match s.stepEntry c l with
    | none => .error (badRsv place 2)
    | some r => match lowest (scoreCombos r bs) with
      | some o => .error (badRsv place o)
      | none => .ok (bs, r)

/-- An address field of a block. -/
def addrIn (bs : List Byte) (off : Nat) : Addr := addr154 (le bs off 8)

/-! ### Scoring one token -/

/-- The weight rows of a step on the score arrays: gate, then exit; none for external logits. -/
def weightRows (c : CmdRef) (p : Nat) (r : LayerEntry) (s : State) : Except Err (List (List Blk) × List (List Blk)) := do
  let bs := blockBytes r.blk
  if r.ext then .ok ([], [])
  else
    let g ← (List.range r.experts).mapM fun e => tensorRow c p (addrIn bs 32) (addrIn bs 40) 8 r.dModel e s
    let x ← if r.exitEn then (List.range r.exitRows).mapM fun e => tensorRow c p (addrIn bs 48) (addrIn bs 56) 8 r.dModel e s else .ok []
    .ok (g, x)

/-- Bits of an external logit. -/
def extBits (r : LayerEntry) : Nat := if r.ext48 then 48 else 16

/-- The defects of the score arrays. -/
def State.scoreUpset (s : State) (a : Nat) : Upset := (getD s.dvt.arrays a {}).upset

/-- The logits and exit logits of token t, with the failed checks of the score arrays. -/
def tokenLogits (c : CmdRef) (p : Nat) (r : LayerEntry) (w : List (List Blk) × List (List Blk)) (b : List Byte) (t : Nat) (s : State) :
    Except Err ((Logits × Logits) × List (Nat × Checks)) := do
  if r.ext then
    let l ← tensorRow c p (addrIn b 32) (addrIn b 40) (extBits r) r.experts t s
    let x ← if r.exitEn then tensorRow c p (addrIn b 48) (addrIn b 56) (extBits r) r.exitRows t s else .ok []
    .ok ((logitsExternal r.experts l r.logitExp, logitsExternal r.exitRows x r.exitExp), [])
  else
    let v ← tensorRow c p (addrIn b 8) (addrIn b 16) r.actBits r.dModel t s
    let g := logitsInternal s.scoreUpset 0 v w.1 r.logitExp
    let x := logitsInternal s.scoreUpset (ceilDiv r.experts 64) v w.2 r.exitExp
    .ok ((g.1, x.1), g.2 ++ x.2)

/-- The memory that n rows of a tensor take from a row on, of rows of k positions in w bits. -/
def tensorRange (el sc : Addr) (w k row n : Nat) : List (Addr × Nat) :=
  let nb := ceilDiv k 32
  [(⟨el.tiered, el.a + row * nb * blockBytesOf w⟩, n * nb * blockBytesOf w), (⟨sc.tiered, sc.a + row * nb * scaleBytesOf w⟩, n * nb * scaleBytesOf w)]

/-- The memory that scoring n tokens from token t on reads: flags, and vectors and weights or external logits. -/
def scoreReads (r : LayerEntry) (b : List Byte) (t n : Nat) : List (Addr × Nat) :=
  let bs := blockBytes r.blk
  let flags := if (le b 0 1).testBit 4 then [(⟨(addrIn b 24).tiered, (addrIn b 24).a + t⟩, n)] else []
  flags ++
  (if r.ext then tensorRange (addrIn b 32) (addrIn b 40) (extBits r) r.experts t n ++
      (if r.exitEn then tensorRange (addrIn b 48) (addrIn b 56) (extBits r) r.exitRows t n else [])
    else tensorRange (addrIn b 8) (addrIn b 16) r.actBits r.dModel t n ++ tensorRange (addrIn bs 32) (addrIn bs 40) 8 r.dModel 0 r.experts ++
      (if r.exitEn then tensorRange (addrIn bs 48) (addrIn bs 56) 8 r.dModel 0 r.exitRows else []))

/-- exited_in of token t. -/
def exitedIn (c : CmdRef) (p : Nat) (b : List Byte) (t : Nat) (s : State) : Except Err Bool := do
  if (le b 0 1).testBit 4 then
    let a := addrIn b 24
    .ok ((le (← cmdRead c p ⟨a.tiered, a.a + t⟩ 1 s) 0 1).testBit 0)
  else .ok false

/-- Scores token t: none for one that is exited_in, whose logits are not read (R171). -/
def scoreToken (c : CmdRef) (p : Nat) (r : LayerEntry) (w : List (List Blk) × List (List Blk)) (b : List Byte) (t : Nat) (s : State) :
    Except Err (Option (Logits × Logits) × List (Nat × Checks)) := do
  if (← exitedIn c p b t s) then .ok (none, [])
  else (tokenLogits c p r w b t s).map fun x => (some x.1, x.2)

/-- Selects from a token's logits (R168, R170, R171). -/
def selectScored (r : LayerEntry) (table : List Nat) : Option (Logits × Logits) → TokenScore
  | none => { exited := true }
  | some (l, x) =>
    let m := if r.exitEn then exitMargin x.l else 0
    { sel := selectToken r table l.l, exitNow := r.exitEn && decide (m ≥ r.exitThreshold), sat := l.sat || x.sat, margin := m,
      arrays := l.arrays ++ x.arrays }

/-- Notes what a token did to the counters (R173, registers DVT_PERF_SEL and DVT_PERF_EXIT). -/
def countToken (r : LayerEntry) (x : TokenScore) (s : State) : State :=
  s.onDvt fun d => { d with
    raised := d.raised + BitVec.ofNat 32 (b2n (!x.exited && decide (x.sel.count > x.sel.n))),
    capped := d.capped + BitVec.ofNat 32 (b2n (!x.exited && decide (x.sel.n > r.kMax))),
    exits := d.exits + BitVec.ofNat 32 (b2n x.exitNow), skipped := d.skipped + BitVec.ofNat 32 (b2n x.exited) }

/-- Notes the saturations of a step at its end (R173): its status, logit_sat where clamp32 saturated, and the arrays whose chain sums saturated. -/
def countSat (c : CmdRef) (xs : List TokenScore) (s : State) : State :=
  let arrs := (xs.flatMap (·.arrays)).eraseDups
  let clamped := xs.any (·.sat)
  let s := s.onDvt fun d => { d with
    logitSat := if clamped then d.logitSat + 1 else d.logitSat,
    arrays := arrs.foldl (fun m a => upd m a {} fun x => { x with satSeen := true, satEvents := satAdd x.satEvents 1 }) d.arrays }
  if clamped || !arrs.isEmpty then noteSat c s else s

/-- Notes the failed checks of score arrays (R174): residue_fault is set and each failed check counted. -/
def noteScoreChecks (bad : List (Nat × Checks)) (s : State) : State :=
  s.onDvt fun d => { d with arrays := bad.foldl (fun m b => upd m b.1 {} fun x =>
    { x with residueFault := true, residueErrs := satAdd x.residueErrs (b.2.residue + b.2.copies) }) d.arrays }

/-- The failure of a step by failed checks: INTEGRITY with the lowest score array at fault (R174). -/
def scoreBad (bad : List (Nat × Checks)) : Option Err :=
  match (bad.map (·.1)).min? with
  | none => none
  | some a => some (integrity 0x02 ((bad.filter fun b => b.1 == a).foldl (fun (k : Checks) b => k.add b.2) {}).code a)

/-- A score array has an arithmetic fault, so a step that needs the arrays does not run (R174). -/
def scoreFault (r : LayerEntry) (s : State) : Option Err :=
  if r.ext then none else (pick (fun a => (getD s.dvt.arrays a {}).residueFault) (List.range 4)).map fun a => integrity 0x02 2 a

/-- The 128 bytes of a candidate record (Table Score-4). -/
def candBytes (l t : Nat) (r : LayerEntry) (x : TokenScore) : List Byte :=
  toBytes 128 (layout ([(0, 1, 1), (1, 1, x.sel.count), (2, 1, if x.exited then 0 else r.mCand),
    (3, 1, b2n x.exited + 2 * b2n x.exitNow + 4 * b2n x.sat), (4, 2, t), (6, 2, l), (72, 8, x.margin), (80, 4, x.sel.sum), (84, 4, bitsOf 32 x.sel.m)] ++
    x.sel.cand.mapIdx fun i e => (8 + 4 * i, 4, e.1 + e.2 * 2 ^ 16)))

end Sys2Proof.Machine
end

