-- ==== Sys2Proof/Machine/Admit.lean ====
section
/-! DEFINITION. The Dovetail: credit plans, availability, admission and the spill decision (R179 to R201). -/

namespace Sys2Proof.Machine

/-! ### Layout tables and availability -/

/-- The layout tables of a partition. -/
def State.layout (s : State) (p : Nat) : Layout := getD s.dvt.layouts p {}
/-- Changes the layout tables of a partition. -/
def updLayout (p : Nat) (f : Layout → Layout) (s : State) : State := s.onDvt fun d => { d with layouts := upd d.layouts p {} f }

/-- Key of the availability state. -/
def availKey (l e : Nat) : Nat := l * 2 ^ 14 + e
/-- Instance word k of expert e at a layer of a table (R203). -/
def instWord (m : Map (List Nat)) (l e k : Nat) : Nat := (getD m l []).getD (4 * e + k) 0
/-- The host an instance word names, if it is valid. -/
def hostOf (w : Nat) : Option Nat := if w.testBit 20 then some (w % 2 ^ 20) else none

/-- The previous table is held: a step or a slot was granted under it (R206). -/
def State.prevHeld (s : State) (p : Nat) : Bool :=
  match (s.layout p).prevEpoch with
  | none => false
  | some e => s.dvt.banks.any (fun b => b.2.part == p && b.2.epoch == e) || s.dvt.slots.any fun x => x.2.part == p && x.2.epoch == e

/-! ### Credit plans (R181 to R186) -/

/-- mode: 1 EXPLICIT. -/
def Plan.explicit (x : Plan) : Bool := bit x.hdr 4
/-- spill_en. -/
def Plan.spillEn (x : Plan) : Bool := bit x.hdr 5
/-- n_cube. -/
def Plan.nCube (x : Plan) : Nat := byteFld x.hdr 8 2 % 2 ^ 12
/-- r_cube. -/
def Plan.rCube (x : Plan) : Nat := byteFld x.hdr 10 2 % 2 ^ 11
/-- n_chip. -/
def Plan.nChip (x : Plan) : Nat := byteFld x.hdr 12 1 % 2 ^ 7
/-- r_chip. -/
def Plan.rChip (x : Plan) : Nat := byteFld x.hdr 13 1 % 2 ^ 6
/-- spill_slots. -/
def Plan.spillSlots (x : Plan) : Nat := byteFld x.hdr 14 2
/-- Word of instance k of expert e (Table Cap-2). -/
def Plan.word (x : Plan) (e k : Nat) : Nat := x.words.getD (4 * e + k) 0

/-- share (R182). -/
def share (c n i e k : Nat) : Nat := if (i + e + k) % n < c % n then c / n + 1 else c / n

/-- credits (R182). -/
def Plan.credits (x : Plan) (e k : Nat) : Nat :=
  let amount := x.word e k % 2 ^ 20
  if x.explicit then amount else share (share amount x.nCube x.rCube e k) x.nChip x.rChip e k

/-- Reserved fields of a plan header. -/
def planRsv : List Rsv :=
  [rbits 0 15 6, rbits 2 15 10, rbits 6 15 15, rbits 8 15 12, rbits 10 15 11, rbits 12 7 7, rbits 13 7 6, rbits 16 5 1, rb 24 40]

/-- The header checks of R184 and Table Cap-1. A layer entry that is not valid is located at the header's layer (log 45). -/
def planVals (l : Nat) (entry : Option LayerEntry) (bs : List Byte) : List (Nat × Bool) :=
  let x : Plan := ⟨toBlock bs, 0, []⟩
  [(2, entry.isNone || le bs 2 2 % 2 ^ 10 != l),
   (6, match entry with
    | some r => le bs 6 2 % 2 ^ 15 != r.experts
    | none => false),
   (8, x.nCube == 0 || decide (x.nCube > 2048)), (10, decide (x.rCube ≥ x.nCube)),
   (12, x.nChip == 0 || decide (x.nChip > 64)), (13, decide (x.rChip ≥ x.nChip))]

/-- The layer entry of a layer. -/
def State.layer (s : State) (l : Nat) : Option LayerEntry := (find? s.dvt.layers l).map LayerEntry.mk

/-- KiB that n experts' entries take in a store: 16 bytes an expert, rounded up (R185, R205). -/
def storeKib (e : Nat) : Nat := ceilDiv (16 * e) 1024

/-- KiB of the plan store that a partition's plans take, but for one layer. -/
def State.planKib (s : State) (p l : Nat) : Nat :=
  ((s.dvt.plans.filter fun x => x.1 != l && s.inRange p 2 x.1).map fun x => storeKib (x.2.words.length / 4)).sum

/-- The first plan entry word at fault: its offset among the entries (R184, R555). A present bit of 0 with an amount is located at present (R554). -/
def planWordFault (ws : List Nat) : Option Nat :=
  firstSome (fun (e : Nat × Nat) =>
    if !e.1.testBit 20 && e.1 % 2 ^ 20 != 0 then some (4 * e.2 + 2) else if e.1 / 2 ^ 21 != 0 then some (4 * e.2 + 2) else none) ws.zipIdx

/-- Reads instance words: four for each of n experts. -/
def readWords (c : CmdRef) (p : Nat) (a : Addr) (n : Nat) (s : State) : Except Err (List Nat) := do
  let bs ← cmdRead c p a (16 * n) s
  .ok ((List.range (4 * n)).map fun i => le bs (4 * i) 4)

/-- DVT_PLAN_LOAD (R181, R184, R185). -/
def execDvtPlanLoad (c : CmdRef) (s : State) : Host.Outcome State Fault Refusal :=
  .next (wholeCmd c 0x0410 (fun k p s => do
    let l := cmdLayer k
    guardLayer p l s
    let bs ← cmdBlock c p (addr154 (op k 40 8)) 64 0x0B 0 planRsv (planVals l (s.layer l)) s
    let n := le bs 6 2 % 2 ^ 15
    let ws ← readWords c p (addrIn bs 16) n s
    match planWordFault ws with
    | some o => .error (badRsv 2 o)
    | none =>
      guardE (decide (s.planKib p l + storeKib n > s.rangeCount p 4)) ⟨.quota, 0xD0⟩
      .ok { s := s.onDvt fun d => { d with plans := put d.plans l ⟨toBlock bs, BitVec.ofNat 16 (le bs 4 2), ws⟩ } }) s)

/-- What mode 0 (set), 1 (clear) or 2 (replace) makes of availability bits. -/
def availNew (mode : Nat) (old v : BitVec 5) : BitVec 5 := if mode = 0 then old ||| v else if mode = 1 then old &&& ~~~v else v

/-- DVT_AVAIL_SET (R187): set, clear or replace the out bits and the quarantined bit of an expert. -/
def execDvtAvailSet (c : CmdRef) (s : State) : Host.Outcome State Fault Refusal :=
  .next (wholeCmd c 0x0411 (fun k p s => do
    guardLayer p (cmdLayer k) s
    let key := availKey (cmdLayer k) (op k 34 2 % 2 ^ 14)
    let v : BitVec 5 := BitVec.ofNat 5 (op k 36 1)
    let old := getD s.dvt.avail key 0
    let new := availNew (op k 36 1 / 32 % 4) old v
    .ok { s := s.onDvt fun d => { d with avail := if new = 0 then del d.avail key else put d.avail key new }, result := old.toNat }) s)

/-! ### Credit banks (R188, R191, R197) -/

/-- What a step admits against: its plan, the availability and the layout at grant, its layer. -/
structure Against where
  /-- plan -/
  plan : Plan
  /-- bank -/
  bank : Bank
  /-- layer -/
  l : Nat

/-- Present instances of an expert, ascending (Table Cap-2). -/
def Against.present (x : Against) (e : Nat) : List Nat := (List.range 4).filter fun k => (x.plan.word e k).testBit 20
/-- Availability bits of an expert at grant. -/
def Against.bits (x : Against) (e : Nat) : Nat := (getD x.bank.avail (availKey x.l e) 0).toNat
/-- The expert is quarantined. -/
def Against.quarantined (x : Against) (e : Nat) : Bool := (x.bits e).testBit 4
/-- The instance is out, or its layout word is not valid (R187, R207), also where no layout was ever loaded (log 77). -/
def Against.isOut (x : Against) (e k : Nat) : Bool := (x.bits e).testBit k || (hostOf (instWord x.bank.table x.l e k)).isNone
/-- The expert has no instance that is present and not out (R188). -/
def Against.unavailable (x : Against) (e : Nat) : Bool := (x.present e).all (x.isOut e)

/-- Credits of an instance that the bank holds (R188). -/
def Against.credit (x : Against) (e k : Nat) : Nat := if x.isOut e k || x.quarantined e then 0 else x.plan.credits e k

/-- The cursor of an expert (R191). -/
def Against.cursorOf (x : Against) (b : Spend) (e : Nat) : Nat :=
  getD b.cursor e ((x.plan.rCube + x.plan.rChip + e) % max 1 (x.present e).length)

/-- The present instances in the order in which the cursor takes them, with their index among the present ones. -/
def Against.turn (x : Against) (b : Spend) (e : Nat) : List (Nat × Nat) :=
  let ps := x.present e
  (List.range ps.length).map fun j => let i := (x.cursorOf b e + j) % ps.length; (i, ps.getD i 0)

/-- take (R190): charges one credit of an expert. -/
def takeCredit (x : Against) (e : Nat) (b : Spend) : Option (Nat × Spend) :=
  (pick (fun (i : Nat × Nat) => decide (getD b.used (4 * e + i.2) 0 < x.credit e i.2)) (x.turn b e)).map fun i =>
    (i.2, { used := upd b.used (4 * e + i.2) 0 (· + 1), cursor := put b.cursor e (i.1 + 1) })

/-! ### Admission (R190 to R194) -/

/-- Tries the overflow candidates from rank r on (R192): answers the rank, the instance, the spend and the next rank to try. -/
def tryOverflow (x : Against) (tauOvf : Nat) (cand : List (Nat × Nat)) : (fuel : Nat) → Nat → Spend → Option (Nat × Nat × Spend) × Nat
  | 0, r, _ => (none, r)
  | fuel + 1, r, b =>
    match cand[r]? with
    | none => (none, r)
    | some (e, p) =>
      if p ≥ tauOvf then match takeCredit x e b with
        | some (k, b) => (some (r, k, b), r + 1)
        | none => tryOverflow x tauOvf cand fuel (r + 1) b
      else tryOverflow x tauOvf cand fuel (r + 1) b

/-- Admits one choice; `ovf` is the next overflow rank (R190). -/
def admitChoice (x : Against) (r : LayerEntry) (spillOk : Bool) (cand : List (Nat × Nat)) (c ovf : Nat) (b : Spend) : Admitted × Nat × Spend :=
  let e := (cand.getD c (0, 0)).1
  let q := x.quarantined e
  match takeCredit x e b with
  | some (k, b) => (⟨c, e, k, c, 0, q, 0⟩, ovf, b)
  | none =>
    match tryOverflow x r.tauOverflow cand 16 ovf b with
    | (some (rank, k, b), ovf) => (⟨c, (cand.getD rank (0, 0)).1, k, rank, 1, q, 0⟩, ovf, b)
    | (none, ovf) =>
      if spillOk && !x.unavailable e then
        match pick (fun (i : Nat × Nat) => !x.isOut e i.2) (x.turn b e) with
        | some i => (⟨c, e, i.2, c, 2, q, 0⟩, ovf, { b with cursor := put b.cursor e (i.1 + 1) })
        | none => (⟨c, e, 0, c, 3, q, 0⟩, ovf, b)
      else (⟨c, e, 0, c, 3, q, 0⟩, ovf, b)

/-- Admits the choices of a token in rank order. -/
def admitChoices (x : Against) (r : LayerEntry) (spillOk : Bool) (cand : List (Nat × Nat)) : List Nat → Nat → Spend → List Admitted × Spend
  | [], _, b => ([], b)
  | c :: cs, ovf, b =>
    let (a, ovf, b) := admitChoice x r spillOk cand c ovf b
    let (as_, b) := admitChoices x r spillOk cand cs ovf b
    (a :: as_, b)

/-- The weight of a served choice when some choice is lost (R193). -/
def reweigh (a b n p : Nat) : Nat := if b = 0 then min 65535 (divRne a n) else min 65535 (divRne (p * a) b)

/-- Choices served. -/
def AdmitToken.served (t : AdmitToken) : Nat := (t.ch.filter fun c => c.disp != 3).length
/-- The token is unrouted (R193). -/
def AdmitToken.unrouted (t : AdmitToken) : Bool := t.count != 0 && t.served == 0
/-- Some choice was dropped. -/
def AdmitToken.lost (t : AdmitToken) : Bool := t.ch.any fun c => c.disp == 3

/-- weigh (R193). -/
def weigh (cand : List (Nat × Nat)) (count : Nat) (ch : List Admitted) : AdmitToken :=
  let p (r : Nat) : Nat := (cand.getD r (0, 0)).2
  let a := ((List.range count).map p).sum
  let ok := ch.filter fun c => c.disp != 3
  let b := (ok.map fun c => p c.rank).sum
  let lost := ok.length != ch.length
  { count := count, a := a, b := b,
    ch := ch.map fun c => { c with g := if c.disp = 3 then 0 else if lost then reweigh a b ok.length (p c.rank) else p c.rank } }

/-- Admits a token (R190). -/
def admitToken (x : Against) (r : LayerEntry) (spillOk : Bool) (count : Nat) (cand : List (Nat × Nat)) (b : Spend) : AdmitToken × Spend :=
  let (ch, b) := admitChoices x r spillOk cand (List.range count) count b
  (weigh cand count ch, b)

/-- The 192 bytes of an admission record (Table Cap-4). -/
def admitBytes (l t : Nat) (exited exitNow : Bool) (x : AdmitToken) : List Byte :=
  toBytes 192 (layout ([(0, 1, 1), (1, 1, x.count), (2, 1, x.served),
    (3, 1, b2n exited + 2 * b2n exitNow + 4 * b2n x.unrouted + 8 * b2n x.lost), (4, 2, t), (6, 2, l), (8, 4, x.a), (12, 4, x.b)] ++
    x.ch.map fun c => (16 + 8 * c.c, 8, c.expert + c.inst * 2 ^ 14 + c.g * 2 ^ 16 + c.rank * 2 ^ 32 + c.disp * 2 ^ 36 + b2n c.qhit * 2 ^ 38)))

/-- Detail bits 0 to 3 of R199. -/
def admitBits (ts : List AdmitToken) : Nat :=
  let any (f : Admitted → Bool) : Nat := b2n (ts.any fun t => t.ch.any f)
  any (·.qhit) + 2 * any (fun c => c.disp == 3) + 4 * any (fun c => c.disp == 2) + 8 * b2n (ts.any (·.unrouted))

/-- Counts what admission did to a token. -/
def countAdmit (x : AdmitToken) (s : State) : State :=
  let n (d : Nat) : W32 := BitVec.ofNat 32 (x.ch.filter fun c => c.disp == d).length
  s.onDvt fun d => { d with overflowed := d.overflowed + n 1, dropped := d.dropped + n 3, spillSent := d.spillSent + n 2 }

/-- The credit bank a command holds. -/
def State.bankOf (s : State) (c : CmdRef) : Option Bank := (pick (fun (b : Nat × Bank) => b.2.cmd == c) s.dvt.banks).map (·.2)

/-- The bank of a step is released (R197). -/
def freeBank (c : CmdRef) (s : State) : State := s.onDvt fun d => { d with banks := d.banks.filter fun b => b.2.cmd != c }

/-- What a step admits against, from the plan in force at its grant, or why it cannot (R186). -/
def admitAgainst (c : CmdRef) (l : Nat) (s : State) : Except Err Against :=
  match s.bankOf c with
  | none => .error ⟨.badRsv, 0⟩
  | some b => match find? b.plans l with
    | none => .error ⟨.badRsv, 0⟩
    | some x => if x.epoch = b.epoch then .ok ⟨x, b, l⟩ else .error ⟨.staleRole, b.epoch.toNat⟩

/-- spill_ok of a step (R195). -/
def spillOk (c : CmdRef) (x : Against) (s : State) : Bool := x.plan.spillEn && !(match s.inflight c with
  | some i => i.det
  | none => false)

/-! ### DVT_ADMIT -/

/-- A candidate record as read: count, ncand, flags and candidates (Table Score-4). -/
structure CandRec where
  /-- count -/
  count : Nat
  /-- ncand -/
  n : Nat
  /-- exited_in -/
  exited : Bool
  /-- exit_now -/
  exitNow : Bool
  /-- candidates with their p -/
  cand : List (Nat × Nat)

/-- Reserved fields of a candidate record. -/
def candRsv : List Rsv := [rbits 0 7 4, rbits 1 7 5, rbits 2 7 5, rbits 3 7 3, rbits 6 15 10, rb 88 40] ++ (List.range 16).map fun r => rbits (8 + 4 * r) 15 14

/-- The checks of R565 on record t: BAD_GEN, or BAD_RSV at a place in the record array. -/
def checkCand (r : LayerEntry) (l t : Nat) (bs : List Byte) : Except Err CandRec :=
  let ncand := le bs 2 1 % 32
  let count := le bs 1 1 % 32
  let e (i : Nat) : Nat := le bs (8 + 4 * i) 2 % 2 ^ 14
  let p (i : Nat) : Nat := le bs (10 + 4 * i) 2
  let entry (i : Nat) : List (Nat × Bool) :=
    if i < ncand then [(8 + 4 * i, decide (e i ≥ r.experts))] else [(8 + 4 * i, e i != 0), (10 + 4 * i, p i != 0)]
  if le bs 0 1 % 16 ≠ 1 then .error (badGen 0x0A 0)
  else match fieldFault (ofBytes bs) candRsv
      ([(2, ncand != 0 && ncand != r.mCand), (1, if ncand = 0 then count != 0 else ncand == r.mCand && (decide (count < r.kMin) || decide (count > r.kMax))),
        (4, le bs 4 2 != t), (6, le bs 6 2 % 2 ^ 10 != l)] ++ (List.range 16).flatMap entry) with
    | some o => .error (badRsv 2 (128 * t + o))
    | none => .ok ⟨count, ncand, (le bs 3 1).testBit 0, (le bs 3 1).testBit 1, (List.range ncand).map fun i => (e i, p i)⟩

/-- Reserved fields of a DVT_ADMIT block. -/
def admitRsv : List Rsv := [rbits 0 15 4, rbits 2 15 10, rbits 4 31 17, rbits 8 5 1, rbits 16 5 1, rb 24 40]

/-- Values of a DVT_ADMIT block outside their ranges. -/
def admitVals (bs : List Byte) : List (Nat × Bool) := [(4, badV bs)]

end Sys2Proof.Machine
end

