-- ==== Sys2Proof/Machine/Layouts.lean ====
section
/-! DEFINITION. The Dovetail: layout tables, their switch and grace list, and receive windows (R202 to R208, R215). -/

namespace Sys2Proof.Machine

/-! ### Layout tables -/

/-- Reserved fields of a layout record header (R203). -/
def layoutRsv : List Rsv := [rbits 0 15 4, rbits 2 15 10, rbits 4 15 15, rb 6 2, rbits 8 5 1, rb 16 48]

/-- A layout record header has no field with a range of its own. -/
def layoutVals (_ : List Byte) : List (Nat × Bool) := []

/-- KiB of the layout store that a partition's tables take, without a staged copy of one layer (R205). -/
def State.layoutKib (s : State) (p l : Nat) : Nat :=
  let x := s.layout p
  let kib (m : Map (List Nat)) : Nat := (m.map fun e => storeKib (e.2.length / 4)).sum
  kib x.current + kib (x.staged.filter fun e => e.1 != l) + (if s.prevHeld p then kib x.previous else 0)

/-- DVT_LAYOUT_LOAD (R203 to R205): one layer of the staged table. A layer entry that is not valid is located at E (log 45). -/
def execDvtLayoutLoad (c : CmdRef) (s : State) : Host.Outcome State Fault Refusal :=
  .next (wholeCmd c 0x0420 (fun k p s => do
    let bs ← cmdBlock c p (addr154 (op k 32 8)) 64 0x0D 0 layoutRsv layoutVals s
    let l := le bs 2 2 % 2 ^ 10
    let n := le bs 4 2 % 2 ^ 15
    guardE (!s.inRange p 2 l) (accessAt 2)
    match s.layer l with
    | none => .error (badRsv 1 4)
    | some r =>
      guardE (n != r.experts) (badRsv 1 4)
      let ws ← readWords c p (addrIn bs 8) n s
      match planWordFault ws with
      | some o => .error (badRsv 2 o)
      | none =>
        guardE (decide (s.layoutKib p l + storeKib n > s.rangeCount p 5)) ⟨.quota, 0xD1⟩
        .ok { s := updLayout p (fun x => { x with staged := put x.staged l ws }) s }) s)

/-- The table with the staged layers put in. -/
def Layout.next (x : Layout) : Map (List Nat) := x.staged.foldl (fun m e => put m e.1 e.2) x.current

/-- An expert word's expert and layer (R202). -/
def wordExpert (w : Nat) : Nat := w % 2 ^ 14
/-- The layer of an expert word. -/
def wordLayer (w : Nat) : Nat := w / 2 ^ 14 % 2 ^ 10

/-- Checks a grace list of n entries at an address (R208): expert words with their instances, or the fault.
Each must be hosted here under the old table and not under the new one. -/
def readGrace (c : CmdRef) (p : Nat) (a : Addr) (n : Nat) (new : Map (List Nat)) (s : State) : Except Err (List (Nat × Nat)) := do
  if n = 0 then .ok []
  else
    let bs ← cmdRead c p a (8 * n) s
    let here (m : Map (List Nat)) (w i : Nat) : Bool := hostOf (instWord m (wordLayer w) (wordExpert w) i) == some s.selfId
    (List.range n).mapM fun j => do
      let w := le bs (8 * j) 4
      let i := le bs (8 * j + 4) 1 % 4
      match fieldFault (ofBytes (slice bs (8 * j) 8)) [rbits 0 31 24, rbits 4 31 2] [(0, !here (s.layout p).current w i || here new w i)] with
      | some o => .error (badRsv 2 (8 * j + o))
      | none => .ok (w, i)

/-- Plans of unchanged layers take the new epoch (R206). -/
def advancePlans (p : Nat) (old new : Map (List Nat)) (epoch : W16) (s : State) : State :=
  s.onDvt fun d => { d with plans := d.plans.map fun x =>
                            if s.inRange p 2 x.1 && getD old x.1 [] == getD new x.1 [] then (x.1, { x.2 with epoch := epoch }) else x }

/-- DVT_LAYOUT_SWITCH (R206, R208). -/
def execDvtLayoutSwitch (c : CmdRef) (s : State) : Host.Outcome State Fault Refusal :=
  .next (wholeCmd c 0x0421 (fun k p s => do
    let x := s.layout p
    let e := BitVec.ofNat 16 (op k 32 2)
    guardE (!newer e x.epoch) (badRsv 0 32)
    let new := x.next
    let g ← readGrace c p (addr154 (op k 40 8)) (op k 36 1) new s
    let s := advancePlans p x.current new e s
    .ok { s := updLayout p (fun _ =>
            { current := new, epoch := e, staged := [], previous := x.current.filter fun l => (find? x.staged l.1).isSome,
              prevEpoch := some x.epoch, grace := g, graceEnd := s.clk + op k 34 2 * 1000 }) s,
          result := x.epoch.toNat }) s)

/-- GRACE_EXPIRY (R208): the grace time of a partition's last switch has passed. -/
def execGraceExpiry (p : Part) (s : State) : Host.Outcome State Fault Refusal :=
  .next (if s.clk ≥ (s.layout p).graceEnd then updLayout p ({ · with grace := [] }) s else s)

/-- An instance is on the grace list of the last switch, and the unit carries the epoch before it (R208, R216). -/
def State.graced (s : State) (p word inst epoch : Nat) : Bool :=
  let x := s.layout p
  (x.grace.any fun g => g.1 % 2 ^ 24 == word % 2 ^ 24 && g.2 == inst) && x.prevEpoch.map (·.toNat) == some epoch && decide (s.clk < x.graceEnd)

/-! ### Receive windows (R215) -/

/-- Reserved fields of a DVT_RECV_OPEN block. -/
def recvRsv : List Rsv := [rbits 0 15 4, rbits 2 7 3, rbits 3 7 7, rbits 4 15 10, rbits 8 5 1, rb 16 48]

/-- Values of a DVT_RECV_OPEN block outside their ranges. -/
def recvVals (bs : List Byte) : List (Nat × Bool) := [(3, le bs 3 1 % 128 == 0 || decide (le bs 3 1 % 128 > 64))]

/-- Reserved fields of an instance entry (Table Disp-4). -/
def instRsv : List Rsv := [rbits 4 31 20, rbits 8 31 23, rbits 12 15 11, rbits 14 7 5, rb 15 1, rbits 16 31 23, rbits 20 15 14, rb 22 10]

/-- Values of an instance entry outside their ranges. -/
def instVals (bs : List Byte) : List (Nat × Bool) :=
  let g := le bs 12 2 % 2 ^ 11
  let n := le bs 14 1 % 32
  [(12, decide (g < 2) || decide (g > 1025)), (14, decide (n < 4) || decide (n > 16))]

/-- Reads and checks an instance table of n entries. -/
def readInsts (c : CmdRef) (p : Nat) (a : Addr) (n : Nat) (s : State) : Except Err (List RecvInst) := do
  let bs ← cmdRead c p a (32 * n) s
  (List.range n).mapM fun i => do
    let b := slice bs (32 * i) 32
    match fieldFault (ofBytes b) instRsv (instVals b) with
    | some o => .error (badRsv 2 (32 * i + o))
    | none =>
      guardE (!s.inRange p 1 (le b 20 2 % 2 ^ 14)) (accessErr (2 ^ 31 + 32 * i + 20))
      .ok { entry := BitVec.ofNat 256 (ofBytes b) }

/-- DVT_RECV_OPEN (R215): opens a window in place of any earlier one. -/
def execDvtRecvOpen (c : CmdRef) (s : State) : Host.Outcome State Fault Refusal :=
  .next (wholeCmd c 0x0422 (fun k p s => do
    let bs ← cmdBlock c p (addr154 (op k 32 8)) 64 0x0E 0 recvRsv recvVals s
    let w := le bs 2 1 % 8
    let l := le bs 4 2 % 2 ^ 10
    guardE (!s.inRange p 7 w) (accessAt 2)
    guardE (!s.inRange p 2 l) (accessAt 4)
    let insts ← readInsts c p (addrIn bs 8) (le bs 3 1 % 128) s
    .ok { s := s.onDvt fun d => { d with windows := put d.windows w ⟨p, l, le bs 6 2, insts, []⟩, returns := d.returns.filter fun r => r.1 != w } }) s)

end Sys2Proof.Machine
end

