-- ==== Sys2Proof/Machine/Issue.lean ====
section
/-! DEFINITION. Array instructions as they are issued: their fields (Tables Prog-5, Prog-6 and Prog-8), the bench lines they touch, and what a GATHER
that has not fired holds back (R119, R131). -/

namespace Sys2Proof.Machine

/-- The state of array a. -/
def State.arr (s : State) (a : Nat) : Arr := getD s.arrs a {}
/-- The state with an array changed. -/
def State.onArr (s : State) (a : Nat) (f : Arr → Arr) : State := { s with arrs := upd s.arrs a {} f }

/-- n bits of an instruction's bytes. -/
def ifld (k : BitVec 256) (off n hi lo : Nat) : Nat := nfld (byteFld k off n) hi lo

/-- A 12-bit line field at a byte offset. -/
def iline (k : BitVec 256) (off : Nat) : Nat := byteFld k off 2 % 4096

/-- A count of vectors: 0 stands for 4,096. -/
def count12 (v : Nat) : Nat := if v = 0 then 4096 else v

/-- A scalar register of an array. -/
def Arr.sreg (x : Arr) (i : Nat) : W32 := getD x.s i 0

/-- s[areg], or 0 when areg is 0. -/
def Arr.areg (x : Arr) (i : Nat) : Nat := if i = 0 then 0 else (x.sreg i).toNat

/-- The scalar register named in byte 1. -/
def regOf (k : BitVec 256) : Nat := ifld k 1 1 3 0

/-! ### FILL -/

/-- Bits of an element format: 0 SSI4, 1 SSI8, 2 SSI16. -/
def elemBits (f : Nat) : Nat := match f with
  | 0 => 4 | 1 => 8 | _ => 16
/-- Bits of an output format: 1 ACC48, 2 SSI4, 3 SSI8, 4 SSI16; 0 for none. -/
def outBits (f : Nat) : Nat := match f with
  | 1 => 48 | 2 => 4 | 3 => 8 | 4 => 16 | _ => 0

/-- The fields of a FILL with s[areg] and the vector count put in (Table Prog-5). -/
structure FillOp where
  mode : Nat
  first : Bool
  last : Bool
  explicit : Bool
  sr : Bool
  /-- byte of the weight tile -/
  w : Nat
  /-- byte of the weight scales -/
  wsc : Nat
  /-- line of vector 0 -/
  act : Nat
  actStride : Nat
  /-- byte of the activation scales -/
  asc : Nat
  ascStride : Nat
  /-- vectors -/
  n : Nat
  /-- line of the working sums -/
  sum : Nat
  exp : Int
  /-- bits of the output format -/
  out : Nat
  dst : Nat
  /-- line or granule of the outputs -/
  outAt : Nat
  outStride : Nat
  /-- bits of an activation and of a weight -/
  aw : Nat
  ww : Nat

/-- Decodes a FILL as it stands at array x (R120, R121). -/
def fillOp (x : Arr) (k : BitVec 256) : FillOp :=
  let r := x.areg (ifld k 21 1 3 0)
  { mode := ifld k 1 1 3 0, first := bit k 12, last := bit k 13, explicit := bit k 14, sr := bit k 15
    w := iline k 2 * 64, wsc := iline k 4 * 64
    act := (iline k 6 + r) % 4096, actStride := iline k 8
    asc := (iline k 10 + r) % 4096 * 64, ascStride := iline k 12
    n := if bit k 124 then x.gcount.toNat else count12 (iline k 14)
    sum := (iline k 16 + r) % 4096
    exp := signed 10 (byteFld k 18 2)
    out := outBits (ifld k 20 1 2 0), dst := ifld k 20 1 4 3
    outAt := if ifld k 20 1 4 3 = 1 then byteFld k 24 4 % 2 ^ 23 else (iline k 22 + r) % 4096
    outStride := iline k 28
    aw := elemBits (ifld k 30 1 1 0), ww := elemBits (ifld k 30 1 3 2) }

/-- Output columns of a tile (Table Array-1, Table Sparse-3). -/
def tileCols (mode ww : Nat) : Nat := if mode = 1 ∨ (mode = 4 ∧ ww = 4) then 128 else 64
/-- Contraction blocks of a tile. -/
def tileBlocks (mode : Nat) : Nat := if mode = 4 then 4 else 2

/-! ### LMATMUL -/

/-- A tensor address of the parameter block: Loft granule or bench line, as a byte address. -/
structure TensorAt where
  /-- in the Loft -/
  loft : Bool
  /-- byte -/
  a : Nat
deriving DecidableEq, Repr

/-- The LMATMUL parameter block (Table Prog-6). -/
structure MatOp where
  mode : Nat
  explicit : Bool
  sr : Bool
  out : Nat
  dst : Nat
  m : Nat
  k : Nat
  n : Nat
  exp : Int
  aEl : TensorAt
  aSc : TensorAt
  wEl : TensorAt
  wSc : TensorAt
  oEl : TensorAt
  oSc : TensorAt
  stage : Nat
  stageLen : Nat
  sum : Nat
  g : Nat
  aw : Nat
  ww : Nat

/-- A tensor address at byte off. -/
def tensorAt (bs : List Byte) (off : Nat) : TensorAt :=
  let x := le bs off 4
  ⟨x.testBit 31, x % 2 ^ 23 * 64⟩

/-- Decodes the parameter block. -/
def matOp (bs : List Byte) : MatOp :=
  let h := le bs 0 2
  { mode := nfld h 7 4, explicit := h.testBit 8, sr := h.testBit 9, out := outBits (nfld h 12 10), dst := nfld h 14 13
    m := le bs 2 2, k := le bs 4 3, n := le bs 8 2, exp := signed 10 (le bs 10 2)
    aEl := tensorAt bs 12, aSc := tensorAt bs 16, wEl := tensorAt bs 20, wSc := tensorAt bs 24, oEl := tensorAt bs 28, oSc := tensorAt bs 32
    stage := le bs 36 2 % 4096, stageLen := le bs 38 2 % 4096, sum := le bs 40 2 % 4096, g := count12 (le bs 42 2 % 4096)
    aw := elemBits (le bs 44 1 % 4), ww := elemBits (le bs 44 1 / 4 % 4) }

/-- Bytes of a weight block in memory: compressed in mode 0x4 (R139). -/
def MatOp.wBlock (o : MatOp) : Nat := if o.mode = 4 then (if o.ww = 4 then 12 else 20) else blockBytesOf o.ww

/-- Columns of a tile. -/
def MatOp.cols (o : MatOp) : Nat := tileCols o.mode o.ww
/-- Contraction blocks of a row: J. -/
def MatOp.blocks (o : MatOp) : Nat := ceilDiv o.k 32

/-- The byte of the bench at which an LMATMUL's parameter block lies. -/
def matParamAt (x : Arr) (k : BitVec 256) : Nat := (iline k 2 + x.areg (regOf k)) % 4096 * 64

/-! ### Bench lines an instruction touches -/

/-- A run of bytes of a bench: its first byte and its length. A run past the end goes on at its beginning (R120). -/
abbrev Span := Nat × Nat

/-- Two runs share a bench line. -/
def Span.meets (x y : Span) : Bool :=
  let lines (z : Span) : Nat := (z.1 % 64 + z.2 + 63) / 64
  let a := x.1 / 64 % 4096
  let b := y.1 / 64 % 4096
  x.2 != 0 && y.2 != 0 && (decide ((b + 4096 - a) % 4096 < lines x) || decide ((a + 4096 - b) % 4096 < lines y))

/-- What a FILL reads in the bench beside its working sums (R123, R145, R147). -/
def FillOp.reads (f : FillOp) : List Span :=
  let cols := tileCols f.mode f.ww
  let nb := tileBlocks f.mode
  let vs := List.range f.n
  [(f.w, if f.mode = 4 then (if f.ww = 4 then 97 else 81) * 64 else cols * 2 * blockBytesOf f.ww), (f.wsc, cols * nb)] ++
  vs.map (fun v => ((f.act + v * f.actStride) * 64, nb * blockBytesOf f.aw)) ++ vs.map (fun v => (f.asc + v * f.ascStride, nb))

/-- The sum and pass-sum regions of a FILL, and its outputs where they go to the bench (R97, R123). -/
def FillOp.writes (f : FillOp) : List Span :=
  let cols := tileCols f.mode f.ww
  let vs := List.range f.n
  vs.map (fun v => ((f.sum + cols / 8 * v) * 64, 8 * cols)) ++
  (if f.mode = 3 then vs.map fun v => ((f.sum + 8 * f.n + 16 * v) * 64, 1024) else []) ++
  (if f.last && f.dst == 0 then
    vs.map (fun v => ((f.outAt + v * f.outStride) * 64, cols / 32 * blockBytesOf f.out)) ++
      [((f.outAt + f.n * f.outStride) * 64, f.n * (cols / 32 * scaleBytesOf f.out))]
  else [])

/-- A run of a tensor in the bench; none for a tensor in the Loft. -/
def TensorAt.span (t : TensorAt) (n : Nat) : Span := (t.a, if t.loft then 0 else n)

/-- The operands of an LMATMUL in the bench beside its parameter block (R124). -/
def MatOp.reads (o : MatOp) : List Span :=
  [o.aEl.span (o.m * o.blocks * blockBytesOf o.aw), o.aSc.span (o.m * o.blocks), o.wEl.span (o.n * o.blocks * o.wBlock), o.wSc.span (o.n * o.blocks)]

/-- The outputs of an LMATMUL in the bench, its staging region, and its sum and pass-sum regions (R97, R125, R126). -/
def MatOp.writes (o : MatOp) : List Span :=
  let jo := ceilDiv o.n 32
  [o.oEl.span (o.m * jo * blockBytesOf o.out), o.oSc.span (o.m * jo * scaleBytesOf o.out), (o.stage * 64, o.stageLen * 64),
   (o.sum * 64, if o.mode = 3 then (8 + 16) * o.g * 64 else o.cols / 8 * o.g * 64)]

/-- What a VLU instruction reads or writes in the bench (Table Prog-11). -/
def vecSpans (x : Arr) (k : BitVec 256) : List Span :=
  let r := x.areg (ifld k 14 1 3 0)
  let line := (iline k 12 + r) % 4096 * 64
  let sub := ifld k 5 1 6 4
  match byteFld k 0 1 with
  | 0x20 => [(line, match sub with
      | 0 => 256 | 1 => 32 | 2 => 64 | 3 => 128 | _ => 512)]
  | 0x21 => [(line, if sub = 4 then 512 else 256)]
  | 0x34 => [(line, blockBytesOf (elemBits sub)), ((byteFld k 16 4 % 2 ^ 18 + r) % 2 ^ 18, 1)]
  | _ => []

/-- The bench lines a GATHER may fill: those of every vector of a full batch, with the most scale bytes an entry may name, and its tags (R131). -/
def gatherSpans (k : BitVec 256) : List Span :=
  let vs := List.range (count12 (iline k 2))
  vs.map (fun v => ((iline k 16 + v * iline k 18) * 64, iline k 24 * 64)) ++ vs.map (fun v => (iline k 20 * 64 + v * iline k 22, 512)) ++
    [(iline k 26 * 64, 4 * count12 (iline k 2))]

/-! ### What holds an instruction back -/

/-- An instruction reads or writes s15 or gcount, which a GATHER that has not fired will write (R131). -/
def usesCount (k : BitVec 256) : Bool :=
  match byteFld k 0 1 with
  | 0x01 | 0x02 | 0x03 => regOf k == 15
  | 0x10 => bit k 124 || ifld k 21 1 3 0 == 15
  | 0x11 => regOf k == 15
  | 0x04 | 0x06 | 0x09 => false
  | o => decide (0x20 ≤ o) && ifld k 14 1 3 0 == 15

/-- The bench lines an instruction touches, as far as they do not depend on lines it reads. -/
def instrSpans (x : Arr) (k : BitVec 256) : List Span :=
  match byteFld k 0 1 with
  | 0x09 => [(iline k 12 * 64, 4096)]
  | 0x10 => (fillOp x k).reads ++ (fillOp x k).writes
  | 0x11 => [(matParamAt x k, 64)]
  | _ => vecSpans x k

/-- An instruction waits for the outstanding GATHER (R119, R131): SIGPEG, SCRIBE and END wait for every earlier instruction, a GATHER for the counts, and any
other instruction where it uses s15, gcount or a bench line that the GATHER fills. -/
def State.heldBack (s : State) (a : Nat) (k : BitVec 256) : Bool :=
  let x := s.arr a
  match x.gather with
  | none => false
  | some g =>
    let fills := gatherSpans g.k
    let meets (ys : List Span) : Bool := fills.any fun f => ys.any (Span.meets f)
    match byteFld k 0 1 with
    | 0x00 | 0x05 | 0x07 | 0x08 => true
    | 0x11 => usesCount k || meets (instrSpans x k) ||
        (let o := matOp ((List.range 64).map fun i => memGet s.bench (benchAt a (matParamAt x k + i)))
         meets (o.reads ++ o.writes))
    | _ => usesCount k || meets (instrSpans x k)

/-- The instruction an array stands at, with its launch, when the array runs it and nothing holds it back: nothing issues while a bay of its partition is busy
(R371, log 10), a regulator of the launch's class holds back what it would access (R418, log 97), or the arrays get no clock pulse (R492, log 143). -/
def State.current (s : State) (a : Nat) : Option (ArrLaunch × BitVec 256) :=
  let x := s.arr a
  match x.launch, x.image with
  | some l, some im =>
    if l.ended || s.stilled || s.bayWaits (s.cmdPart l.cmd) || s.regWaits (s.cmdPart l.cmd) (s.cmdLc l.cmd) then none
    else match im.code[x.pc]? with
      | some k => if s.heldBack a k then none else some (l, k)
      | none => none
  | _, _ => none

/-- The instruction of opcode o that array a stands at. -/
def State.currentOp (s : State) (a o : Nat) : Option (ArrLaunch × BitVec 256) :=
  match s.current a with
  | some (l, k) => if byteFld k 0 1 = o then some (l, k) else none
  | none => none

/-- The GATHER of array a that has issued and not fired, with its launch (R128, R131). -/
def State.gathering (s : State) (a : Nat) : Option (ArrLaunch × Gather) :=
  match (s.arr a).launch, (s.arr a).gather with
  | some l, some g => if l.ended || s.stilled then none else some (l, g)
  | _, _ => none

end Sys2Proof.Machine
end

