-- ==== Sys2Proof/Machine/ArrayOps.lean ====
section
/-! DEFINITION. Arrays as machines: going on and stopping, the end of a launch, saturation and failed checks, and the memory an array reaches (R82 to R85, R116
to R120). -/

namespace Sys2Proof.Machine

/-! ### The end of a launch (R117, R138) -/

/-- The arrays a command holds, ascending, each with its launch record. -/
def State.arraysOf (s : State) (c : CmdRef) : List (Nat × ArrLaunch) :=
  (List.range 256).filterMap fun a => match (s.arr a).launch with
    | some l => if l.cmd = c then some (a, l) else none
    | none => none

/-- The resume entry of a launch (R425). -/
def State.resumeOf (s : State) (c : CmdRef) : Option Nat :=
  (pick (fun (e : Nat × Resume) => e.2.cmd == c && !e.2.stopped) s.par.resumes).map (·.1)

/-- Bytes saved in a resume entry. -/
def Resume.bytes (r : Resume) : Nat := r.arrs.foldl (fun n x => n + x.n) 0

/-- A resume id: the entry and its serial (R425). -/
def State.resumeId (s : State) (i : Nat) : Nat := i + 256 * (getD s.par.serials i 0).toNat

/-- A launch leaves the requests that name it; one that completed PREEMPTED is counted (R426). -/
def leaveRequests (c : CmdRef) (preempted : Bool) (s : State) : State :=
  let f (q : Preempt) : Preempt :=
    if q.launches.contains c then { q with launches := q.launches.erase c, done := q.done + b2n preempted } else { q with steps := q.steps.erase c }
  s.onPar fun r => { r with requests := r.requests.map f }

/-- Completes every PAR_PREEMPT whose launches have all completed (R426). -/
def settleRequests (s : State) : State :=
  let done := s.par.requests.filter fun q => q.launches.isEmpty && q.steps.isEmpty
  let s := s.onPar fun r => { r with requests := r.requests.filter fun q => !(q.launches.isEmpty && q.steps.isEmpty) }
  done.foldl (fun s q => endCmd q.cmd .ok (q.done + q.passed.length * 2 ^ 32) 0 s) s

/-- Frees the arrays of a launch. -/
def freeArrays (c : CmdRef) (preempted : Bool) (s : State) : State :=
  let f (x : Arr) : Arr := match x.launch with
    | some l => if l.cmd = c then { x with
        launch := none, phase := if preempted && l.mark.isSome then .preempted else .idle, wait := none, gather := none } else x
    | none => x
  { s with arrs := s.arrs.map fun e => (e.1, f e.2) }

/-- Ends a launch when every array of it has executed END or has stopped. A failing status goes before PREEMPTED, and PREEMPTED
before the completed ones; the lowest-numbered failing or stopped array is reported (R54, R117, R138). Its cycle count is a free value (log 14). -/
def settleLaunch (c : CmdRef) (s : State) : State :=
  let xs := s.arraysOf c
  if xs.isEmpty || xs.any (fun e => !e.2.ended) then s
  else
    let s := if xs.any (·.2.sat) then noteSat c s else s
    match firstSome (fun (e : Nat × ArrLaunch) => e.2.err) xs, firstSome (fun (e : Nat × ArrLaunch) => e.2.mark) xs with
    | some e, _ =>
      let s := match s.resumeOf c with
        | some i => s.onPar fun r => { r with resumes := del r.resumes i }
        | none => s
      settleRequests (leaveRequests c false (endCmd c e.st 0 e.det (freeArrays c false s)))
    | none, some m =>
      match s.resumeOf c with
      | none => s
      | some i =>
        let n := (getD s.par.resumes i { part := 0, cmd := c, pkt := 0 }).bytes
        let s := s.onPar fun r => { r with resumes := upd r.resumes i { part := 0, cmd := c, pkt := 0 } ({ · with stopped := true }) }
        settleRequests (leaveRequests c true (endCmd c .preempted (s.resumeId i + n * 2 ^ 32) m (freeArrays c true s)))
    | none, none =>
      let d := s.draw
      settleRequests (leaveRequests c false (endCmd c .ok (Config.freeWord d.1).toNat 0 (freeArrays c false d.2)))

/-- A fill run ends, and is counted where any of its fills entered a slot: a run whose tiles are all skipped is not (log 128). -/
def endRun (x : Arr) : Arr := if x.segment.isSome then { x with segment := none, runs := x.runs + 1 } else x

/-- Ends an array's part in its launch, and with it a fill run in progress. -/
def endArray (a : Nat) (l : ArrLaunch) (f : ArrLaunch → ArrLaunch) (s : State) : State :=
  settleLaunch l.cmd (s.onArr a fun x =>
    { endRun x with launch := x.launch.map fun l => { f l with ended := true }, phase := .idle, wait := none, gather := none })

/-- A fault located in an instruction of the image leaves its index in fault_instr (R554). -/
def noteFaultInstr (e : Err) (x : Arr) : Arr :=
  let i := (e.det % 2 ^ 30 - 64) / 32
  let n := match x.image with
    | some im => im.code.length
    | none => 0
  if e.st = .badRsv ∧ e.det / 2 ^ 30 = 1 ∧ e.det % 2 ^ 30 ≥ 64 ∧ i < n then { x with faultInstr := BitVec.ofNat 10 i } else x

/-- An array stops with a failure of the structure its instruction names. -/
def failArray (a : Nat) (l : ArrLaunch) (e : Err) (s : State) : State := endArray a l ({ · with err := some e }) s

/-- An array stops with a failure. -/
def stopArray (a : Nat) (l : ArrLaunch) (e : Err) (s : State) : State := failArray a l e (s.onArr a (noteFaultInstr e))

/-- An array goes on at the instruction `target`; one that falls past its last instruction stops (R120). -/
def goTo (a : Nat) (l : ArrLaunch) (target : Nat) (s : State) : State :=
  let n := match (s.arr a).image with
    | some im => im.code.length
    | none => 0
  if target < n then s.onArr a fun x => { x with pc := target, phase := .running, wait := none }
  else stopArray a l (badRsv 1 2) (s.onArr a fun x => { x with faultInstr := BitVec.ofNat 10 (n - 1) })

/-- An array goes on at its next instruction. -/
def goOn (a : Nat) (l : ArrLaunch) (s : State) : State := goTo a l ((s.arr a).pc + 1) s

/-- An instruction that either changes the state or stops its array with a failure, then goes on. -/
def instrStep (a o : Nat) (f : ArrLaunch → BitVec 256 → State → Except (State × Err) State) (s : State) : State :=
  match s.currentOp a o with
  | none => s
  | some (l, k) => match f l k s with
    | .ok s' => goOn a l s'
    | .error (s', e) => stopArray a l e s'

/-- The location of a byte of the instruction an array stands at (R554). -/
def instrAt (x : Arr) (off : Nat) : Nat := 64 + 32 * x.pc + off

/-- A failure that leaves the state as it is. -/
def orStop {α : Type} (s : State) (r : Except Err α) : Except (State × Err) α :=
  match r with
  | .ok x => .ok x
  | .error e => .error (s, e)

/-- Notes saturation on an array: sat_seen is set, and a launch is counted once (R82). -/
def noteArrSat (a : Nat) (b : Bool) (s : State) : State :=
  if !b then s
  else s.onArr a fun x =>
    let first := match x.launch with
      | some l => !l.sat
      | none => false
    { x with satSeen := true, satEvents := if first then satAdd x.satEvents 1 else x.satEvents,
             launch := x.launch.map fun l => { l with sat := true } }

/-- Notes failed checks on an array (R84): residue_fault is set and each failed check is counted. -/
def noteChecks (a : Nat) (b : Checks) (s : State) : State :=
  if b.any then s.onArr a fun x => { x with residueFault := true, residueErrs := satAdd x.residueErrs (b.residue + b.copies) } else s

/-- The end of an instruction whose checks may have failed: it goes on, or stops its array with INTEGRITY and the array's number (R84). -/
def settleChecks (a : Nat) (b : Checks) (s : State) : Except (State × Err) State :=
  if b.any then .error (noteChecks a b s, integrity 1 b.code a) else .ok s

/-! ### Bench lines and the partition's Loft -/

/-- Reads n bytes of an array's bench from a byte address; addresses wrap (R120). -/
def benchIn (s : State) (a off n : Nat) : Except (State × Err) (List Byte) := orStop s (s.readBench a off n)

/-- An array's launch reads n bytes of the partition's Loft. -/
def loftIn (s : State) (l : ArrLaunch) (addr n : Nat) : Except (State × Err) (List Byte) :=
  orStop s (cmdRead l.cmd (s.cmdPart l.cmd) ⟨false, addr⟩ n s)

/-- An array's launch writes to the partition's Loft; a failing access stops it with what was written. -/
def loftOut (s : State) (l : ArrLaunch) (addr : Nat) (bs : List Byte) : Except (State × Err) State :=
  match cmdWrite l.cmd (s.cmdPart l.cmd) ⟨false, addr⟩ bs s with
  | (s', _, some e) => .error (s', e)
  | (s', _, none) => .ok s'

/-- The SR rounding of an array's key, with element 0 at the given index (R80). -/
def Arr.rounding (x : Arr) (sr : Bool) (index : Nat) : Rounding := ⟨sr, x.key.seed, x.key.tensor.toNat, index % 2 ^ 48⟩

end Sys2Proof.Machine
end

