-- ==== Sys2Proof/Machine/Image.lean ====
section
/-! DEFINITION. Program images: the header, the checks of a whole image at load, and the launch commands (R112 to R118, R562). -/

namespace Sys2Proof.Machine

/-- ARITH_ID of stepping A1 (R442). -/
def arithId : Nat := 0x100000010000007F

/-- The reserved runs of an instruction, by opcode; none for an opcode of no instruction (Tables Prog-3 to Prog-10, R118). -/
def instrRsv (o : Nat) : Option (List Rsv) :=
  match o with
  | 0x00 => some [rb 1 31]
  | 0x01 => some [rbits 1 7 4, rb 2 2, rb 8 24]
  | 0x02 => some [rbits 1 7 4, rb 2 2, rb 8 24]
  | 0x03 => some [rbits 1 7 4, rbits 2 15 10, rb 4 28]
  | 0x04 => some [rb 1 3, rb 6 2, rbits 8 15 14, rb 16 16]
  | 0x05 => some [rbits 1 7 4, rb 2 6, rb 16 16]
  | 0x06 => some [rb 1 3, rb 28 4]
  | 0x07 => some [rb 1 1, rb 6 26]
  | 0x08 => some [rbits 1 7 1, rbits 2 15 12, rbits 7 7 5, rbits 8 15 14, rbits 10 15 14, rbits 12 31 23, rbits 16 15 12,
      rbits 18 15 12, rbits 20 15 12, rbits 22 15 12, rbits 24 15 12, rbits 26 15 12]
  | 0x09 => some [rb 1 6, rbits 7 7 2, rb 8 4, rbits 12 15 12, rb 14 18]
  | 0x10 => some [rbits 2 15 12, rbits 4 15 12, rbits 6 15 12, rbits 8 15 12, rbits 10 15 12, rbits 12 15 12, rbits 14 15 13,
      rbits 16 15 12, rbits 18 15 10, rbits 20 7 5, rbits 21 7 4, rbits 22 15 12, rbits 24 31 23, rbits 28 15 12, rbits 30 7 4, rb 31 1]
  | 0x11 => some [rbits 1 7 4, rbits 2 15 12, rb 4 28]
  | _ =>
    if 0x20 ≤ o ∧ o ≤ 0x35 then
      some [rbits 1 7 5, rbits 2 7 5, rbits 3 7 5, rbits 4 7 5, rbits 5 7 7, rbits 6 7 6, rbits 7 7 2, rbits 12 15 12, rbits 14 7 4,
        rb 15 1, rbits 16 31 18, rb 20 12]
    else none

/-- The operand pair of mode, afmt and wfmt is one the mode takes (R122); formats are 0 SSI4, 1 SSI8, 2 SSI16. -/
def pairOk (mode af wf : Nat) : Bool :=
  match mode with
  | 1 => af == 0 && wf == 0
  | 2 => (af == 1 && wf == 1) || (af == 0 && wf == 1) || (af == 1 && wf == 0)
  | 3 => decide (af ≤ 2) && decide (wf ≤ 2) && (af == 2 || wf == 2)
  | 4 => af == 0 && decide (wf ≤ 1)
  | _ => false

/-- Registers of an instruction that start a lane pair, each with its byte (R104). On an operation without a 64-bit class w64 names no pair (log 128). -/
def pairRegs (k : BitVec 256) : List (Nat × Nat) :=
  let o := byteFld k 0 1
  let w64 := bit k 42
  let r (i : Nat) := (i, byteFld k i 1)
  if o = 0x20 ∧ ifld k 5 1 6 4 = 4 then [r 1]
  else if o = 0x21 ∧ ifld k 5 1 6 4 = 4 then [r 2]
  else if (o = 0x22 ∨ o = 0x23) ∧ w64 then if bit k 40 then [r 1, r 2] else [r 1, r 2, r 3]
  else if o = 0x2F then [r 1, r 2]
  else if o = 0x34 ∧ w64 then [r 2]
  else []

/-- Values and combinations that an instruction's fields may not have, each with its byte (R114, R120, R122, R555). -/
def instrVals (n : Nat) (k : BitVec 256) : List (Nat × Bool) :=
  let sub := ifld k 5 1 6 4
  (match byteFld k 0 1 with
  | 0x03 => [(2, decide (byteFld k 2 2 % 1024 ≥ n))]
  | 0x05 => [(9, signalMode (byteFld k 8 8) == 3)]
  | 0x07 => [(2, byteFld k 2 2 == 0)]
  | 0x08 => [(4, byteFld k 4 3 == 0), (7, decide (byteFld k 7 1 % 32 < 4) || decide (byteFld k 7 1 % 32 > 16)), (24, iline k 24 == 0)]
  | 0x10 =>
    let mode := ifld k 1 1 3 0
    let fmt := ifld k 20 1 2 0
    [(1, decide (mode = 0) || decide (mode > 4)), (20, decide (fmt > 4) || (bit k 13 != (fmt != 0))), (20, ifld k 20 1 4 3 == 3),
     (30, decide (1 ≤ mode ∧ mode ≤ 4) && !pairOk mode (ifld k 30 1 1 0) (ifld k 30 1 3 2))]
  | 0x20 => [(5, decide (sub > 4))]
  | 0x21 => [(5, sub != 0 && sub != 4)]
  | 0x22 => [(5, bit k 42 && decide (sub > 1))]
  | 0x23 => [(5, bit k 42 && decide (sub > 1))]
  | 0x26 => [(5, decide (sub > 5))]
  | 0x34 => [(5, decide (sub > 2))]
  | _ => []) ++ (pairRegs k).map fun r => (r.1, r.2 % 32 == 31)

/-- The granules of a partition's Loft space. -/
def State.loftGranules (s : State) (p : Nat) : Nat := (s.scratchBays p).length * 2 ^ 18

/-- Peg indices and Loft addresses of an instruction outside the partition, each with its byte (R114). -/
def instrAccess (s : State) (p : Nat) (k : BitVec 256) : List (Nat × Bool) :=
  let peg (off : Nat) := !s.inRange p 1 (byteFld k off 2 % 2 ^ 14)
  match byteFld k 0 1 with
  | 0x04 => [(8, !condNone (byteFld k 8 8) && peg 8)]
  | 0x05 => [(8, signalMode (byteFld k 8 8) != 2 && peg 8)]
  | 0x08 => [(8, peg 8), (10, bit k 8 && peg 10),
      (12, decide (byteFld k 12 4 % 2 ^ 23 + 2 ^ (byteFld k 7 1 % 32) / 4 > s.loftGranules p))]
  | 0x10 => [(24, ifld k 20 1 4 3 == 1 && bit k 13 && decide (byteFld k 24 4 % 2 ^ 23 ≥ s.loftGranules p))]
  | _ => []

/-! ### FILL chains (R562) -/

/-- What the FILLs of a chain must agree on: mode, acc_mode, afmt and wfmt. -/
def fillKind (k : BitVec 256) : Nat × Bool × Nat := (ifld k 1 1 3 0, bit k 14, byteFld k 30 1)

/-- Follows the chains through an image: the open chain's kind and first index, the indices at fault, and the ranges of the AUTO chains. -/
def chainWalk : List (BitVec 256) → Nat → Option (Nat × (Nat × Bool × Nat)) → List Nat → List (Nat × Nat) → List Nat × List (Nat × Nat)
  | [], _, _, bad, ranges => (bad, ranges)
  | k :: r, i, open_, bad, ranges =>
    let fill := byteFld k 0 1 == 0x10
    let cur := if open_.isNone && fill && bit k 12 then some (i, fillKind k) else open_
    match cur with
    | none => chainWalk r (i + 1) none bad ranges
    | some (i0, kind) =>
      if fill then
        let bad := if fillKind k = kind then bad else bad ++ [i]
        if bit k 13 then chainWalk r (i + 1) none bad (if kind.2.1 then ranges else ranges ++ [(i0, i)])
        else chainWalk r (i + 1) cur bad ranges
      else chainWalk r (i + 1) cur (if kind.2.1 then bad else bad ++ [i]) ranges

/-- The first instruction that breaks the chain constraints of R562. -/
def chainFault (code : List (BitVec 256)) : Option Nat :=
  let w := chainWalk code 0 none [] []
  let jumps := (code.zipIdx).filterMap fun e =>
    let t := byteFld e.1 2 2 % 1024
    if byteFld e.1 0 1 = 0x03 ∧ w.2.any (fun r => decide (r.1 < t) && decide (t ≤ r.2)) then some e.2 else none
  (w.1 ++ jumps).foldl (fun acc i => match acc with
    | none => some i
    | some j => some (min i j)) none

/-! ### Checks of an image (R112, R114) -/

/-- The first instruction for which f answers a byte, with that byte. -/
def firstInstr (f : BitVec 256 → Option Nat) (code : List (BitVec 256)) : Option (Nat × Nat) :=
  firstSome (fun (e : BitVec 256 × Nat) => (f e.1).map fun o => (e.2, o)) code.zipIdx

/-- The reserved fields and field combinations of a header, as its lowest faulty byte. -/
def headerFault (hdr : List Byte) : Option Nat :=
  fieldFault (ofBytes hdr) [rbits 0 15 4, rbits 2 15 11, rb 16 48] [(2, le hdr 2 2 % 2048 == 0 || decide (le hdr 2 2 % 2048 > 1024))]

/-- Checks the instructions of an image in the order of R114; answers the failure and the failing instruction. -/
def checkCode (s : State) (p : Nat) (hdr : List Byte) (code : List (BitVec 256)) : Option (Err × Option Nat) :=
  match firstInstr (fun k => if (instrRsv (byteFld k 0 1)).isNone then some 0 else none) code with
  | some (i, _) => some (⟨.badOpcode, 0⟩, some i)
  | none => match headerFault hdr with
    | some o => some (badRsv 1 o, none)
    | none => match firstInstr (fun k => fieldFault k.toNat ((instrRsv (byteFld k 0 1)).getD []) (instrVals code.length k)) code with
      | some (i, o) => some (badRsv 1 (64 + 32 * i + o), some i)
      | none => match chainFault code with
        | some i => some (badRsv 1 (64 + 32 * i), some i)
        | none => (firstInstr (fun k => lowest (instrAccess s p k)) code).map fun e =>
            (accessErr (2 ^ 30 + 64 + 32 * e.1 + e.2), some e.1)

/-- Fetches and checks an image (R113, R114). Of a count above 1,024, which the check of the header's fields rejects, the 1,024 instructions that the buffer
holds are checked for their opcodes first. -/
def loadImage (c : CmdRef) (p : Nat) (ad : Addr) (s : State) : Except (Err × Option Nat) Image :=
  match cmdRead c p ad 64 s with
  | .error e => .error (e, none)
  | .ok hdr =>
    let n := le hdr 2 2 % 2048
    if le hdr 0 1 % 16 ≠ 1 then .error (badGen 2 0, none)
    else if le hdr 8 8 ≠ 0 ∧ le hdr 8 8 ≠ arithId then .error (⟨.arithMismatch, 0⟩, none)
    else
      let n := min n 1024
      match cmdRead c p { ad with a := ad.a + 64 } (32 * n) s with
      | .error e => .error (e, none)
      | .ok bs =>
        let code := (List.range n).map fun i => BitVec.ofNat 256 (le bs (32 * i) 32)
        match checkCode s p hdr code with
        | some e => .error e
        | none => .ok ⟨ad.a, ad.tiered, toBlock hdr, code⟩

/-! ### Launch commands (R115, R116) -/

/-- The arrays a launch command names. -/
def launchArrays (k : Block) : List Nat := (List.range (op k 41 1 % 16 * 32)).map fun i => op k 40 1 % 8 * 32 + i

/-- The arrays of a launch belong to the partition (R116), and none has residue_fault set (R84). -/
def checkArrays (p : Nat) (xs : List Nat) (s : State) : Except Err Unit := do
  guardE (xs.any fun a => !s.ownsArray p a) (accessErr 40)
  match pick (fun a => (s.arr a).residueFault) xs with
  | some a => .error (integrity 1 2 a)
  | none => .ok ()

/-- Array a holds the image at an address resident. -/
def State.hasImage (s : State) (ad : Addr) (a : Nat) : Bool :=
  match (s.arr a).image with
  | some im => im.addr == ad.a && im.tiered == ad.tiered
  | none => false

/-- Makes an image resident on arrays, or leaves none resident when its check failed (R113, R114). -/
def setImage (xs : List Nat) (r : Except (Err × Option Nat) Image) (s : State) : State :=
  xs.foldl (fun s a => s.onArr a fun x => match r with
    | .ok im => { x with image := some im }
    | .error (_, i) => { x with image := none, faultInstr := match i with
        | some i => BitVec.ofNat 10 i
        | none => x.faultInstr }) s

/-- The arrays of an image command get the image; all of them under KPRELOAD, those that hold another one under KLAUNCH. -/
def residentFor (c : CmdRef) (p : Nat) (k : Block) (always : Bool) (s : State) : State × Option Err :=
  let ad := addr154 (op k 32 8)
  let need := (launchArrays k).filter fun a => always || !s.hasImage ad a
  if need.isEmpty then (s, none)
  else
    let r := loadImage c p ad s
    (setImage need r s, match r with
      | .ok _ => none
      | .error (e, _) => some e)

/-- KPRELOAD (R113, R115). -/
def execKpreload (c : CmdRef) (s : State) : Host.Outcome State Fault Refusal :=
  .next <| beginCmd c 0x0301 (fun k p s => do
    checkArrays p (launchArrays k) s
    match residentFor c p k true s with
    | (s, some e) => .ok (failCmd c e s)
    | (s, none) => .ok (endCmd c .ok 0 0 s)) s

/-- Starts one array of a launch: instruction 0, s0 its index, s1 the argument, the rest zero (R116). The SETKEY key and gcount
stay as the array's last launch left them (log 128). -/
def startArray (c : CmdRef) (det : Bool) (arg : Nat) (i : Nat) (x : Arr) : Arr :=
  { x with s := if i = 0 then [(1, BitVec.ofNat 32 arg)] else [(0, BitVec.ofNat 32 i), (1, BitVec.ofNat 32 arg)],
           consumed := [], pc := 0, phase := .running, wait := none, gather := none,
           chainOpen := false, chain := [], pairs := [], carry := [], segment := none, launch := some { cmd := c, index := i, det := det } }

/-- KLAUNCH (R113 to R117): the image is fetched where it is not resident, then every named array starts. It ends with its arrays. -/
def execKlaunch (c : CmdRef) (s : State) : Host.Outcome State Fault Refusal :=
  .next <| beginCmd c 0x0300 (fun k p s => do
    let xs := launchArrays k
    checkArrays p xs s
    match residentFor c p k false s with
    | (s, some e) => .ok (failCmd c e s)
    | (s, none) =>
      let det := (s.inflight c).any (·.det)
      .ok (xs.zipIdx.foldl (fun s e => s.onArr e.1 (startArray c det (op k 44 4) e.2)) s)) s

end Sys2Proof.Machine
end

