-- ==== Sys2Proof/Machine/Accept.lean ====
section
/-! DEFINITION. Condition 5 of R44: when an engine accepts a command, and what a step takes at its grant. -/

namespace Sys2Proof.Machine

/-! ### What granted commands name -/

/-- n bytes of the parameter block of a command, as memory holds it now; none where it cannot be read. -/
def blockField (p : Nat) (a : Addr) (off n : Nat) (s : State) : Option Nat :=
  match s.read p a.tiered a.a 64 true with
  | .ok bs => some (le bs off n)
  | .error _ => none

/-- The step at work of a command. -/
def State.run (s : State) (c : CmdRef) : Option DvtRun := pick (fun r => r.cmd == c) s.dvt.runs

/-- The layer of a step at work. -/
def DvtRun.layer (r : DvtRun) : Nat := le r.blk 2 2 % 2 ^ 10

/-- The layer that a Dovetail step names: in the block it has read, or else in its DVT_SCORE or DVT_ADMIT block as memory holds it now. -/
def stepLayer (p : Nat) (c : CmdRef) (i : InFlight) (s : State) : Option Nat :=
  match s.run c with
  | some r => some r.layer
  | none => (match opcode i.pkt with
   | 0x0402 => blockField p (addr154 (op i.pkt 32 8)) 2 2 s
   | 0x0412 => blockField p (addr154 (op i.pkt 32 8)) 2 2 s
   | 0x0423 => if i.blk.isEmpty then none else blockField p (addrIn i.blk 8) 2 2 s
   | _ => none).map (· % 2 ^ 10)

/-- The layers that granted steps of a partition name (R163, R186). -/
def State.stepLayers (s : State) (p : Nat) : List Nat := (s.openCmds p).filterMap fun e => stepLayer p (refOf e.1 e.2) e.2 s

/-- The normalisation tables that the layer entries of granted steps name, each as it was at the step's grant (R163). -/
def State.stepTables (s : State) (p : Nat) : List Nat :=
  (s.openCmds p).filterMap fun e => (stepLayer p (refOf e.1 e.2) e.2 s).bind fun l => (find? e.2.layers l).map fun b => (LayerEntry.mk b).tableIx

/-- The granted Dovetail steps of a partition (R176). -/
def State.dvtSteps (s : State) (p : Nat) : List CmdRef :=
  ((s.openCmds p).filter fun e => [0x0402, 0x0412, 0x0423].contains (opcode e.2.pkt)).map fun e => refOf e.1 e.2

/-- The arrays that granted launches and preloads hold: those that run, and those of launches about to begin. -/
def State.arrayBusy (s : State) (a : Nat) : Bool :=
  (s.arr a).launch.isSome ||
  s.busyWith fun k => [0x0300, 0x0301].contains (opcode k) && (launchArrays k).contains a

/-- A granted collective names group g (R229). -/
def State.groupBusy (s : State) (g : Nat) : Bool :=
  s.prl.colls.any (fun x => x.gi == g) ||
  s.allInflight.any fun e => e.2.stage == .granted && opcode e.2.pkt / 16 == 0x051 &&
    (blockField ((s.partOfQueue e.1).getD 0) (addr154 (op e.2.pkt 32 8)) 2 2 s).map (· % 2 ^ 10) == some g

/-- The launches that a PAR_PREEMPT with this packet targets (R424): the launches of a partition, or its BE ones that hold an array of a named group. -/
def preemptTargets (k : Block) (s : State) : List CmdRef :=
  let t := op k 32 1 % 8
  let all := (s.openCmds t).filter fun e => opcode e.2.pkt == 0x0300
  let hit := if bit k (8 * 32 + 3) then all
    else all.filter fun e => !flagLc e.2.pkt && (launchArrays e.2.pkt).any fun a => (op k 33 1).testBit (a / 32)
  hit.map fun e => refOf e.1 e.2

/-- A resume entry whose launch has completed PREEMPTED, named by its resume id (R425, R428). -/
def State.resumeEntry (s : State) (id : Nat) : Option (Nat × Resume) :=
  match find? s.par.resumes (id % 256) with
  | some r => if r.stopped && (getD s.par.serials (id % 256) 0).toNat == id / 256 then some (id % 256, r) else none
  | none => none

/-- The arrays of a resume entry are free. -/
def State.resumable (s : State) (r : Resume) : Bool := r.arrs.all fun x => !s.arrayBusy x.array

/-- The resume entries that a PAR_RESUME names: one by its id, or all of a partition in ascending order. -/
def resumeTargets (k : Block) (s : State) : List (Nat × Resume) :=
  if bit k (8 * 34) then s.par.resumes.filter fun e => e.2.stopped && e.2.part == op k 35 1 % 8
  else (s.resumeEntry (op k 32 2)).toList

/-- A free credit bank (R197). -/
def State.freeBankIx (s : State) : Option Nat := pick (fun i => (find? s.dvt.banks i).isNone) (List.range 4)

/-! ### Acceptance -/

/-- The executing engine accepts a command of partition p (condition 5 of R44). -/
def engineAccepts (p : Nat) (f : Fetched) (s : State) : Bool :=
  let k := f.pkt
  match opcode k with
  | 0x0212 => !(s.openCmds p).any fun e => opcode e.2.pkt == 0x0212
  | 0x0300 => (launchArrays k).any (fun a => !s.ownsArray p a) || (launchArrays k).all fun a => !s.arrayBusy a
  | 0x0301 => (launchArrays k).any (fun a => !s.ownsArray p a) || (launchArrays k).all fun a => !s.arrayBusy a
  | 0x0400 => !(s.stepLayers p).contains (cmdLayer k)
  | 0x0401 => !(s.stepTables p).contains (op k 32 1 % 4)
  | 0x0410 => !(s.stepLayers p).contains (cmdLayer k)
  | 0x0412 => s.freeBankIx.isSome
  | 0x0421 => !s.prevHeld p && !(s.openCmds p).any fun e => opcode e.2.pkt == 0x0421
  | 0x0423 => s.freeBankIx.isSome && (f.blk.isEmpty || (find? s.dvt.slots (le f.blk 2 1 % 16)).isNone)
  | 0x0500 => !s.groupBusy (op k 32 2 % 2 ^ 10)
  | 0x0501 => !s.groupBusy (op k 32 2 % 2 ^ 10)
  | 0x0610 => !s.busyWith fun j => [0x0600, 0x0601, 0x0602, 0x0603, 0x0604].contains (opcode j) && op j 32 2 % 2 ^ 12 == op k 32 2 % 2 ^ 12
  | 0x0611 => !s.busyWith fun j => [0x0600, 0x0601, 0x0602, 0x0603, 0x0604].contains (opcode j) && op j 32 2 % 2 ^ 12 == op k 32 2 % 2 ^ 12
  | 0x0700 => !(preemptTargets k s).any fun c => s.par.requests.any fun q => q.launches.contains c
  | 0x0701 => match resumeTargets k s with
    | [] => true
    | e :: _ => s.resumable e.2
  | o => o / 16 != 0x051 || decide ((s.allInflight.filter fun e => e.2.counted && opcode e.2.pkt / 16 == 0x051).length < 64)

/-! ### What a step takes at its grant (R188, R197, R207, R211, R214) -/

/-- A step that admits takes a free bank, filled from the plans and the availability in force, with the layout table in force (R188, R207). -/
def takeBank (c : CmdRef) (p : Nat) (s : State) : State :=
  match s.freeBankIx with
  | none => s
  | some i =>
    let x := s.layout p
    s.onDvt fun d => { d with banks := put d.banks i ⟨c, p, x.epoch, x.current, d.avail, d.plans⟩ }

/-- A DVT_ROUTE opens its combine slot under the next sequence number. -/
def openSlot (c : CmdRef) (p : Nat) (blk : List Byte) (s : State) : State :=
  let n := le blk 2 1 % 16
  if blk.isEmpty || !s.inRange p 6 n || (find? s.dvt.slots n).isSome then s
  else
    let q := getD s.dvt.slotSeq n 0 + 1
    s.onDvt fun d => { d with slotSeq := put d.slotSeq n q, slots := put d.slots n { cmd := c, part := p, seq := q, epoch := (s.layout p).epoch } }

/-- A Dovetail step uses the layer entries and tables in force at its grant (R163). -/
def takeInForce (c : CmdRef) (s : State) : State := s.updIn c fun i => { i with layers := s.dvt.layers, tables := s.dvt.tables }

/-- What a granted command takes at once. -/
def onGrant (c : CmdRef) (p : Nat) (f : Fetched) (s : State) : State :=
  match opcode f.pkt with
  | 0x0402 => takeInForce c s
  | 0x0412 => takeBank c p (takeInForce c s)
  | 0x0423 => openSlot c p f.blk (takeBank c p (takeInForce c s))
  | _ => s

/-- The parameter block of a DVT_ROUTE as it is when the command reaches the issue point, or how reading it failed (R214). -/
def issueBlock (p : Nat) (k : Block) (s : State) : List Byte × Option (Status × Nat) :=
  if opcode k = 0x0423 then
    let a := addr154 (op k 32 8)
    match s.read p a.tiered a.a 64 (flagTorn k) with
    | .ok bs => (bs, none)
    | .error e => ([], some (e.st, e.det))
  else ([], none)

end Sys2Proof.Machine
end

