-- ==== Sys2Proof/Machine/Steps.lean ====
section
/-! DEFINITION. The Dovetail's steps at work: sub-batches on the score arrays, the logit store, selection and admission of one token after another, and
which step each unit takes next (R165, R166, R172 to R176, R190, R197 to R200, R565). -/

namespace Sys2Proof.Machine

/-! ### A step and what it holds -/

/-- The layer entry of a step. -/
def DvtRun.rec_ (r : DvtRun) : LayerEntry := ⟨r.entry⟩
/-- V: tokens of a step. -/
def DvtRun.v (r : DvtRun) : Nat := le r.blk 4 4 % 2 ^ 17

/-- Changes the step of a command. -/
def updRun (c : CmdRef) (f : DvtRun → DvtRun) (s : State) : State :=
  s.onDvt fun d => { d with runs := d.runs.map fun r => if r.cmd = c then f r else r }

/-- A step leaves: what it holds of the score arrays, the logit store and the selection unit is free. -/
def dropRun (c : CmdRef) (s : State) : State :=
  s.onDvt fun d => { d with
    runs := d.runs.filter fun r => r.cmd != c
    halves := d.halves.filter fun h => h.cmd != c
    stream := d.stream.filter fun x => x.1 != c
    sel := d.sel.filter fun x => x != c }

/-- A new step of a command begins. -/
def startRun (c : CmdRef) (p : Nat) (kind : StepKind) (b : List Byte) (r : LayerEntry) (s : State) : State :=
  match s.inflight c with
  | none => s
  | some i => s.onDvt fun d => { d with runs := d.runs ++
      [{ cmd := c, part := p, lc := flagLc i.pkt, order := i.order, kind := kind, blk := b, entry := r.blk, table := s.stepTable c r.tableIx }] }

/-- The saturations of a step, noted at its end (R173). -/
def satOf (c : CmdRef) (s : State) : State := match s.run c with
  | some r => countSat c r.picked s
  | none => s

/-- A DVT_SCORE or DVT_ADMIT ends: its bank is released, and a preemption of its partition no longer waits for it (R176, R197). -/
def endStep (c : CmdRef) (st : Status) (result det : Nat) (s : State) : State :=
  settleRequests (leaveRequests c false (endCmd c st result det (freeBank c (dropRun c (satOf c s)))))

/-- It ends with a failure: what it has written stays (R174, R565). -/
def failRun (c : CmdRef) (e : Err) (s : State) : State := endStep c e.st 0 e.det s

/-! ### Which step a unit takes (R176) -/

/-- Of two steps the one that a unit takes first: LC before BE, and in grant order within a class. -/
def DvtRun.before (a b : DvtRun) : Bool := if a.lc = b.lc then decide (a.order < b.order) else a.lc

/-- A step wants a unit, and none goes before it that does. -/
def State.chosen (s : State) (want : DvtRun → Bool) (r : DvtRun) : Bool :=
  want r && s.dvt.runs.all fun x => x.cmd == r.cmd || !want x || !x.before r

/-- The half of the logit store that holds token t of a step. -/
def State.halfOf (s : State) (c : CmdRef) (t : Nat) : Option Half :=
  pick (fun h => h.cmd == c && decide (h.first ≤ t ∧ t < h.first + h.toks.length)) s.dvt.halves

/-- The tile columns of a step's gate and exit matrices (R175). -/
def LayerEntry.columns (r : LayerEntry) : Nat := ceilDiv r.experts 64 + (if r.exitEn then ceilDiv r.exitRows 64 else 0)

/-- Tokens of a sub-batch: V_b (R175). -/
def LayerEntry.subBatch (r : LayerEntry) : Nat :=
  let n := 64 * r.columns
  let d := 64 * ceilDiv r.dModel 64
  min 256 (min (2 ^ 20 / n) (if r.actBits = 4 then 2 ^ 22 / d else 2 ^ 21 / d))

/-- A step has a sub-batch to stream, half of the logit store is free for it, and the score arrays get clock pulses (R492, log 143). -/
def DvtRun.wantsArrays (s : State) (r : DvtRun) : Bool :=
  r.kind != .admission && !r.rec_.ext && !s.stilled && decide (r.scored < r.v) && s.dvt.stream.isNone && decide (s.dvt.halves.length < 2)

/-- A sub-batch streams on a score array: tile column i goes to array i mod 4 (R175). -/
def State.streaming (s : State) (a : Nat) : Bool := match s.dvt.stream with
  | some x => (s.run x.1).any fun r => decide (a < r.rec_.columns)
  | none => false

/-- A step's next token is ready for the selection unit. -/
def DvtRun.wantsSel (s : State) (r : DvtRun) : Bool :=
  r.kind != .admission && decide (r.picked.length < r.v) && s.dvt.sel.isNone && (r.rec_.ext || (s.halfOf r.cmd r.picked.length).isSome)

/-- A step's next token is ready for the admission unit. -/
def DvtRun.wantsAdmit (r : DvtRun) : Bool :=
  match r.kind with
  | .score => false
  | .admission => decide (r.admitted.length < r.v)
  | .route => decide (r.admitted.length < r.picked.length)

/-! ### What the units do -/

/-- The score arrays take the step's next sub-batch of consecutive tokens (R175). -/
def takeArrays (r : DvtRun) (s : State) : State :=
  let n := min r.rec_.subBatch (r.v - r.scored)
  (updRun r.cmd (fun x => { x with scored := x.scored + n }) s).onDvt fun d => { d with stream := some (r.cmd, r.scored, n) }

/-- The sub-batch has streamed: its logits stand in a half of the logit store; failed checks end the step (R167, R174, R175). -/
def landBatch (r : DvtRun) (first n : Nat) (s : State) : State × Option Err :=
  let s := noteReads r.cmd r.part (scoreReads r.rec_ r.blk first n) (s.onDvt fun d => { d with stream := none })
  match weightRows r.cmd r.part r.rec_ s with
  | .error e => (s, some e)
  | .ok w => match (List.range n).mapM fun i => scoreToken r.cmd r.part r.rec_ w r.blk (first + i) s with
    | .error e => (s, some e)
    | .ok xs =>
      let bad := xs.flatMap (·.2)
      match scoreBad bad with
      | some e => (noteScoreChecks bad s, some e)
      | none => (s.onDvt fun d => { d with halves := d.halves ++ [⟨r.cmd, first, xs.map (·.1)⟩] }, none)

/-- The logits of the step's next token: from the logit store, or external ones as memory holds them (R167). -/
def nextLogits (r : DvtRun) (s : State) : Except Err (Option (Logits × Logits)) :=
  let t := r.picked.length
  if r.rec_.ext then (scoreToken r.cmd r.part r.rec_ ([], []) r.blk t s).map (·.1)
  else match s.halfOf r.cmd t with
    | some h => .ok ((h.toks[t - h.first]?).join)
    | none => .ok none

/-- A half whose last token is selected is free. -/
def freeHalf (c : CmdRef) (t : Nat) (s : State) : State :=
  s.onDvt fun d => { d with halves := d.halves.filter fun h => !(h.cmd == c && h.first + h.toks.length == t + 1) }

/-- The step that a token's candidate record is written for: a DVT_SCORE (R172). -/
def writeCand (r : DvtRun) (t : Nat) (x : TokenScore) (s : State) : State × Option Err :=
  match r.kind, s.inflight r.cmd with
  | .score, some i =>
    let out := addr154 (op i.pkt 40 8)
    let w := cmdWrite r.cmd r.part ⟨out.tiered, out.a + 128 * t⟩ (candBytes r.layer t r.rec_ x) s
    (w.1, w.2.2)
  | _, _ => (s, none)

/-- The selection unit has done the step's next token: it is counted, kept, and its record written (R168 to R172). -/
def selectNext (r : DvtRun) (s : State) : State × Option Err :=
  let s := s.onDvt fun d => { d with sel := none }
  let s := if r.rec_.ext then noteReads r.cmd r.part (scoreReads r.rec_ r.blk r.picked.length 1) s else s
  match nextLogits r s with
  | .error e => (s, some e)
  | .ok l =>
    let x := selectScored r.rec_ r.table l
    writeCand r r.picked.length x
      (freeHalf r.cmd r.picked.length (updRun r.cmd (fun y => { y with picked := y.picked ++ [x] }) (countToken r.rec_ x s)))

/-- What the next token to be admitted was given by selection: its candidate record in memory, or what the step selected (R190, R565). -/
def nextCand (r : DvtRun) (s : State) : Except Err CandRec :=
  let t := r.admitted.length
  match r.kind with
  | .route =>
    let x := r.picked.getD t {}
    .ok ⟨x.sel.count, x.sel.cand.length, x.exited, x.exitNow, x.sel.cand⟩
  | _ =>
    let src := addrIn r.blk 8
    (cmdRead r.cmd r.part ⟨src.tiered, src.a + 128 * t⟩ 128 s).bind (checkCand r.rec_ r.layer t)

/-- Where the admission record of a token goes: the array of a DVT_ADMIT, or the one that a DVT_ROUTE names, if it does (R200, Table Disp-3). -/
def admitDest (r : DvtRun) (s : State) : Option Addr :=
  match r.kind, s.inflight r.cmd with
  | .admission, _ => some (addrIn r.blk 16)
  | .route, some i => if le i.blk 56 8 = 0 then none else some (addrIn i.blk 56)
  | _, _ => none

/-- The admission unit admits the step's next token and writes its record (R190, R200). -/
def admitNext (r : DvtRun) (s : State) : State × Option Err :=
  let t := r.admitted.length
  match nextCand r s, admitAgainst r.cmd r.layer s with
  | .error e, _ => (s, some e)
  | _, .error e => (s, some e)
  | .ok k, .ok x =>
    let src := addrIn r.blk 8
    let s := if r.kind = .admission then noteReads r.cmd r.part [(⟨src.tiered, src.a + 128 * t⟩, 128)] s else s
    let a := admitToken x r.rec_ (spillOk r.cmd x s) k.count k.cand r.spend
    let s := updRun r.cmd (fun y => { y with admitted := y.admitted ++ [a.1], spend := a.2 }) (countAdmit a.1 s)
    match admitDest r s with
    | none => (s, none)
    | some d =>
      let w := cmdWrite r.cmd r.part ⟨d.tiered, d.a + 192 * t⟩ (admitBytes r.layer t k.exited k.exitNow a.1) s
      (w.1, w.2.2)

/-- One event of a step: what a unit holds of it is done; else a token that waits is admitted, the selection unit takes a token, or the score arrays take a
sub-batch, where the step is the one that the unit chooses (R175, R176). A sub-batch does not go on without clock pulses. With nothing to do it waits (log 129). -/
def stepEvent (r : DvtRun) (s : State) : State × Option Err :=
  match s.dvt.stream.filter fun x => x.1 == r.cmd with
  | some x => if s.stilled then (s, none) else landBatch r x.2.1 x.2.2 s
  | none =>
    if s.dvt.sel = some r.cmd then selectNext r s
    else if s.chosen DvtRun.wantsAdmit r then admitNext r s
    else if s.chosen (DvtRun.wantsSel s) r then (s.onDvt fun d => { d with sel := some r.cmd }, none)
    else if s.chosen (DvtRun.wantsArrays s) r then (takeArrays r s, none)
    else (s, none)

/-- Every token of a step is done. -/
def DvtRun.whole (r : DvtRun) : Bool :=
  match r.kind with
  | .score => decide (r.v ≤ r.picked.length)
  | _ => decide (r.v ≤ r.admitted.length)

/-! ### DVT_SCORE and DVT_ADMIT -/

/-- Result of a DVT_SCORE (Table Score-2). -/
def scoreResult (xs : List TokenScore) : Nat := (xs.filter (!·.exited)).length + (xs.filter (·.exitNow)).length * 2 ^ 32

/-- Result of a DVT_ADMIT (Table Cap-3). -/
def admitResult (ts : List AdmitToken) : Nat :=
  (ts.map (·.served)).sum + (ts.map fun t => (t.ch.filter fun c => c.disp == 3).length).sum * 2 ^ 32

/-- After an event of a DVT_SCORE or DVT_ADMIT: it fails, ends with its result, or goes on. -/
def settleStep (c : CmdRef) (x : State × Option Err) : State :=
  match x.2, x.1.run c with
  | some e, _ => failRun c e x.1
  | none, some r =>
    if !r.whole then x.1
    else match r.kind with
      | .score => endStep c .ok (scoreResult r.picked) 0 x.1
      | _ => endStep c .ok (admitResult r.admitted) (admitBits r.admitted) x.1
  | none, none => x.1

/-- DVT_SCORE (R166, R172, R175): its first event checks its block; each further one does what a unit has of it or takes for it. -/
def execDvtScore (c : CmdRef) (s : State) : Host.Outcome State Fault Refusal :=
  .next <|
    match s.running c, s.run c with
    | some _, some r => if r.kind = .score then settleStep c (stepEvent r s) else s
    | _, _ => beginCmd c 0x0402 (fun k p s => do
        let (b, r) ← readScoreBlock c p (addr154 (op k 32 8)) 1 s
        match scoreFault r s with
        | some e => .error e
        | none => .ok (startRun c p .score b r s)) s

/-- DVT_ADMIT (R190, R198, R199): its first event checks its block and its plan; each further one admits a token. A failure frees its bank. -/
def execDvtAdmit (c : CmdRef) (s : State) : Host.Outcome State Fault Refusal :=
  .next <|
    match s.running c, s.run c with
    | some _, some r => if r.kind = .admission then settleStep c (stepEvent r s) else s
    | _, _ =>
      match s.ready c 0x0412 with
      | none => s
      | some i =>
        let p := s.cmdPart c
        let check : Except Err (List Byte × LayerEntry) := do
          let bs ← cmdBlock c p (addr154 (op i.pkt 32 8)) 64 0x0C 0 admitRsv admitVals s
          let l := le bs 2 2 % 2 ^ 10
          guardE (!s.inRange p 2 l) (accessAt 2)
          match s.stepEntry c l with
          | none => .error (badRsv 1 2)
          | some r =>
            let _ ← admitAgainst c l s
            .ok (bs, r)
        match check with
        | .error e => failRun c e s
        | .ok (bs, r) => startRun c p .admission bs r (s.updIn c ({ · with stage := .running }))

end Sys2Proof.Machine
end

