-- ==== Sys2Proof/Machine/Units.lean ====
section
/-! DEFINITION. The Dovetail: dispatch and return units, their packets and assembly, the host receive path, resends and combine (R209 to R223, R563). -/

namespace Sys2Proof.Machine

/-! ### Unit descriptors (Table Disp-2) -/

/-- Bits of an element by vfmt. -/
def vfmtBits (v : Nat) : Nat := match v with
  | 0 => 4
  | 1 => 8
  | _ => 16

/-- Bytes padded to whole granules. -/
def padGranule (bs : List Byte) : List Byte := bs ++ List.replicate (ceilDiv bs.length 64 * 64 - bs.length) 0

/-- Bytes of a unit's elements, padded. -/
def unitElBytes (vfmt d : Nat) : Nat := ceilDiv (ceilDiv d 32 * blockBytesOf (vfmtBits vfmt)) 64 * 64
/-- Bytes of a whole unit with a vector. -/
def unitBytes (vfmt d : Nat) : Nat := 64 + unitElBytes vfmt d + ceilDiv (ceilDiv d 32) 64 * 64

/-- n bytes of a descriptor. -/
def uf (u : Block) (off n : Nat) : Nat := byteFld u off n
/-- Expert word of a descriptor. -/
def uWord (u : Block) : Nat := uf u 4 4
/-- Instance of a descriptor. -/
def uInst (u : Block) : Nat := uf u 3 1 / 16 % 4
/-- Disposition of a descriptor. -/
def uDisp (u : Block) : Nat := uf u 3 1 / 64
/-- Source of a descriptor. -/
def uSource (u : Block) : Nat := uf u 8 4 % 2 ^ 20
/-- Host of a descriptor. -/
def uHost (u : Block) : Nat := uf u 12 4 % 2 ^ 20
/-- Elements of a descriptor. -/
def uLen (u : Block) : Nat := uf u 30 2 % 2 ^ 15

/-- Reserved fields of a descriptor. -/
def unitRsv : List Rsv := [rbits 0 7 6, rbits 2 7 4, rbits 4 31 24, rbits 8 31 20, rbits 12 31 20, rbits 30 15 15, rb 34 30]

/-- A descriptor is of the given kind, well-formed, and fits the bytes that came with it. A dispatch has status 0 (log 47). -/
def unitOk (kind : Nat) (bs : List Byte) : Bool :=
  let u := toBlock bs
  let v := uf u 2 1 % 4
  uf u 0 1 % 16 == 1 && uf u 0 1 / 16 % 4 == kind && (fieldFault u.toNat unitRsv []).isNone &&
  v != 3 && uDisp u != 3 && uLen u != 0 && decide (uLen u ≤ 16384) && (kind == 1 || (uf u 1 1 == 0 && uf u 32 2 == 0)) &&
  bs.length == (if kind = 1 ∧ uf u 1 1 ≠ 0 then 64 else unitBytes v (uLen u))

/-! ### Sending units (R213, R563) -/

/-- The device a unit for a destination is sent to: the destination, or the relay in its cube. -/
def State.relayFor (s : State) (dest : Nat) : Nat := if dest / 64 = s.selfCube then dest else dest / 64 * 64 + s.selfPos

/-- The packets of a unit, payloads of 4,096 bytes in ascending offset (Table Disp-8). -/
def unitPackets (s : State) (key dest tag step layer kind : Nat) (lc : Bool) (bs : List Byte) : List Packet :=
  (List.range (ceilDiv bs.length 4096)).map fun i =>
    mkPacket s.selfId (s.relayFor dest) 0x28 3 lc false key 0
      [(32, 4, tag), (36, 4, dest), (40, 4, 4096 * i), (44, 4, bs.length), (48, 2, step), (50, 2, layer), (52, 1, kind)] ((bs.drop (4096 * i)).take 4096)

/-- Sends a unit whose first 64 bytes are its descriptor. -/
def sendUnit (p dest kind : Nat) (lc : Bool) (bs : List Byte) (s : State) : State :=
  let u := toBlock bs
  (unitPackets s (s.parKey p) dest (uf u 24 4) (uf u 20 2) (wordLayer (uWord u)) kind lc bs).foldl (fun s k => sendPacket (some p) k s) s

/-- A return leaves through a window, and is kept for a LOSS. -/
def sendReturn (w p : Nat) (lc : Bool) (dest : Nat) (bs : List Byte) (s : State) : State :=
  let tag := uf (toBlock bs) 24 4
  sendUnit p dest 1 lc bs (s.onDvt fun d =>
    { d with returns := (d.returns.filter fun r => !(r.2.1 == dest && r.2.2.1 == tag)) ++ [(w, dest, tag, lc, bs)] })

/-! ### Assembly (R563) -/

/-- The pieces of a unit joined in ascending offset, when they are gapless. -/
def joinPieces : Nat → Map (List Byte) → Option (List Byte)
  | _, [] => some []
  | at_, (o, bs) :: r => if o = at_ then (joinPieces (at_ + bs.length) r).map (bs ++ ·) else none

/-- The number under which a whole unit waits whose last packet came by a port: it is no packet of that port any more. -/
def unitPort (f : Nat) : Nat := 64 + f

/-- A unit packet reaches its final destination and is put with the others of its unit; a whole unit waits in the inbox. -/
def assemble (f : Nat) (k : Packet) (s : State) : State :=
  let kind := k.f 52 1 % 2
  let same (x : PartUnit) : Bool := x.src == k.src && x.tag == k.f 32 4 && x.kind == kind
  let x := (pick same s.dvt.parts).getD ⟨k.src, k.f 32 4, kind, k.f 44 4, []⟩
  let x := { x with pieces := put x.pieces (k.f 40 4 % 2 ^ 23) k.payload }
  let rest := s.dvt.parts.filter fun y => !same y
  match joinPieces 0 x.pieces with
  | some bs =>
    if bs.length ≥ x.len then deliver (unitPort f) ⟨(k.set 40 4 0).hdr, bs⟩ (s.onDvt ({ · with parts := rest }))
    else s.onDvt ({ · with parts := rest ++ [x] })
  | none => s.onDvt ({ · with parts := rest ++ [x] })

/-- A relay hands a unit packet on through a staging buffer of the partition's Purlin pools, which is free again once the packet is injected; without one
the packet waits where it is (R213, R250, log 130). A packet of no partition needs none. -/
def relayUnit (k : Packet) (s : State) : State :=
  let p := ((k.set 3 1 0).set 4 4 (k.f 36 4 % 2 ^ 20)).set 8 4 s.selfId
  let send (s : State) : State := sendPacket (s.partOfKey k.key) p (s.onPrl fun r => { r with staged := r.staged ++ [p] })
  match s.partOfKey k.key with
  | none => send s
  | some q => match engineDraw q 5 (64 + k.payload.length) s with
    | (some h, s) => engineRelease 5 h (send s)
    | (none, s) => s

/-- The partition of a packet has no free staging buffer for it. -/
def State.noStaging (s : State) (k : Packet) : Bool := (s.partOfKey k.key).any fun q => (engineDraw q 5 (64 + k.payload.length) s).1.isNone

/-- A unit packet that this device would relay has no staging buffer to go through. -/
def State.unitBlocked (s : State) (k : Packet) : Bool := k.f 36 4 % 2 ^ 20 != s.selfId && s.noStaging k

/-- UNIT_PACKET (R563): a relay injects the packet again towards its final destination; the destination assembles it. -/
def execUnitPacket (k : Packet) (s : State) : Host.Outcome State Fault Refusal :=
  let f := s.portOf k
  if s.unitBlocked k then .next s
  else takeData 0x28 k (fun s => if k.f 36 4 % 2 ^ 20 = s.selfId then assemble f k s else relayUnit k s) s

/-- A whole unit leaves the inbox. -/
def takeUnit (u : Packet) (s : State) : State :=
  match pick (fun (e : Nat × Packet) => e.2 == u) s.fab.inbox with
  | some e => s.onFab fun b => { b with inbox := b.inbox.erase e }
  | none => s

/-! ### The host receive path (R216, R189, R196) -/

/-- Changes an open window. -/
def updWindow (w : Nat) (f : RecvWin → RecvWin) (s : State) : State :=
  s.onDvt fun d => { d with windows := upd d.windows w ⟨0, 0, 0, [], []⟩ f }

/-- n bytes of an instance entry. -/
def RecvInst.f (x : RecvInst) (off n : Nat) : Nat := byteFld x.entry off n

/-- An instance entry is for this expert and instance. -/
def RecvInst.isFor (x : RecvInst) (e i : Nat) : Bool := x.f 0 2 == e + i * 2 ^ 14

/-- The descriptor of a return for a unit: its status, output format and grace, and the host with its layout epoch, as sender and as host, and its member
epoch (Table Disp-2). -/
def returnDesc (self : Nat) (epoch member : W16) (u : Block) (st : Status) (vfmt : Nat) (grace : Bool) : Block :=
  let b := setFld (setFld u 5 4 1) 15 8 st.code
  let b := setFld (setFld b 17 16 vfmt) 18 18 (b2n grace)
  let b := setFld (setFld b 143 128 epoch.toNat) 159 144 member.toNat
  setFld (setFld b 127 96 self) 271 256 epoch.toNat

/-- Refuses a unit with a descriptor-only return (R216). -/
def refuseUnit (w p : Nat) (lc : Bool) (u : Block) (st : Status) (s : State) : State :=
  sendReturn w p lc (uSource u) (blockBytes (returnDesc s.selfId (s.layout p).epoch s.flt.epoch u st (uf u 2 1 % 4) false)) s

/-- Whether an instance has receive space for a unit, and the instance with that space taken (R216, R196). -/
def takeSpace (p l : Nat) (x : RecvInst) (u : Block) (n : Nat) (s : State) : Option RecvInst :=
  if n > x.f 12 2 % 2 ^ 11 * 64 then none
  else if (uf u 2 1).testBit 3 then (if x.bounceUsed < x.f 2 2 then some { x with bounceUsed := x.bounceUsed + 1 } else none)
  else if uDisp u = 2 then
    match find? s.dvt.plans l with
    | some pl => if pl.spillEn && s.inRange p 2 l && decide (x.spillUsed < pl.spillSlots) then some { x with spillUsed := x.spillUsed + 1 } else none
    | none => none
  else if x.capUsed < x.f 4 4 % 2 ^ 20 then some { x with capUsed := x.capUsed + 1 }
  else none

/-- The gather ring entry of a unit at a granule (Table Prog-9). -/
def ringEntry (u : Block) (g n : Nat) : List Byte :=
  let nb := ceilDiv (uLen u) 32
  toBytes 16 (layout [(0, 1, 1), (2, 2, nb), (4, 4, g + 1), (8, 4, (g + 1) * 64 + unitElBytes (uf u 2 1 % 4) (uLen u)), (12, 4, n)])

/-- Serves a unit: the unit, the ring entry, then the arrival peg (R216). A write that fails refuses it with ACCESS (log 47). -/
def serveUnit (w : Nat) (win : RecvWin) (x y : RecvInst) (u : Block) (lc grace : Bool) (bs : List Byte) (s : State) : State :=
  let n := x.next
  let g := x.f 8 4 % 2 ^ 23 + n * (x.f 12 2 % 2 ^ 11)
  let slot := n % 2 ^ (x.f 14 1 % 32)
  match s.writeFor win.part false (g * 64) bs with
  | (_, _, some _) => refuseUnit w win.part lc u .access s
  | (s1, _, none) => match s1.writeFor win.part false (x.f 16 4 % 2 ^ 23 * 64 + 16 * slot) (ringEntry u g n) with
    | (_, _, some _) => refuseUnit w win.part lc u .access s
    | (s2, _, none) =>
      let s2 := updWindow w (fun v => { v with
        insts := v.insts.map fun z => if z.entry = x.entry then { y with next := n + 1 } else z,
        units := v.units ++ [⟨wordExpert (uWord u), uInst u, n, u, lc, grace, false⟩] }) s2
      pegUpdate (x.f 20 2 % 2 ^ 14) (.queue 0) (.add 1) s2

/-- Counts units discarded for want of a window. -/
def discardUnit (s : State) : State := s.onDvt fun d => { d with discarded := satAdd d.discarded 1 }

/-- DISPATCH_UNIT (R216): a whole dispatch unit is served, refused or discarded. A unit that was already received is discarded (log 48). -/
def execDispatchUnit (u : Packet) (s : State) : Host.Outcome State Fault Refusal :=
  .next <|
    let s := takeUnit u s
    let b := toBlock u.payload
    let e := wordExpert (uWord b)
    let l := wordLayer (uWord b)
    match pick (fun (w : Nat × RecvWin) => w.2.layer == l && w.2.step == uf b 20 2) s.dvt.windows with
    | none => discardUnit s
    | some (w, win) =>
      if !unitOk 0 u.payload ∨ win.units.any (fun x => uSource x.desc == uSource b && uf x.desc 24 4 == uf b 24 4) then discardUnit s
      else
        let p := win.part
        let hosted := hostOf (instWord (s.layout p).current l e (uInst b)) == some s.selfId
        let grace := !hosted && s.graced p (uWord b) (uInst b) (uf b 16 2)
        let av := (getD s.dvt.avail (availKey l e) 0).toNat
        if !hosted && !grace then refuseUnit w p u.lc b .staleRole (s.onDvt fun d => { d with staleRefused := satAdd d.staleRefused 1 })
        else if av.testBit 4 || av.testBit (uInst b) then
          refuseUnit w p u.lc b (if av.testBit 4 then .diverged else .staleRole) (s.onDvt fun d => { d with refused := d.refused + 1 })
        else
          match pick (fun (x : RecvInst) => x.isFor e (uInst b)) win.insts with
          | none => refuseUnit w p u.lc b .quota s
          | some x =>
            let spill := !(uf b 2 1).testBit 3 && uDisp b == 2
            match takeSpace p l x b u.payload.length s with
            | none => refuseUnit w p u.lc b .quota (if spill then s.onDvt fun d => { d with spillRejected := d.spillRejected + 1 } else s)
            | some y =>
              let s := if spill then s.onDvt fun d => { d with spillAccepted := d.spillAccepted + 1 } else s
              serveUnit w win x y b u.lc grace u.payload s

/-! ### DVT_RETURN (R218) -/

/-- Reserved fields of a DVT_RETURN block. -/
def returnRsv : List Rsv :=
  [rbits 0 15 6, rbits 2 7 3, rb 3 1, rbits 4 31 21, rbits 8 5 1, rbits 16 5 1, rb 28 4, rbits 32 5 1, rb 40 24]

/-- Values of a DVT_RETURN block outside their ranges. -/
def returnVals (bs : List Byte) : List (Nat × Bool) :=
  [(0, le bs 0 1 / 16 % 4 == 3), (4, le bs 4 4 % 2 ^ 21 == 0 || decide (le bs 4 4 % 2 ^ 21 > 2 ^ 20))]

/-- The place of a key in the order of R209. -/
def keyLe (a b : List Nat) : Bool :=
  match a, b with
  | [], _ => true
  | _ :: _, [] => false
  | x :: r, y :: t => if x = y then keyLe r t else decide (x < y)

/-- Inserts by key. -/
def insertKey {α : Type} (x : List Nat × α) : List (List Nat × α) → List (List Nat × α)
  | [] => [x]
  | y :: r => if keyLe x.1 y.1 && !keyLe y.1 x.1 then x :: y :: r else y :: insertKey x r

/-- Sorts by key, equal keys in their order. -/
def sortKeys {α : Type} (xs : List (List Nat × α)) : List (List Nat × α) := xs.foldl (fun acc x => insertKey x acc) []

/-- Marks units of a window as returned, one for each list entry: entry i names the lowest unreturned (expert, instance) with that unit number (log 47). -/
def pickReturns : List (Nat × Nat) → List RecvUnit → List (Nat × RecvUnit) → Except Nat (List (Nat × RecvUnit) × List RecvUnit)
  | [], us, acc => .ok (acc, us)
  | (i, n) :: r, us, acc =>
    let lower (x y : RecvUnit) : Bool := decide (x.expert < y.expert) || (x.expert == y.expert && decide (x.inst < y.inst))
    let best := (us.filter fun x => x.u == n && !x.returned).foldl (fun b x => match b with
      | some y => if lower x y then some x else some y
      | none => some x) (none : Option RecvUnit)
    match best with
    | none => .error i
    | some x => pickReturns r (us.map fun y => if y = x then { y with returned := true } else y) (acc ++ [(i, x)])

/-- The bytes of a return with its vector. -/
def returnBytes (c : CmdRef) (p : Nat) (bs : List Byte) (i : Nat) (x : RecvUnit) (s : State) : Except Err (List Byte) := do
  let v := le bs 0 1 / 16 % 4
  let nb := ceilDiv (uLen x.desc) 32
  let ea := addrIn bs 16
  let sa := addrIn bs 32
  let el ← cmdRead c p ⟨ea.tiered, ea.a + i * le bs 24 4 * 64⟩ (nb * blockBytesOf (vfmtBits v)) s
  let sc ← cmdRead c p ⟨sa.tiered, sa.a + i * nb⟩ nb s
  .ok (blockBytes (returnDesc s.selfId (s.layout p).epoch s.flt.epoch x.desc .ok v x.grace) ++ padGranule el ++ padGranule sc)

/-- DVT_RETURN (R218): the named units' outputs leave in key order of their destinations. -/
def execDvtReturn (c : CmdRef) (s : State) : Host.Outcome State Fault Refusal :=
  .next (wholeCmd c 0x0424 (fun k p s => do
    let bs ← cmdBlock c p (addr154 (op k 32 8)) 64 0x10 0 returnRsv
      returnVals s
    let w := le bs 2 1 % 8
    let n := le bs 4 4 % 2 ^ 21
    guardE (!s.inRange p 7 w) (accessAt 2)
    let ls ← cmdRead c p (addrIn bs 8) (4 * n) s
    let win := getD s.dvt.windows w ⟨p, 0, 0, [], []⟩
    match pickReturns ((List.range n).map fun i => (i, le ls (4 * i) 4)) (if win.part = p then win.units else []) [] with
    | .error i => .error (badRsv 2 (4 * i))
    | .ok (xs, us) =>
      let out ← xs.mapM fun e => do
        let b ← returnBytes c p bs e.1 e.2 s
        .ok ([uSource e.2.desc, e.2.expert, e.2.inst, uf e.2.desc 22 2, uf e.2.desc 3 1 % 16, uDisp e.2.desc], b)
      let s := updWindow w (fun v => { v with units := us }) s
      .ok { s := (sortKeys out).foldl (fun s e => sendReturn w p (flagLc k) (e.1.headD 0) e.2 s) s, result := n }) s)

/-! ### Combine slots (R219) -/

/-- The combine slot. -/
def State.slot (s : State) (n : Nat) : Option CombineSlot := find? s.dvt.slots n
/-- Changes a combine slot that is held. -/
def updSlot (n : Nat) (f : CombineSlot → CombineSlot) (s : State) : State :=
  s.onDvt fun d => { d with slots := d.slots.map fun e => if e.1 = n then (e.1, f e.2) else e }
/-- Frees a combine slot, with its combine buffers (R410). -/
def freeSlot (n : Nat) (s : State) : State :=
  let hs : List Nat := match s.slot n with
    | some x => x.bufs.map fun b => b.2
    | none => []
  hs.foldl (fun s h => engineRelease 2 h s) (s.onDvt fun d => { d with slots := del d.slots n })
/-- A choice whose return is still to come. -/
def SlotChoice.open_ (h : SlotChoice) : Bool := h.st == .sent || h.st == .queued

/-- Changes a choice of a slot. -/
def updChoice (n ordinal : Nat) (f : SlotChoice → SlotChoice) (s : State) : State :=
  updSlot n (fun x => { x with choices := x.choices.map fun h => if h.ordinal = ordinal then f h else h }) s

/-! ### The units of a step (R211, R212) -/

/-- The dispatch unit of a choice, its vector read from the dispatch vectors (Table Disp-2, Table Disp-3). -/
def unitOf (c : CmdRef) (n : Nat) (x : CombineSlot) (h : SlotChoice) (s : State) : Except Err (List Byte) := do
  let v := le x.blk 0 1 / 16 % 4
  let nb := ceilDiv x.d 32
  let ea := addrIn x.blk 16
  let sa := addrIn x.blk 24
  let w := nb * blockBytesOf (vfmtBits v)
  let el ← cmdRead c x.part ⟨ea.tiered, ea.a + h.token * w⟩ w s
  let sc ← cmdRead c x.part ⟨sa.tiered, sa.a + h.token * nb⟩ nb s
  let tag := h.ordinal + n * 2 ^ 20 + x.seq.toNat * 2 ^ 24
  .ok (toBytes 64 (layout [(0, 1, 1), (2, 1, v + 8 * b2n h.bounced), (3, 1, h.c + h.inst * 16 + h.disp * 64), (4, 4, h.expert + x.layer * 2 ^ 14),
      (8, 4, s.selfId), (12, 4, h.host), (16, 2, h.epoch.toNat), (18, 2, s.flt.epoch.toNat), (20, 2, le x.blk 4 2), (22, 2, h.token),
      (24, 4, tag), (28, 2, h.g), (30, 2, x.d)]) ++ padGranule el ++ padGranule sc)

/-- Hands one unit of a step over, whose dispatch vector it reads. -/
def sendChoice (n : Nat) (x : CombineSlot) (h : SlotChoice) (s : State) : Except Err State := do
  let bs ← unitOf x.cmd n x h s
  let v := le x.blk 0 1 / 16 % 4
  .ok (sendUnit x.part h.host 0 x.lc bs
    (noteReads x.cmd x.part (tensorRange (addrIn x.blk 16) (addrIn x.blk 24) (vfmtBits v) x.d h.token 1) s))

/-! ### The end of DVT_ROUTE (R214) -/

/-- The combine slot that a running DVT_ROUTE opened, with its number; a DVT_COMBINE that timed out may have freed the slot, and the step goes on (R222). -/
def State.slotOf (s : State) (c : CmdRef) : Option (Nat × CombineSlot) :=
  pick (fun (e : Nat × CombineSlot) => e.2.cmd == c && e.2.routing) (s.dvt.slots ++ s.dvt.loose)

/-- Changes what a running DVT_ROUTE keeps of its units. -/
def updRoute (c : CmdRef) (f : CombineSlot → CombineSlot) (s : State) : State :=
  let g (e : Nat × CombineSlot) : Nat × CombineSlot := if e.2.cmd == c && e.2.routing then (e.1, f e.2) else e
  s.onDvt fun d => { d with slots := d.slots.map g, loose := d.loose.map g }

/-- A running DVT_ROUTE leaves: its bank and what it holds of the Dovetail are free, and a preemption of its partition no longer waits for it. -/
def leaveRoute (c : CmdRef) (st : Status) (result det : Nat) (s : State) : State :=
  let s := (updRoute c ({ · with routing := false }) s).onDvt fun d => { d with loose := d.loose.filter fun e => e.2.cmd != c }
  endStep c st result det s

/-- A DVT_ROUTE ends: its bank is released. -/
def endRoute (x : CombineSlot) (s : State) : State := leaveRoute x.cmd .ok (x.sentN + x.dropped * 2 ^ 32) x.bits s

/-- A DVT_ROUTE fails after its grant: its slot is freed with its bank; a DVT_COMBINE that waited on the slot finds no step in it, BAD_RSV as where it finds none
at first (log 47). -/
def failRoute (c : CmdRef) (e : Err) (s : State) : State :=
  let held := pick (fun (y : Nat × CombineSlot) => y.2.cmd == c && y.2.routing) s.dvt.slots
  let s := leaveRoute c e.st 0 e.det s
  match held with
  | none => s
  | some (n, x) =>
    let s := freeSlot n s
    match x.comb with
    | some k => failCmd k (badRsv 1 2) s
    | none => s

/-- DVT_ROUTE ends when every unit has been returned or refused, and none is to be resent (log 46). -/
def settleRoute (n : Nat) (s : State) : State :=
  match s.slot n with
  | some x => if x.routing && x.v != 0 && x.choices.all (fun h => !h.open_) then endRoute x s else s
  | none => s

/-! ### Combine (R220 to R223) -/

/-- n bytes of a DVT_COMBINE block. -/
def CombineSlot.cf (x : CombineSlot) (off n : Nat) : Nat := le x.combBlk off n

/-- Bits of out_fmt; none for a reserved one. -/
def outFmtBits (v : Nat) : Option Nat := match v with
  | 1 => some 48
  | 2 => some 4
  | 3 => some 8
  | 4 => some 16
  | _ => none

/-- Block j of a served choice's return. -/
def returnBlock (c : CmdRef) (x : CombineSlot) (h : SlotChoice) (j : Nat) (s : State) : Except Err Blk := do
  let ra := addrIn x.blk 32
  let base := ra.a + h.ordinal * (le x.blk 6 2 % 2 ^ 11) * 64 + 64
  let w := vfmtBits h.vfmt
  let el ← cmdRead c x.part ⟨ra.tiered, base + j * blockBytesOf w⟩ (blockBytesOf w) s
  let sc ← cmdRead c x.part ⟨ra.tiered, base + unitElBytes h.vfmt x.d + j⟩ 1 s
  let b := readBlk w el (le sc 0 1)
  .ok (if 32 * (j + 1) ≤ x.d then b else b.keep (x.d - 32 * j))

/-- Sums one output block over the served choices with their weights, in ascending expert index (R220). The products, sums and requantization are checked
(R83, R221). -/
def combineBlock (u : Upset) (auto : Bool) (accExp : Int) (bits : Nat) (m : Rounding) (bs : List (Blk × Nat)) : OutBlk :=
  let live := bs.filter fun b => b.1.e.isSome
  if live.isEmpty then outBlock bits (List.replicate 32 0) none m
  else
    let ec : Int := if auto then (maxExp (live.map (·.1.e))).getD 0 - 16 else accExp
    let add (i : Nat) (d : Drain) (b : Blk × Nat) : Drain :=
      let q := b.1.q.getD i 0
      d.term u ec (q * (b.2 : Int)) (b.1.e.getD 0 - 16) (res7 q * res7 (b.2 : Int) % 7)
    let ds := (List.range 32).map fun i => (live.foldl (add i) { sum := 0, res := 0 }).close u
    let o := outChecked u (ds.foldl (fun (k : Checks) d => k.add d.bad) {}) bits (ds.map (·.sum)) (some ec) m
    { o with sat := o.sat || ds.any (·.sat) }

/-- The served choices of a token, ascending by expert, with their weights: those of admission, or reweighed when a choice did not return (R193, R220). -/
def tokenTerms (x : CombineSlot) (t : Nat) : List (SlotChoice × Nat) :=
  let all := x.choices.filter fun h => h.token == t
  let ok := (sortKeys ((all.filter fun h => h.st == .served).map fun h => ([h.expert], h))).map (·.2)
  let b := (ok.map (·.p)).sum
  ok.map fun h => (h, if ok.length = all.length then h.g else reweigh (x.mass.getD t 0) b ok.length h.p)

/-- The output key of DVT_COMBINE: the element index of token t, block j is t × d + 32j (R220). -/
def combineRounding (x : CombineSlot) (t j : Nat) : Rounding :=
  ⟨(x.cf 0 1).testBit 5, BitVec.ofNat 64 (x.cf 24 8), x.cf 32 4, (t * x.d + 32 * j) % 2 ^ 48⟩

/-- Writes the output blocks of a slot, token by token. Answers the state, whether it saturated, and a failure;
a block whose checks fail is not written (R221). -/
def combineLoop (c : CmdRef) (x : CombineSlot) (bits : Nat) : List (Nat × Nat) → Bool → State → State × Bool × Option Err
  | [], sat, s => (s, sat, none)
  | (t, j) :: r, sat, s =>
    let nb := ceilDiv x.d 32
    let terms := tokenTerms x t
    match terms.mapM fun h => (returnBlock c x h.1 j s).map fun b => (b, h.2) with
    | .error e => (s, sat, some e)
    | .ok bs =>
      let o := combineBlock s.dvt.combineUpset (!(x.cf 0 1).testBit 4) (signed 10 (x.cf 6 2)) bits (combineRounding x t j) bs
      let ea := addrIn x.combBlk 8
      let sa := addrIn x.combBlk 16
      if o.bad.any then (s, sat, some (integrity 0x02 o.bad.code 5))
      else match cmdWrite c x.part ⟨ea.tiered, ea.a + (t * nb + j) * o.bytes.length⟩ o.bytes s with
      | (s, _, some e) => (s, sat, some e)
      | (s, _, none) => match cmdWrite c x.part ⟨sa.tiered, sa.a + (t * nb + j) * o.scale.length⟩ o.scale s with
        | (s, _, some e) => (s, sat, some e)
        | (s, _, none) => combineLoop c x bits r (sat || o.sat) s

/-- A device has been declared dead by a verdict in the history. -/
def State.declaredDead (s : State) (d : Nat) : Bool := s.history.any fun v => v.2 == d

/-- Under DET a combine of which some choice is not served breaches determinism (R223): the record is written, and named by the command. -/
def combineBreach (c : CmdRef) (n : Nat) (x : CombineSlot) (s : State) : State :=
  let i := (getD s.par.rings x.part {}).prod.toNat % 2 ^ 16
  -- DEDUCED (log 78): the breach of one command names that command's queue.
  let s := momentBreach x.part 4 1 4 (some c.q.val) n s
  (s.onPar fun r => { r with combineBreaches := upd r.combineBreaches x.part 0 (satAdd · 1) }).updIn c ({ · with breach := some i })

/-- A slot is freed by the DVT_COMBINE on it; a DVT_ROUTE that still runs keeps what it needs of its units (R214, R222). -/
def releaseSlot (n : Nat) (x : CombineSlot) (s : State) : State :=
  let s := freeSlot n s
  if x.routing then s.onDvt fun d => { d with loose := put d.loose n { x with comb := none, bufs := [] } } else s

/-- Ends a DVT_COMBINE: the outputs are written, the slot is freed, and the status follows R222 and R223. -/
def endCombine (n : Nat) (x : CombineSlot) (s : State) : State :=
  match x.comb with
  | none => s
  | some c =>
    let missing := x.choices.filter fun h => h.open_
    let lost := x.choices.filter fun h => h.st != .served
    let served := x.choices.length - lost.length
    let s := releaseSlot n x s
    let s := s.onDvt fun d => { d with missing := satAdd d.missing missing.length }
    let ra := addrIn x.blk 32
    let s := noteReads c x.part [(ra, x.choices.length * (le x.blk 6 2 % 2 ^ 11) * 64)] s
    let work := (List.range x.v).flatMap fun t => (List.range (ceilDiv x.d 32)).map fun j => (t, j)
    let (s, sat, e) := combineLoop c x ((outFmtBits (x.cf 0 2 / 64 % 8)).getD 48) work false s
    let s := if sat then noteSat c s else s
    let bits := x.bits + 16 * b2n (!lost.isEmpty) + 32 * b2n x.grace + 64 * b2n x.resent
    let result := served + lost.length * 2 ^ 32
    let dead := (missing.map (·.host)).filter s.declaredDead
    match e with
    | some e => failCmd c e s
    | none =>
      let det := match s.inflight c with
        | some i => i.det
        | none => false
      let s := if det && !lost.isEmpty then combineBreach c n x s else s
      if !dead.isEmpty then endCmd c .peerLost result (dead.foldl min (2 ^ 20)) s
      else if !missing.isEmpty then endCmd c .timeout result bits s
      else endCmd c .ok result bits s

/-- A slot whose every return is in is combined, if a DVT_COMBINE waits on it (R220). -/
def tryCombine (n : Nat) (s : State) : State :=
  match s.slot n with
  | some x => if !x.routing && x.comb.isSome && x.choices.all (fun h => !h.open_) then endCombine n x s else s
  | none => s

/-- Reserved fields of a DVT_COMBINE block. -/
def combineRsv : List Rsv := [rbits 0 15 9, rbits 2 7 4, rb 3 1, rbits 6 15 10, rbits 8 5 1, rbits 16 5 1, rb 36 28]

/-- Values of a DVT_COMBINE block outside their ranges. -/
def combineVals (bs : List Byte) : List (Nat × Bool) := [(0, (outFmtBits (le bs 0 2 / 64 % 8)).isNone)]

/-- DVT_COMBINE (R220): it waits for the returns of its slot. A slot that holds no step of the partition, or one that is being combined, is BAD_RSV (log 47). -/
def execDvtCombine (c : CmdRef) (s : State) : Host.Outcome State Fault Refusal :=
  .next <| beginCmd c 0x0425 (fun k p s => do
    let bs ← cmdBlock c p (addr154 (op k 32 8)) 64 0x11 0 combineRsv combineVals s
    let n := le bs 2 1 % 16
    guardE (!s.inRange p 6 n) (accessAt 2)
    match s.slot n with
    | none => .error (badRsv 1 2)
    | some x =>
      guardE (x.part != p || x.comb.isSome) (badRsv 1 2)
      let since := match s.inflight c with
        | some i => i.since
        | none => s.clk
      .ok (tryCombine n (updSlot n ({ · with comb := some c, combBlk := bs, combAt := since }) s))) s

/-- COMBINE_TIMEOUT (R222): the timeout runs from the grant of DVT_COMBINE, and passes only once the step's choices are known (log 130); hosts of missing returns are suspected of NO_REPLY (R462). -/
def execCombineTimeout (c : CmdRef) (s : State) : Host.Outcome State Fault Refusal :=
  .next <|
    match pick (fun (e : Nat × CombineSlot) => e.2.comb == some c) s.dvt.slots with
    | none => s
    | some (n, x) =>
      let t := x.cf 4 2
      if t = 0 ∨ x.v = 0 ∨ s.clk - x.combAt < t * 1000 then s
      else
        let hosts := ((x.choices.filter fun h => h.open_).map (·.host)).filter fun d => !s.declaredDead d
        endCombine n x (hosts.foldl (fun s d => suspect d 2 s) s)

/-! ### Returns at the source (R217, R219) -/

/-- Counts a return that names no choice waiting for one. -/
def staleReturn (s : State) : State := s.onDvt fun d => { d with staleReturns := satAdd d.staleReturns 1 }

/-- A choice is left unserved. -/
def leaveUnserved (n ordinal : Nat) (s : State) : State := updChoice n ordinal ({ · with st := .unserved }) s

/-- The host to which a refused unit is resent, if it may be (R217). -/
def resendHost (x : CombineSlot) (h : SlotChoice) (u : Block) (s : State) : Option Nat :=
  let t := s.layout x.part
  match hostOf (instWord t.current x.layer h.expert h.inst) with
  | some d => if !h.bounced && newer t.epoch h.epoch && d != uHost u then some d else none
  | none => none

/-- A STALE_ROLE return: the unit is resent once to its new host, or left unserved (R217). A vector that cannot be read again fails the DVT_ROUTE (R214, R446). -/
def bounce (n : Nat) (x : CombineSlot) (h : SlotChoice) (u : Block) (s : State) : State :=
  match resendHost x h u s with
  | none => leaveUnserved n h.ordinal s
  | some d =>
    let h' := { h with host := d, epoch := (s.layout x.part).epoch, bounced := true }
    match sendChoice n x h' s with
    | .error e => if x.routing then failRoute x.cmd e s else leaveUnserved n h.ordinal s
    | .ok s =>
      let s := updSlot n ({ · with resent := true }) (updChoice n h.ordinal (fun _ => h') s)
      s.onDvt fun d => { d with bounces := satAdd d.bounces 1 }

/-- The buffer in which the partial sums of a token are added on arrival, drawn at its first return; without one the token is combined
after its last return, with the same result (R220, R410). -/
def combineBuffer (n : Nat) (x : CombineSlot) (t : Nat) (s : State) : State :=
  if x.bufs.any fun b => b.1 == t then s
  else match engineDraw x.part 2 (256 * ceilDiv x.d 32) s with
    | (some h, s) => updSlot n (fun y => { y with bufs := y.bufs ++ [(t, h)] }) s
    | (none, s) => s

/-- A return with status OK is written to the return buffer; one that does not fit is taken as unserved (R219). -/
def landReturn (n : Nat) (x : CombineSlot) (h : SlotChoice) (u : Block) (bs : List Byte) (s : State) : State :=
  let gran := le x.blk 6 2 % 2 ^ 11
  let ra := addrIn x.blk 32
  if bs.length > gran * 64 ∨ uLen u ≠ x.d then leaveUnserved n h.ordinal s
  else match s.writeFor x.part ra.tiered (ra.a + h.ordinal * gran * 64) bs with
    | (_, _, some _) => leaveUnserved n h.ordinal s
    | (s, _, none) => combineBuffer n x h.token (updChoice n h.ordinal ({ · with st := .served, vfmt := uf u 2 1 % 4 }) s)

/-- RETURN_UNIT (R217, R219): a whole return is written, resent, left unserved, or discarded as stale. -/
def execReturnUnit (u : Packet) (s : State) : Host.Outcome State Fault Refusal :=
  .next <|
    let s := takeUnit u s
    let b := toBlock u.payload
    let tag := uf b 24 4
    let n := tag / 2 ^ 20 % 16
    match s.slot n with
    | none => staleReturn s
    | some x =>
      match pick (fun (h : SlotChoice) => h.ordinal == tag % 2 ^ 20 && h.st == .sent) x.choices with
      | none => staleReturn s
      | some h =>
        if x.seq.toNat ≠ tag / 2 ^ 24 ∨ !unitOk 1 u.payload then staleReturn s
        else
          let grace := (uf b 2 1).testBit 2
          let s := if grace then updSlot n ({ · with grace := true }) (s.onDvt fun d => { d with graceServed := satAdd d.graceServed 1 }) else s
          let s := if uf b 1 1 = 0 then landReturn n x h b u.payload s
            else if uf b 1 1 = Status.code .staleRole then bounce n x h b s
            else leaveUnserved n h.ordinal s
          tryCombine n (settleRoute n s)

end Sys2Proof.Machine
end

