-- ==== Sys2Proof/Machine/DvtRoute.lean ====
section
/-! DEFINITION. DVT_ROUTE: scoring, selection, admission, sorting and dispatch of a routing step (R209 to R214). -/

namespace Sys2Proof.Machine

/-- Reserved fields of a DVT_ROUTE block. -/
def routeRsv : List Rsv :=
  [rbits 0 15 6, rbits 2 7 4, rb 3 1, rbits 6 15 11, rbits 40 31 21, rb 44 4] ++ ([8, 16, 24, 32, 48, 56].map fun o => rbits o 5 1)

/-- Values of a DVT_ROUTE block outside their ranges. -/
def routeVals (bs : List Byte) : List (Nat × Bool) :=
  let g := le bs 6 2 % 2 ^ 11
  let n := le bs 40 4 % 2 ^ 21
  [(0, le bs 0 1 / 16 % 4 == 3), (6, g == 0 || decide (g > 1024)), (32, (le bs 32 1).testBit 0), (40, n == 0 || decide (n > 2 ^ 20)),
   (48, (le bs 48 1).testBit 0)]

/-- Checks a DVT_ROUTE block. -/
def checkRouteBlock (p : Nat) (bs : List Byte) (s : State) : Except Err Unit :=
  if le bs 0 1 % 16 ≠ 1 then .error (badGen 0x0F 0)
  else match fieldFault (ofBytes bs) routeRsv (routeVals bs) with
    | some o => .error (badRsv 1 o)
    | none => guardE (!s.inRange p 6 (le bs 2 1 % 16)) (accessAt 2)

/-- The choices a step dispatches, numbered in ascending (token, c) (R211). -/
def dispatched (b : Bank) (l : Nat) (ts : List (TokenScore × AdmitToken)) : List SlotChoice :=
  let all := ts.zipIdx.flatMap fun e => (e.1.2.ch.filter fun c => c.disp != 3).map fun c => (e.2, e.1.1, c)
  all.mapIdx fun i e =>
    { token := e.1, c := e.2.2.c, expert := e.2.2.expert, inst := e.2.2.inst, disp := e.2.2.disp, p := (e.2.1.sel.cand.getD e.2.2.rank (0, 0)).2,
      g := e.2.2.g, ordinal := i, st := .queued, host := (hostOf (instWord b.table l e.2.2.expert e.2.2.inst)).getD 0, epoch := b.epoch }

/-- The sort key of a choice (Table Disp-1), as its fields in order. -/
def sortKey (h : SlotChoice) : List Nat := [h.host, h.expert, h.inst, h.token, h.c, h.disp]

/-- Granules of the largest return at SSI16 (R214). -/
def largestReturn (d : Nat) : Nat := unitBytes 2 d / 64

/-- The checks after admission and before any unit is handed over (R210, R214). -/
def checkUnits (blk : List Byte) (r : LayerEntry) (n : Nat) : Except Err Unit := do
  guardE (r.dModel == 0) (badRsv 2 2)
  guardE (decide (n > le blk 40 4 % 2 ^ 21)) ⟨.quota, 0xD2⟩
  guardE (decide (largestReturn r.dModel > le blk 6 2 % 2 ^ 11)) (badRsv 1 6)
  guardE (decide (n > 65536) && le blk 48 8 == 0) (badRsv 1 48)

/-- Keys beyond the sort store pass through the key spill region, whose content afterwards is not stated: free bytes (R210). -/
def spillKeys (c : CmdRef) (p : Nat) (blk : List Byte) (n : Nat) (s : State) : State × Option Err :=
  if n ≤ 65536 then (s, none)
  else
    let (bs, s) := s.freeBytes (8 * n)
    let a := addrIn blk 48
    let w := cmdWrite c p a bs s
    (w.1, w.2.2)

/-- Hands the units over in key order, each built in a buffer of the partition's dispatch pools that is released once it is sent (R410). A unit waits for a
buffer and for the end-to-end credit of its host's receive window, which is a free bit: how the grant of a window reaches the source is not given (R213, R215,
R249, log 130). The first failure ends it. -/
def handOver (c : CmdRef) (n : Nat) : List SlotChoice → State → State × Option Err
  | [], s => (s, none)
  | h :: r, s =>
    match s.slotOf c with
    | none => (s, none)
    | some (_, x) =>
      let d := s.draw
      if !Config.freeBit d.1 then (d.2, none)
      else match engineWait { use := 1, cmd := c, lc := x.lc, n := 1 } x.part (unitBytes (le x.blk 0 1 / 16 % 4) x.d) d.2 with
        | (none, s) => (s, none)
        | (some b, s) => match sendChoice n x h s with
          | .error e => (engineRelease 1 b s, some e)
          | .ok s =>
            let sent (y : SlotChoice) : SlotChoice := if y.ordinal = h.ordinal then { y with st := .sent } else y
            handOver c n r ((engineRelease 1 b (updRoute c (fun y => { y with choices := y.choices.map sent }) s)).onDvt fun d =>
              { d with unitsSent := satAdd d.unitsSent 1 })

/-- The choices of a slot not yet handed over, in key order. -/
def CombineSlot.queued (x : CombineSlot) : List SlotChoice :=
  (sortKeys ((x.choices.filter fun h => h.st == .queued).map fun h => (sortKey h, h))).map (·.2)

/-- The checks, sorting and dispatch of a step whose every token is admitted (R209 to R214). -/
def dispatchStep (c : CmdRef) (n : Nat) (blk : List Byte) (r : DvtRun) (bank : Bank) (s : State) : State × Option Err :=
  let as_ := r.admitted
  let hs := dispatched bank r.layer (r.picked.zip as_)
  match checkUnits blk r.rec_ hs.length with
  | .error e => (s, some e)
  | .ok _ => match spillKeys c r.part blk hs.length s with
    | (s, some e) => (s, some e)
    | (s, none) =>
      let s := updRoute c (fun y => { y with
        blk := blk, layer := r.layer, v := r.v, d := r.rec_.dModel, mass := as_.map (·.a), choices := hs, bits := admitBits as_, sentN := hs.length,
        dropped := (as_.map fun t => (t.ch.filter fun h => h.disp == 3).length).sum,
        det := ((s.inflight c).map (·.det)).getD false, lc := r.lc }) s
      handOver c n ((sortKeys (hs.map fun h => (sortKey h, h))).map (·.2)) s

/-- A DVT_ROUTE ends with a failure: slot and bank are freed (R214). -/
def failStep (c : CmdRef) (e : Err) (s : State) : State := failRoute c e (dropDraws c s)

/-- The parameter block of a DVT_ROUTE, which was read once, at the issue point, or the failure of that read (R214). -/
def routeBlock (i : InFlight) : Except Err (List Byte) :=
  match i.blkErr with
  | some e => .error ⟨e.1, e.2⟩
  | none => .ok i.blk

/-- The checks of a DVT_ROUTE before it scores (R186, R214): its score block and layer entry. -/
def checkRoute (c : CmdRef) (p : Nat) (i : InFlight) (s : State) : Except Err (List Byte × LayerEntry) := do
  let blk ← routeBlock i
  checkRouteBlock p blk s
  let (b, r) ← readScoreBlock c p (addrIn blk 8) 2 s
  let _ ← admitAgainst c (le b 2 2 % 2 ^ 10) s
  match scoreFault r s with
  | some e => .error e
  | none => .ok (b, r)

/-- The memory that reading the blocks of a DVT_ROUTE touches. -/
def routeReads (i : InFlight) : List (Addr × Nat) := [(addr154 (op i.pkt 32 8), 64), (addrIn i.blk 8, 64)]

/-- After an event of a DVT_ROUTE that scores and admits: it fails, goes on, or hands its units over once every token is admitted. -/
def settleScored (c : CmdRef) (i : InFlight) (x : State × Option Err) : State :=
  match x.2, x.1.run c with
  | some e, _ => failStep c e x.1
  | none, none => x.1
  | none, some r =>
    if !r.whole then x.1
    else
      let n := le i.blk 2 1 % 16
      match x.1.bankOf c with
      | none => x.1
      | some bank => match dispatchStep c n i.blk r bank (dropRun c (countSat c r.picked x.1)) with
        | (s, some e) => failStep c e s
        | (s, none) => tryCombine n (settleRoute n s)

/-- A DVT_ROUTE whose step is dispatched goes on: units that wait for a buffer or a credit are handed over; when none waits, its last outstanding units have been
written at their hosts and it ends (log 46). -/
def continueRoute (c : CmdRef) (n : Nat) (x : CombineSlot) (s : State) : State :=
  if x.queued.isEmpty then tryCombine n (endRoute x s)
  else match handOver c n x.queued s with
    | (s, some e) => failStep c e s
    | (s, none) => tryCombine n (settleRoute n s)

/-- DVT_ROUTE (R214): its first event checks its blocks. While it scores and admits, a further event does what a unit of the Dovetail has of it or takes for it
(R176); once it is dispatched, units that wait leave, and when there are none the event says that its last outstanding units have been written at their hosts: how
the source learns of that is not given (log 46). -/
def execDvtRoute (c : CmdRef) (s : State) : Host.Outcome State Fault Refusal :=
  .next <|
    match s.running c with
    | some i =>
      match s.run c with
      | some r => if r.kind = .route then settleScored c i (stepEvent r s) else s
      | none => match s.slotOf c with
        | some (n, x) => if x.v = 0 then s else continueRoute c n x s
        | none => s
    | none =>
      match s.ready c 0x0423 with
      | none => s
      | some i =>
        match checkRoute c (s.cmdPart c) i s with
        | .error e => failStep c e s
        | .ok (b, r) =>
          noteReads c (s.cmdPart c) (routeReads i) (startRun c (s.cmdPart c) .route b r (s.updIn c ({ · with stage := .running })))

end Sys2Proof.Machine
end

