-- ==== Sys2Proof/Machine/Sequence.lean ====
section
/-! DEFINITION. KV sequences and the step boundary (R390 to R392). -/

namespace Sys2Proof.Machine

/-- A sequence table entry. -/
def State.seq (s : State) (i : Nat) : Seq := getD s.tier.seqs i {}
/-- The state with a sequence table entry replaced. -/
def State.setSeq (s : State) (i : Nat) (q : Seq) : State := s.onTier fun t => { t with seqs := put t.seqs i q }

/-- need(s), and whether max capped it (R391). -/
def Seq.need (q : Seq) : Nat × Bool :=
  let n := ceilDiv ((q.len + q.d + 1) * q.kvb) 65536
  (min q.max n, decide (n > q.max))

/-- reserve(s) (R391). -/
def Seq.reserve (q : Seq) : Nat := q.need.1 - q.held

/-- Code of a sequence state (R391). -/
def SeqState.code : SeqState → Nat
  | .queued => 1 | .running => 2 | .suspended => 3 | .gone => 4

/-- A command's place in the order of grants. -/
def State.grantOrder (s : State) (c : CmdRef) : Nat := match s.inflight c with
  | some i => i.order
  | none => 0

/-- SEQ_JOIN (R390): the entry is QUEUED, its arrival number its place in the order of grants; the command ends when the sequence is admitted. -/
def execSeqJoin (c : CmdRef) (s : State) : Host.Outcome State Fault Refusal :=
  .next <| beginCmd c 0x0210 (fun k p s => do
    let bs ← cmdBlock c p (addr154 (op k 32 8)) 32 0x15 0 [rbits 0 15 5, rbits 2 15 14, rbits 5 7 5, rb 6 2, rbits 12 31 21, rbits 16 31 26, rbits 20 31 27, rb 24 8]
      (fun bs => [(5, decide (le bs 5 1 % 32 > 16)), (12, le bs 12 4 % 2 ^ 21 == 0 || decide (le bs 12 4 % 2 ^ 21 > 1048576))]) s
    let i := le bs 2 2 % 2 ^ 14
    guardE (!s.inRange p 12 i) (accessErr (2 ^ 30 + 2))
    guardE ((s.seq i).st != .gone) (badRsv 1 2)
    let first := le bs 16 4
    guardE (decide (first + le bs 20 4 > s.mapPlanks p)) (accessErr 0xE1)
    let q : Seq := { lc := (le bs 0 1).testBit 4, prio := le bs 4 1, d := le bs 5 1 % 32, len := le bs 8 4, kvb := le bs 12 4 % 2 ^ 21,
                     first := first, max := le bs 20 4, st := .queued, arrival := s.grantOrder c, part := p, join := some c }
    .ok (s.setSeq i q)) s

/-- SEQ_LEAVE (R392): the sequence leaves at the next step boundary. -/
def execSeqLeave (c : CmdRef) (s : State) : Host.Outcome State Fault Refusal :=
  .next <| beginCmd c 0x0211 (fun k p s => do
    let i := op k 32 2 % 2 ^ 14
    guardE (!s.inRange p 12 i) (accessErr 32)
    guardE ((s.seq i).st == .gone || (s.seq i).leave.isSome) (badRsv 0 32)
    .ok (s.setSeq i { s.seq i with leave := some c })) s

/-- The progress record of partition p's step. -/
def State.step? (s : State) (p : Nat) : Option SeqStep := find? s.tier.steps p

/-- Changes the progress record of a partition's step. -/
def onStep (p : Nat) (f : SeqStep → SeqStep) (s : State) : State :=
  match s.step? p with
  | some x => s.onTier fun t => { t with steps := put t.steps p (f x) }
  | none => s

/-- Sets a sequence's state and appends its 8-byte record (R391). -/
def moveSeq (p i : Nat) (q : Seq) (st : SeqState) (held : Nat) (full : Bool) (s : State) : State :=
  let r := toBytes 8 (i + 2 ^ 16 * q.st.code + 2 ^ 20 * st.code + 2 ^ 24 * b2n full + 2 ^ 32 * held)
  onStep p (fun x => { x with out := x.out ++ r }) (s.setSeq i { q with st := st, held := held })

/-- Sequences of a partition, by index. -/
def State.seqsOf (s : State) (p : Nat) : List (Nat × Seq) := s.tier.seqs.filter fun e => e.2.part == p && e.2.st != .gone

/-- Free HBM planks of a partition (R392). -/
def State.freeHbm (s : State) (p : Nat) : Nat := s.hbmLimit p - s.hbmUsed p

/-- Phase 1: one leave. A QUEUED join that leaves ends CANCELLED (log 11). -/
def leaveOne (p : Nat) (s : State) (e : Nat × Seq) : State :=
  match e.2.leave with
  | none => s
  | some c =>
    let own := ((List.range e.2.max).map (e.2.first + ·)).filter fun i => (s.plank p i).tier != .none
    let s := own.foldl (freePlank p) s
    let s := moveSeq p e.1 e.2 .gone 0 false s
    let s := onStep p (fun x => { x with counts := (x.counts.1, x.counts.2.1, x.counts.2.2.1 + 1, x.counts.2.2.2) }) s
    let s := s.setSeq e.1 { s.seq e.1 with leave := none, join := none }
    let s := match e.2.join with
      | some j => endCmd j .cancelled 0 0 s
      | none => s
    endCmd c .ok own.length 0 s

/-- The first of a list by an order on keys: the least key. -/
def least {α : Type} (key : α → Nat × Nat × Nat) : List α → Option α
  | [] => none
  | x :: xs => match least key xs with
    | none => some x
    | some y => if (key x).1 < (key y).1 ∨ ((key x).1 = (key y).1 ∧ ((key x).2.1 < (key y).2.1 ∨
        ((key x).2.1 = (key y).2.1 ∧ (key x).2.2 ≤ (key y).2.2))) then some x else some y

/-- The victim of a suspension: BE before LC, then the largest priority value, then the latest arrival (R392). -/
def victim (run : List (Nat × Seq)) : Option (Nat × Seq) :=
  least (fun e => (b2n e.2.lc, 2 ^ 8 - e.2.prio, 2 ^ 64 - e.2.arrival)) run

/-- Demotes the planks a suspended sequence holds. -/
def demoteAll (c : CmdRef) (p : Nat) : List Nat → State → Except Err State
  | [], s => .ok s
  | i :: r, s =>
    if moveFits 0 { s.plank p i with pinned := false } then do
      let (s, _) ← demotePlank c p i s
      demoteAll c p r s
    else demoteAll c p r s

/-- Suspends a running sequence: its planks are demoted, and an LC one breaches the LC deadlines (R392, Table Part-6). -/
def suspend (c : CmdRef) (p : Nat) (e : Nat × Seq) (s : State) : Except Err State := do
  let planks := (List.range e.2.held).map (e.2.first + ·)
  let fresh := planks.filter fun i => (s.plank p i).tier == .hbm
  let s := onStep p (fun x => { x with held := x.held - fresh.length }) s
  flashQuota p fresh.length s
  let s ← demoteAll c p planks s
  let s := moveSeq p e.1 e.2 .suspended 0 false s
  let s := onStep p (fun x => { x with suspendedAny := true, counts := (x.counts.1, x.counts.2.1 + 1, x.counts.2.2.1, x.counts.2.2.2) }) s
  .ok (if e.2.lc then momentBreach p 5 2 3 none e.1 s else s)

/-- Flash planks that the suspensions of a boundary take: victims leave until the reserves fit (R392). SEQ_STEP checks them against the quota before it
changes anything, and holds them (R376). -/
def planSuspend (p : Nat) (s : State) : (fuel : Nat) → (run : List (Nat × Seq)) → (free : Nat) → Nat
  | 0, _, _ => 0
  | n + 1, run, free =>
    if (run.map fun e => e.2.reserve).sum > free then
      match victim run with
      | none => 0
      | some v =>
        let planks := (List.range v.2.held).map (v.2.first + ·)
        (planks.filter fun i => (s.plank p i).tier == .hbm).length +
          planSuspend p s n (run.erase v) (free + (planks.filter fun i => (s.plank p i).tier.served).length)
    else 0

/-- Phase 2: suspensions, until the reserves of the running sequences fit or a demotion must be awaited. -/
def suspendLoop (c : CmdRef) (p : Nat) : (fuel : Nat) → State → Except Err State
  | 0, s => .ok s
  | n + 1, s =>
    let run := (s.seqsOf p).filter fun e => e.2.st == .running
    if (run.map fun e => e.2.reserve).sum > s.freeHbm p ∧ !s.nvmeOpen c then
      match victim run with
      | none => .ok s
      | some v => do
        let s ← suspend c p v s
        suspendLoop c p n s
    else .ok s

/-- Allocates a running sequence's reserve (R392). -/
def reserveOne (p : Nat) (s : State) (e : Nat × Seq) : State :=
  let n := e.2.need
  let new := ((List.range (n.1 - e.2.held)).map (e.2.first + e.2.held + ·)).filter fun i => (s.plank p i).tier == .none
  match allocPlanks p false new s with
  | none => s
  | some s =>
    if n.1 > e.2.held then s.setSeq e.1 { e.2 with held := n.1 } else s

/-- The join that comes first: LC before BE, then priority, then arrival (R392). -/
def nextJoin (js : List (Nat × Seq)) : Option (Nat × Seq) := least (fun e => (1 - b2n e.2.lc, e.2.prio, e.2.arrival)) js

/-- Starts the reads of a sequence's flash planks. -/
def loadAll (c : CmdRef) (p : Nat) : List Nat → State → Except Err State
  | [], s => .ok s
  | i :: r, s => do
    let s ← startLoad c p i s
    loadAll c p r s

/-- Admits one sequence (R392): flash planks are promoted, the rest allocated, and its SEQ_JOIN ends OK with held as its result. -/
def admitSeq (c : CmdRef) (p : Nat) (e : Nat × Seq) (s : State) : Except Err State := do
  let n := e.2.need
  let planks := (List.range n.1).map (e.2.first + ·)
  let s ← loadAll c p (planks.filter fun i => moveFits 1 (s.plank p i)) s
  match allocPlanks p false (planks.filter fun i => (s.plank p i).tier == .none) s with
  | none => .error ⟨.noPlank, 0⟩
  | some s =>
    let s := moveSeq p e.1 e.2 .running n.1 n.2 s
    let s := s.setSeq e.1 { s.seq e.1 with join := none }
    let s := onStep p (fun x => { x with counts := (x.counts.1 + 1, x.counts.2) }) s
    .ok (match e.2.join with
      | some j => endCmd j .ok n.1 0 s
      | none => s)

/-- Phase 3: joins in order until one does not fit, in the quota or in the frames that are free. -/
def joinLoop (c : CmdRef) (p : Nat) : (fuel : Nat) → State → Except Err State
  | 0, s => .ok s
  | n + 1, s =>
    match nextJoin ((s.seqsOf p).filter fun e => e.2.st == .queued || e.2.st == .suspended) with
    | none => .ok s
    | some e =>
      if e.2.need.1 > s.freeHbm p then .ok s
      else match admitSeq c p e s with
        | .ok s => joinLoop c p n s
        | .error er => if er.st = .noPlank then .ok s else .error er

/-- A join left QUEUED with NO_WAIT completes NO_PLANK (R392). -/
def dropJoin (p : Nat) (s : State) (e : Nat × Seq) : State :=
  match e.2.st, e.2.join with
  | .queued, some j =>
    match s.inflight j with
    | some i =>
      if flagNoWait i.pkt then
        let s := moveSeq p e.1 e.2 .gone 0 false s
        let s := onStep p (fun x => { x with counts := (x.counts.1, x.counts.2.1, x.counts.2.2.1, x.counts.2.2.2 + 1) }) s
        endCmd j .noPlank 0 0 (s.setSeq e.1 { s.seq e.1 with join := none })
      else s
    | none => s
  | _, _ => s

/-- Writes the step's records and ends SEQ_STEP, once no move of its is outstanding (R392). -/
def finishStep (p : Nat) (s : State) : State :=
  match s.step? p with
  | none => s
  | some x =>
    if s.nvmeOpen x.cmd then onStep p ({ · with last := true }) s
    else
      let ad := addr347 x.recs
      let w := cmdWrite x.cmd p ad x.out s
      let s := w.1.onTier fun t => { t with steps := del t.steps p }
      match w.2.2 with
      | some e => failCmd x.cmd e s
      | none => endCmd x.cmd .ok (x.counts.1 + 2 ^ 16 * x.counts.2.1 + 2 ^ 32 * x.counts.2.2.1 + 2 ^ 48 * x.counts.2.2.2) 0 s

/-- Phases 2 and 3 of the boundary, from wherever a demotion left them. -/
def runStep (p : Nat) (s : State) : Except Err State :=
  match s.step? p with
  | none => .ok s
  | some x => do
    let s ← suspendLoop x.cmd p (s.tier.seqs.length + 1) s
    let run := (s.seqsOf p).filter fun e => e.2.st == .running
    if (run.map fun e => e.2.reserve).sum > s.freeHbm p then .ok s
    else
      let s := run.foldl (reserveOne p) s
      let any := match s.step? p with
        | some y => y.suspendedAny
        | none => false
      let s ← if any then .ok s else joinLoop x.cmd p (s.tier.seqs.length + 1) s
      let s := (s.seqsOf p).foldl (dropJoin p) s
      .ok (finishStep p s)

/-- The accepted tokens of one update are added to len (R391). -/
def updateLen (bs : List Byte) (p : Nat) : (left i : Nat) → State → Except Err State
  | 0, _, s => .ok s
  | n + 1, i, s => do
    let w := le bs (4 * i) 4
    guardE (nfld w 15 14 != 0) (badRsv 2 (4 * i + 1))
    guardE (!s.inRange p 12 (w % 2 ^ 14)) (accessErr (2 ^ 31 + 4 * i))
    let q := s.seq (w % 2 ^ 14)
    updateLen bs p n (i + 1) (if q.st = .gone then s else s.setSeq (w % 2 ^ 14) { q with len := q.len + nfld w 31 16 })

/-- SEQ_STEP (R391, R392): updates, leaves, reserves with suspensions, joins. -/
def execSeqStep (c : CmdRef) (s : State) : Host.Outcome State Fault Refusal :=
  .next <| beginCmd c 0x0212 (fun k p s => do
    let bs ← cmdBlock c p (addr154 (op k 32 8)) 24 0x16 0 [rbits 0 15 4, rb 2 2, rbits 8 2 1, rbits 16 2 1]
      (fun bs => [(4, decide (le bs 4 4 > 16384))]) s
    let n := le bs 4 4
    let ups ← cmdRead c p (addr347 (le bs 8 8)) (4 * n) s
    let s ← updateLen ups p n 0 s
    let s := s.onTier fun t => { t with steps := put t.steps p { cmd := c, recs := le bs 16 8 } }
    let s := (s.seqsOf p).foldl (leaveOne p) s
    let run := (s.seqsOf p).filter fun e => e.2.st == .running
    let f := planSuspend p s (s.tier.seqs.length + 1) run (s.freeHbm p)
    flashQuota p f s
    runStep p (onStep p ({ · with held := f }) s)) s

/-- A step resumes when the moves it awaits have ended. -/
def resumeStep (c : CmdRef) (s : State) : State :=
  if s.nvmeOpen c then s
  else match pick (fun (e : Nat × SeqStep) => e.2.cmd == c) s.tier.steps with
    | none => s
    | some (p, x) =>
      if x.last then finishStep p s
      else match runStep p s with
        | .ok s => s
        | .error e => failCmd c e (s.onTier fun t => { t with steps := del t.steps p })

end Sys2Proof.Machine
end

