-- ==== Sys2Proof/Machine/LedgerCmd.lean ====
section
/-! DEFINITION. The Ledger: checkpoint slots, commit records, commit and restore (R393 to R396), and the NVMe events (R384). -/

namespace Sys2Proof.Machine

/-- A partition's Ledger. -/
def State.ledger (s : State) (p : Nat) : Ledger := getD s.tier.ledgers p {}
/-- Changes a partition's Ledger. -/
def State.onLedger (s : State) (p : Nat) (f : Ledger → Ledger) : State := s.onTier fun t => { t with ledgers := upd t.ledgers p {} f }

/-- Base LBA of a slot. -/
def Ledger.slotBase (l : Ledger) (slot : Nat) : Nat := if slot = 0 then l.base.1 else l.base.2

/-- The SSD and first LBA of slot position k (R393): the (k mod m)-th SSD of the mask, at base + 16⌊k/m⌋. -/
def Ledger.place (l : Ledger) (slot k : Nat) : Nat × Nat :=
  let ms := maskSsds l.mask
  (ms[k % max 1 ms.length]?.getD 0, l.slotBase slot + 16 * (k / max 1 ms.length))

/-- The seal of plank i in a slot (R382). -/
def Ledger.slotSeal (l : Ledger) (slot i : Nat) : Seal := ⟨.ledger l.id l.tag, i, 1 + slot⟩
/-- The seal of the record copies. -/
def Ledger.recSeal (l : Ledger) : Seal := ⟨.ledger l.id l.tag, 0, 3⟩

/-- The bytes of a slot's table: it takes the positions after the data (log 12). -/
def State.slotTable (s : State) (l : Ledger) (slot n : Nat) : List Byte :=
  ((List.range (tablePlanks l.cap)).flatMap fun j =>
    let at_ := l.place slot (l.cap + j)
    s.flashGet (l.slotSeal slot (l.cap + j)) at_.1 at_.2 16).take n

/-- Writes a slot's table, in whole planks. -/
def writeTable (l : Ledger) (slot : Nat) (bs : List Byte) (s : State) : State :=
  (List.range (tablePlanks l.cap)).foldl (fun s j =>
    let at_ := l.place slot (l.cap + j)
    let b := (bs.drop (65536 * j)).take 65536
    flashPut (l.slotSeal slot (l.cap + j)) at_.1 at_.2 (b ++ List.replicate (65536 - b.length) 0) s) s

/-- The commit record of Table Tier-9, in a 4 KiB LBA. -/
def commitRecord (l : Ledger) (slot seq planks tcrc : Nat) (hall : W64) (epoch : W16) : List Byte :=
  let b := toBytes 124 (layout [(0, 1, 1 + 16 * slot), (1, 1, l.mask), (8, 8, seq), (16, 8, l.id.toNat), (24, 8, hall.toNat),
    (32, 8, l.base.1), (40, 8, l.base.2), (48, 4, l.cap), (52, 4, planks), (56, 8, tcrc), (64, 2, epoch.toNat)])
  b ++ toBytes 4 (crc32c b) ++ List.replicate 3968 0

/-- The Ledger that a record describes. -/
def ledgerOf (l : Ledger) (bs : List Byte) : Ledger :=
  { l with slot := b2n ((le bs 0 1).testBit 4), mask := le bs 1 1, sequence := le bs 8 8,
           base := (le bs 32 8 % 2 ^ 48, le bs 40 8 % 2 ^ 48), cap := le bs 48 4 }

/-- A record copy. -/
def State.recordCopy (s : State) (l : Ledger) (r : Nat × Nat) : List Byte := s.lbaGet l.recSeal r.1 r.2

/-- A record copy is valid: its CRC, gen, Ledger id and slot-table digest hold (R395). One made under another storage tag decrypts to a record that fails them (R472). -/
def State.recordValid (s : State) (l : Ledger) (r : Nat × Nat) : Bool :=
  let bs := s.recordCopy l r
  let m := ledgerOf l bs
  find? s.tier.seals (lbaKey r.1 r.2) == some l.recSeal &&
  le bs 0 1 % 16 == 1 && le bs 124 4 == crc32c (bs.take 124) && le bs 16 8 == l.id.toNat &&
  crc64 (s.slotTable m m.slot (16 * m.cap)) == le bs 56 8

/-- Selects a record copy (R395): the valid copy of the highest sequence. -/
def State.selectRecord (s : State) (l : Ledger) : Except Err (List Byte) :=
  let a := s.recordCopy l l.rec0
  let b := s.recordCopy l l.rec1
  match s.recordValid l l.rec0, s.recordValid l l.rec1 with
  | true, true =>
    if le a 8 8 = le b 8 8 then if a = b then .ok a else .error ⟨.diverged, 0⟩
    else if le a 8 8 > le b 8 8 then .ok a else .ok b
  | true, false => .ok a
  | false, true => .ok b
  | false, false => .error (integrity 7 5 l.rec0.1)

/-- The plank of each slot position, from a slot's table; a position not used names no plank. -/
def State.positions (s : State) (l : Ledger) : List Nat :=
  let t := s.slotTable l l.slot (16 * l.cap)
  ((List.range l.cap).map fun k => if (le t (16 * k) 4).testBit 27 then le t (16 * k) 4 % 2 ^ 26 else 2 ^ 26).reverse.dropWhile (· == 2 ^ 26) |>.reverse

/-- An SSD that is not ready among those of a mask and two record copies. -/
def State.deadSsd (s : State) (l : Ledger) : Option Nat :=
  pick (fun i => (getD s.tier.ssds i {}).st != .ready) (maskSsds l.mask ++ [l.rec0.1, l.rec1.1])

/-- A base LBA free for `span` LBAs on every SSD of a mask (log 4). -/
def State.freeBase (s : State) (mask span : Nat) : Option Nat :=
  let cap := (maskSsds mask).foldl (fun m i => min m (getD s.tier.ssds i {}).capacity.toNat) (2 ^ 32)
  (scan (fun b => decide (16 * b + span ≤ 16 * cap) && (maskSsds mask).all fun d =>
    (List.range (span / 16)).all fun j => !s.lbaTaken d (16 * (b + j))) cap (Config.allocHint s.draws) cap).map (16 * ·)

/-- Present SSDs. -/
def State.present (s : State) : Nat := ((List.range 8).filter fun i => (getD s.tier.ssds i {}).st == .ready).length

/-- LEDGER_OPEN (R393; refused at debug level 1, R481): the block is checked and the NVMe work starts; it ends with its completion. One operation stands for all
(log 13). A mask without SSDs is refused as BAD_RSV at byte 2 (log 135). -/
def execLedgerOpen (c : CmdRef) (s : State) : Host.Outcome State Fault Refusal :=
  .next <| beginCmd c 0x0800 (fun k p s => do
    guardE (s.sec.debugLevel != 0) (accessErr 0xF9)
    let bs ← cmdBlock c p (addr154 (op k 32 8)) 64 0x17 0
      [rbits 0 15 5, rb 3 5, rbits 20 7 3, rbits 20 15 11, rb 22 2, rb 40 24]
      (fun bs => [(2, le bs 2 1 == 0), (20, decide (s.present ≥ 2) && le bs 20 1 % 8 == le bs 21 1 % 8)]) s
    let create := (le bs 0 1).testBit 4
    let l : Ledger := { id := BitVec.ofNat 64 (le bs 8 8), mask := le bs 2 1, cap := le bs 16 4,
                        rec0 := (le bs 20 1 % 8, le bs 24 8), rec1 := (le bs 21 1 % 8, le bs 32 8), tag := s.reg (0x15000100 + 8 * p) }
    match s.deadSsd l with
    | some i => .error (integrity 7 8 i)
    | none =>
      if create then do
        let n := 2 * (l.cap + tablePlanks l.cap) + 2
        flashQuota p (n - (s.ledger p).charged) s
        let span := slotSpan l.mask l.cap
        match s.freeBase l.mask (2 * span) with
        | none => .error ⟨.quota, 2⟩
        | some b =>
          let l := { l with base := (b, b + span), charged := n }
          .ok (nvmeStart l.rec0.1 l.rec0.2 1 (.ledger p 0) c ({ s with draws := s.draws + 1 }.onLedger p fun _ => l))
      else .ok (nvmeStart l.rec0.1 l.rec0.2 0 (.ledger p 1) c (s.onLedger p fun o => { l with charged := o.charged }))) s

/-- A new Ledger: both slots empty, and record sequence 0 in both copies (R393). -/
def ledgerCreated (p : Nat) (c : CmdRef) (s : State) : State :=
  let l := s.ledger p
  let t := List.replicate (16 * l.cap) (0 : Byte)
  let s := writeTable l 1 t (writeTable l 0 t s)
  let r := commitRecord l 0 0 0 (crc64 t) s.hall s.flt.epoch
  let s := flashPut l.recSeal l.rec1.1 l.rec1.2 r (flashPut l.recSeal l.rec0.1 l.rec0.2 r s)
  endCmd c .ok 0 0 (s.onLedger p ({ · with isOpen := true, slot := 0, sequence := 0, pos := [] }))

/-- Stops granting to a partition whose epoch-stamped copies diverged, until a partition reset (R459). -/
def stopPartition (p : Nat) (s : State) : State :=
  s.onCmd fun m => { m with stopped := if m.stopped.contains p then m.stopped else m.stopped ++ [p] }

/-- The records of a Ledger are read and one is selected (R393, R395). -/
def ledgerRead (p : Nat) (c : CmdRef) (s : State) : State :=
  match s.selectRecord (s.ledger p) with
  | .error e => failCmd c e (if e.st = .diverged then stopPartition p s else s)
  | .ok r =>
    let l := ledgerOf (s.ledger p) r
    let l := { l with isOpen := true, pos := s.positions l, charged := 2 * (l.cap + tablePlanks l.cap) + 2 }
    endCmd c .ok l.sequence 0 (s.onLedger p fun _ => l)

/-- The ckpt planks of a partition in ascending index. -/
def State.ckptPlanks (s : State) (p : Nat) : List (Nat × Plank) :=
  (s.tier.planks.filter fun e => e.1 / 2 ^ 26 == p && e.2.ckpt).map fun e => (e.1 % 2 ^ 26, e.2)

/-- The current bytes of plank i of partition p: its frame, or its flash copy. -/
def State.plankData (s : State) (p i : Nat) (e : Plank) : List Byte :=
  if e.tier.served then memRead s.hbm (e.frame * 65536) 65536 else s.flashGet (s.tierSeal p i) e.ssd e.lba 16

/-- CKPT_COMMIT's first phase on one plank (R394): a plank whose copy in the slot differs is copied to its position. -/
def commitPlank (p slot : Nat) (s : State) (e : Nat × Plank) : State :=
  let l := s.ledger p
  let at_ := l.place slot (indexOf e.1 l.pos)
  if e.2.cdirty.toNat.testBit slot then
    flashPut (l.slotSeal slot e.1) at_.1 at_.2 (s.plankData p e.1 e.2) (s.updPlank p e.1 fun x => { x with cdirty := x.cdirty &&& ~~~ (BitVec.ofNat 2 (2 ^ slot)) })
  else s

/-- The planks of a commit in ascending index, until one is torn without ACCEPT_TORN (R394): that one is answered. -/
def commitLoop (accept : Bool) (p slot : Nat) : List (Nat × Plank) → State → State × Option Nat
  | [], s => (s, none)
  | e :: r, s => if s.plankTorn e.2 && !accept then (s, some e.1) else commitLoop accept p slot r (commitPlank p slot s e)

/-- A slot's table (R393): an entry for each position whose plank belongs to the checkpoint, with the digest of its copy. -/
def State.tableOf (s : State) (p slot : Nat) (ps : List (Nat × Plank)) : List Byte :=
  let l := s.ledger p
  (List.range l.cap).flatMap fun k => match pick (fun (e : Nat × Plank) => l.pos[k]? == some e.1) ps with
    | some e =>
      let at_ := l.place slot k
      toBytes 16 (Sys2Proof.Machine.layout [(0, 4, e.1 + 2 ^ 26 * b2n (s.plankTorn e.2) + 2 ^ 27), (8, 8, crc64 (s.flashGet (l.slotSeal slot e.1) at_.1 at_.2 16))])
    | none => List.replicate 16 0

/-- CKPT_COMMIT (R394): the planks and the table are written, then the records one after the other, each with a Flush. A torn plank without ACCEPT_TORN ends it TORN
where it comes; the planks before it have been copied. -/
def execCkptCommit (c : CmdRef) (s : State) : Host.Outcome State Fault Refusal :=
  .next <| beginCmd c 0x0801 (fun k p s => do
    guardE (s.sec.debugLevel != 0) (accessErr 0xF9)
    let l := s.ledger p
    guardE (!l.isOpen) (integrity 7 5 l.rec0.1)
    match s.deadSsd l with
    | some i => .error (integrity 7 8 i)
    | none =>
      let ps := s.ckptPlanks p
      let pos := ps.foldl (fun (pos : List Nat) e => if pos.contains e.1 then pos else pos ++ [e.1]) l.pos
      guardE (decide (pos.length > l.cap)) ⟨.quota, 2⟩
      let slot := 1 - l.slot
      let r := commitLoop (flagTorn k) p slot ps (s.onLedger p ({ · with pos := pos }))
      match r.2 with
      | some i => .ok (failCmd c ⟨.torn, 2 ^ 31 + i⟩ r.1)
      | none =>
        let s := noteTorn c (ps.any fun e => s.plankTorn e.2) (r.1.onLedger p ({ · with committing := true }))
        let at_ := (s.ledger p).place slot 0
        .ok (nvmeStart at_.1 at_.2 2 (.ledger p 2) c (writeTable (s.ledger p) slot (s.tableOf p slot ps) s))) s

/-- The record that a commit in progress writes. -/
def State.nextRecord (s : State) (p : Nat) : List Byte :=
  let l := s.ledger p
  let slot := 1 - l.slot
  commitRecord l slot (l.sequence + 1) (s.ckptPlanks p).length (crc64 (s.slotTable l slot (16 * l.cap))) s.hall s.flt.epoch

/-- A phase of a commit completes (R394): after the slot the record is made and goes to copy 0, then to copy 1, and then it is current. A copy holds the record
once its write has completed (Table Tier-10). -/
def commitPhase (p phase : Nat) (c : CmdRef) (s : State) : State :=
  let l := s.ledger p
  if phase = 2 then nvmeStart l.rec0.1 l.rec0.2 1 (.ledger p 3) c (s.onLedger p ({ · with record := s.nextRecord p }))
  else if phase = 3 then nvmeStart l.rec1.1 l.rec1.2 1 (.ledger p 4) c (flashPut l.recSeal l.rec0.1 l.rec0.2 l.record s)
  else
    endCmd c .ok (l.sequence + 1) 0 ((flashPut l.recSeal l.rec1.1 l.rec1.2 l.record s).onLedger p
      ({ · with committing := false, slot := 1 - l.slot, sequence := l.sequence + 1, record := [] }))

/-- Takes a frame for each plank that has none, before a restore (R376, R396). -/
def reserveFrames (p : Nat) : List Nat → State → Option State
  | [], s => some s
  | i :: r, s =>
    if (s.plank p i).tier.served || (s.plank p i).loading then reserveFrames p r s
    else match takeFrame p i (fun fr e => { e with frame := fr, loading := true }) s with
      | some s => reserveFrames p r s
      | none => none

/-- CKPT_RESTORE (R396): frames are taken for the selected slot's planks, within the quota, and they are read back. -/
def execCkptRestore (c : CmdRef) (s : State) : Host.Outcome State Fault Refusal :=
  .next <| beginFrames c 0x0802 (fun _ p s => do
    guardE (s.sec.debugLevel != 0) (accessErr 0xF9)
    let l := s.ledger p
    guardE (!l.isOpen) (integrity 7 5 l.rec0.1)
    match s.deadSsd l with
    | some i => .error (integrity 7 8 i)
    | none =>
      let r ← s.selectRecord l
      let m := ledgerOf l r
      let ps := (s.positions m).filter (· != 2 ^ 26)
      hbmQuota p (ps.filter fun i => !((s.plank p i).tier.served || (s.plank p i).loading)).length s
      match reserveFrames p ps s with
      | none => .error ⟨.noPlank, 0⟩
      | some s => .ok (nvmeStart (m.place m.slot 0).1 (m.place m.slot 0).2 0 (.ledger p 5) c (s.onLedger p fun _ => m))) s

/-- Frames taken for reads that no longer run are free again. -/
def dropLoading (p : Nat) (s : State) : State :=
  let reads (k : Nat) : Bool := s.tier.nvme.any fun e => e.2.for_ == .load k
  s.onTier fun t => { t with planks := t.planks.map fun e =>
    if e.1 / 2 ^ 26 = p ∧ e.2.loading ∧ !reads e.1 then (e.1, { e.2 with loading := false, frame := 0 }) else e }

/-- Restores one slot position: its plank takes the bytes, ckpt, and its slot-table torn bit (R396). Its frame was taken before; a plank freed since takes a frame
now, within the quota. -/
def restoreOne (p : Nat) (t : List Byte) (s : State) (k : Nat) : Except Err State :=
  let l := s.ledger p
  let w := le t (16 * k) 4
  if !w.testBit 27 then .ok s
  else
    let i := w % 2 ^ 26
    let at_ := l.place l.slot k
    let bs := s.flashGet (l.slotSeal l.slot i) at_.1 at_.2 16
    if crc64 bs ≠ le t (16 * k + 8) 8 then .error (integrity 7 4 at_.1)
    else
      let e := s.plank p i
      let have_ := if e.tier.served || e.loading then some s
        else if s.hbmUsed p + 1 > s.hbmLimit p then none
        else takeFrame p i (fun fr x => { x with frame := fr }) s
      match have_ with
      | none => .error ⟨.quota, 1⟩
      | some s =>
        .ok ((fillFrame (s.plank p i).frame bs s).updPlank p i fun x =>
          { x with tier := if e.tier.onFlash then .both else .hbm, dirty := e.tier.onFlash, move := none, loading := false,
                   digestValid := false, ckpt := true, cdirty := BitVec.ofNat 2 (2 ^ (1 - l.slot)), torn := w.testBit 26 })

/-- Restores positions in order. -/
def restoreAll (p : Nat) (t : List Byte) : List Nat → State → Except Err State
  | [], s => .ok s
  | k :: r, s => do
    let s ← restoreOne p t s k
    restoreAll p t r s

/-- CKPT_RESTORE's reads complete (R396). -/
def restoreDone (p : Nat) (c : CmdRef) (s : State) : State :=
  let l := s.ledger p
  match restoreAll p (s.slotTable l l.slot (16 * l.cap)) (List.range l.cap) s with
  | .ok s => endCmd c .ok l.sequence 0 (s.onLedger p ({ · with pos := s.positions l }))
  | .error e => failCmd c e (dropLoading p s)

/-- CKPT_SET (R393): the ckpt bit of a range; the result counts the planks whose bit changed. -/
def execCkptSet (c : CmdRef) (s : State) : Host.Outcome State Fault Refusal :=
  .next (wholeCmd c 0x0803 (fun k p s => do
    let r ← rangeOf k p s
    let v := bit k (8 * 40)
    let ch := r.filter fun i => (s.plank p i).ckpt != v
    .ok { s := ch.foldl (fun s i => s.updPlank p i fun e => { e with ckpt := v, cdirty := if v then 3 else e.cdirty }) s, result := ch.length }) s)

/-! ### NVMe events -/

/-- A record write is cut short (Table Tier-10): the copy is as before, or invalid. -/
def cutRecord (f : NvmeFor) (s : State) : State :=
  match f with
  | .ledger p n =>
    if n = 3 ∨ n = 4 then
      let l := s.ledger p
      let r := if n = 3 then l.rec0 else l.rec1
      let d := s.draw
      if Config.freeBit d.1 then d.2.onTier fun t => { t with seals := del t.seals (lbaKey r.1 r.2) } else d.2
    else s
  | _ => s

/-- Ledger work stops: a commit ends without its record, a restore gives its frames back. -/
def stopLedger (f : NvmeFor) (s : State) : State :=
  match f with
  | .ledger p _ => (dropLoading p (cutRecord f s)).onLedger p ({ · with committing := false, record := [] })
  | _ => s

/-- An NVMe operation ends well. -/
def nvmeOk (o : NvmeOp) (s : State) : State :=
  match o.for_ with
  | .save k => resumeStep o.cmd (settleMove o.cmd (flashWriteDone k o.cmd s))
  | .load k => resumeStep o.cmd (settleMove o.cmd (flashReadDone k o.cmd s))
  | .ledger p 0 => ledgerCreated p o.cmd s
  | .ledger p 1 => ledgerRead p o.cmd s
  | .ledger p 5 => restoreDone p o.cmd s
  | .ledger p n => commitPhase p n o.cmd s

/-- An NVMe operation fails: the plank keeps its former tier and the command completes INTEGRITY naming the SSD (R379, R559). -/
def nvmeFailed (o : NvmeOp) (s : State) : State :=
  let s := s.onTier fun t => { t with ssds := upd t.ssds o.ssd {} fun d => { d with errors := satAdd d.errors 1 } }
  let s := match o.for_ with
    | .save k => s.updKey k Plank.unsaved
    | .load k => s.updKey k ({ · with loading := false, frame := 0 })
    | .ledger _ _ => stopLedger o.for_ s
  let s := s.onTier fun t => { t with steps := t.steps.filter fun e => e.2.cmd != o.cmd }
  match s.running o.cmd with
  | some i => endCmd o.cmd .integrity i.acc (intDetail 7 8 o.ssd) s
  | none => s

/-- SSD_COMPLETION (R379, R384): an outstanding NVMe operation ends. -/
def execSsdCompletion (tag : Nat) (ok : Bool) (s : State) : Host.Outcome State Fault Refusal :=
  .next <|
    match find? s.tier.nvme tag with
    | none => s
    | some o =>
      if !o.sent then s
      else
        let s := settleNvme (s.onTier fun t => { t with nvme := del t.nvme tag })
        if ok then nvmeOk o s else nvmeFailed o s

/-- PLANK_FLASH_WRITE_DONE (R379): the flash write of a plank has completed. -/
def execPlankFlashWriteDone (p : Part) (plank : BitVec 26) (s : State) : Host.Outcome State Fault Refusal :=
  .next <|
    match pick (fun (e : Nat × NvmeOp) => e.2.sent && e.2.for_ == .save (plankKey p plank.toNat)) s.tier.nvme with
    | none => s
    | some (tag, o) => nvmeOk o (settleNvme (s.onTier fun t => { t with nvme := del t.nvme tag }))

/-- SSD_REMOVAL (R384): the SSD is REMOVED and its outstanding operations fail. -/
def execSsdRemoval (ssd : Fin 8) (s : State) : Host.Outcome State Fault Refusal :=
  .next <|
    let gone := s.tier.nvme.filter fun e => e.2.ssd == ssd.val
    let s := s.onTier fun t => { t with ssds := upd t.ssds ssd {} ({ · with st := .removed }), nvme := t.nvme.filter fun e => e.2.ssd != ssd.val }
    gone.foldl (fun s e => nvmeFailed e.2 s) s

end Sys2Proof.Machine
end

