-- ==== Sys2Proof/Machine/PurlinCmd.lean ====
section
/-! DEFINITION. The Purlin's commands and the messages that reach it (R228 to R233, R242, R245, R249 to R252). -/

namespace Sys2Proof.Machine

/-! ### Groups (R228 to R230) -/

/-- Reserved fields of a group record header. -/
def groupRsv : List Rsv := [rbits 0 15 4, rbits 4 7 2, rb 6 2, rbits 12 31 17, rbits 16 5 1, rb 24 40]

/-- Values of a group record outside their ranges. -/
def groupVals (bs : List Byte) : List (Nat × Bool) := [(2, le bs 2 3 % 2 ^ 18 == 0 || decide (le bs 2 3 % 2 ^ 18 > 131072))]

/-- KiB of the group store that n members take (R229). -/
def groupKib (n : Nat) : Nat := ceilDiv (64 + 4 * n) 1024

/-- The first repeated device of a list, from index i on. -/
def firstRepeat : Nat → List Nat → List Nat → Option Nat
  | _, _, [] => none
  | i, seen, d :: r => if seen.contains d then some i else firstRepeat (i + 1) (d :: seen) r

/-- The fault of a member list, if it has one: a reserved bit, another device at my_rank, or a device twice (R229, log 57). -/
def memberFault (self rank : Nat) (ws : List Nat) : Option Nat :=
  match ws.findIdx? (fun w => decide (w ≥ 2 ^ 20)) with
  | some i => some (4 * i + 2)
  | none =>
    if ws.getD rank 0 ≠ self then some (4 * rank)
    else (firstRepeat 0 [] ws).map (4 * ·)

/-- The member words of a group record. -/
def memberWords (ms : List Byte) (n : Nat) : List Nat := (List.range n).map fun i => le ms (4 * i) 4

/-- KiB of the group store that a partition's groups take, but for one. -/
def State.groupKibUsed (s : State) (p gi : Nat) : Nat := ((s.prl.groups.filter fun e => e.2.part == p && e.1 != gi).map fun e => groupKib e.2.members.length).sum

/-- PRL_GROUP_LOAD (R228 to R230). -/
def execPrlGroupLoad (c : CmdRef) (s : State) : Host.Outcome State Fault Refusal :=
  .next (wholeCmd c 0x0500 (fun k p s => do
    let gi := op k 32 2 % 2 ^ 10
    guardE (!s.inRange p 8 gi) (accessErr 32)
    let bs ← cmdBlock c p (addr154 (op k 40 8)) 64 0x12 0 groupRsv groupVals s
    let n := le bs 2 3 % 2 ^ 18
    let rank := le bs 12 4 % 2 ^ 17
    guardE (decide (rank ≥ n)) (badRsv 1 12)
    let ms ← cmdRead c p (addr154 (le bs 16 8)) (4 * n) s
    let ws := memberWords ms n
    match memberFault s.selfId rank ws with
    | some o => .error (badRsv 2 o)
    | none =>
      guardE (decide (s.groupKibUsed p gi + groupKib n > s.rangeCount p 9)) ⟨.quota, 0xD3⟩
      let g : PrlGroup := ⟨p, ws, BitVec.ofNat 32 (le bs 8 4), rank, BitVec.ofNat 8 (le bs 5 1), regularGroup ws⟩
      .ok { s := noteReads c p [(addr154 (le bs 16 8), 4 * n)] (s.onPrl fun r => { r with groups := put r.groups gi g }) }) s)

/-- PRL_GROUP_DROP (R229). -/
def execPrlGroupDrop (c : CmdRef) (s : State) : Host.Outcome State Fault Refusal :=
  .next (wholeCmd c 0x0501 (fun k p s => do
    let gi := op k 32 2 % 2 ^ 10
    guardE (!s.inRange p 8 gi) (accessErr 32)
    .ok { s := s.onPrl fun r => { r with groups := del r.groups gi } }) s)

/-! ### The parameter block (R231, R232) -/

/-- Reserved fields of a collective block for an opcode (Table Purlin-2). -/
def collRsv (o : Nat) (chunkEn : Bool) : List Rsv :=
  let red := o == 0x0512 || o == 0x0513
  let a2a := o == 0x0510 || o == 0x0511
  let addr (off : Nat) (used : Bool) : Rsv := if used then rbits off 5 1 else rb off 8
  [rbits 2 15 10, rbits 6 7 5, rb 7 1, rbits 8 63 40, if o = 0x0515 then rbits 16 31 17 else rb 16 4, rbits 22 15 10, rbits 24 14 14, rb 26 2, rb 96 32,
   addr 40 true, addr 48 red, addr 56 true, addr 64 red, addr 72 (o == 0x0511), addr 80 (o == 0x0511), addr 88 (a2a && chunkEn)]

/-- Values outside their ranges (Table Purlin-2). -/
def collVals (o : Nat) (bs : List Byte) : List (Nat × Bool) :=
  let red := o == 0x0512 || o == 0x0513
  let rop := le bs 0 1 / 64
  [(0, le bs 0 1 / 16 % 4 == 3), (0, decide (rop > if red then 1 else 0)), (1, decide (le bs 1 1 / 4 % 8 > 4)), (1, decide (le bs 1 1 / 32 > 4)),
   (6, decide (le bs 6 1 % 32 < 16) || decide (le bs 6 1 % 32 > 24))]

/-- A range of memory: its space, first byte and length. -/
abbrev MemRange := Bool × Nat × Nat

/-- A memory range at an address. -/
def rangeAt (a : Addr) (off n : Nat) : MemRange := (a.tiered, a.a + off, n)

/-- Two memory ranges share a byte. -/
def meets (a b : MemRange) : Bool := a.1 == b.1 && decide (a.2.1 < b.2.1 + b.2.2) && decide (b.2.1 < a.2.1 + a.2.2)

/-- The source ranges of a collective. -/
def Coll.sources (x : Coll) : List MemRange :=
  let a := x.addr 40
  if x.reduces then [rangeAt a 0 (x.units * blockBytesOf x.inBits), rangeAt (x.addr 48) 0 (x.units * scaleBytesOf x.inBits)]
  else if x.isV then x.tables.1.map fun t => rangeAt a t.1 t.2
  else if x.isA2a then [rangeAt a 0 (x.n * x.count)]
  else if x.isBcast && x.me != x.root then []
  else [rangeAt a 0 x.count]

/-- The destination ranges, each with whether a source may equal it exactly (R232). -/
def Coll.dests (x : Coll) : List (MemRange × Bool) :=
  let a := x.addr 56
  if x.reduces then [(rangeAt a 0 (x.destUnits * blockBytesOf x.outBits), !x.scatters), (rangeAt (x.addr 64) 0 (x.destUnits * scaleBytesOf x.outBits), !x.scatters)]
  else if x.isV then x.tables.2.map fun t => (rangeAt a t.1 t.2, false)
  else if x.isA2a then [(rangeAt a 0 (x.n * x.count), false)]
  else if x.isBcast then [(rangeAt a 0 x.count, false)]
  else (List.range x.n).map fun i => (rangeAt a (i * x.count) x.count, i == x.me)

/-- A destination overlaps a source (R232). -/
def Coll.overlaps (x : Coll) : Bool := x.sources.any fun a => x.dests.any fun d => meets a d.1 && !(d.2 && a == d.1)

/-- The rejections of R232, each with the byte of the field at fault. -/
def collRejects (s : State) (x : Coll) : List (Nat × Bool) :=
  let mode := x.f 0 1 / 16 % 4
  [(1, x.reduces == (x.f 1 1 / 4 % 8 == 0)), (1, x.reduces == (x.f 1 1 / 32 == 0)), (2, x.reduces && decide (x.n > 65535)),
   (8, !x.reduces && x.count % 64 != 0), (8, x.scatters && x.count % (32 * x.n) != 0), (8, x.isV && x.count != 0),
   (16, x.isBcast && decide (x.root ≥ x.n)), (0, mode == 2 && (x.g.swCtx == 0xFF || !x.g.regular)),
   (56, x.overlaps), (4, s.prl.colls.any fun y => y.gi == x.gi && y.seq == x.seq)]

/-- A table of PRL_ALLTOALLV: offset and length or capacity of each entry (R249). -/
def readTable (c : CmdRef) (p n : Nat) (a : Addr) (send : Bool) (s : State) : Except Err (List (Nat × Nat)) := do
  let bs ← cmdRead c p a (16 * n) s
  match lowest ((List.range n).flatMap fun i =>
      [(16 * i + 8, le bs (16 * i + 8) 4 % 64 != 0), (16 * i + 12, send && le bs (16 * i + 12) 4 != 0)]) with
  | some o => .error (badRsv 2 o)
  | none => .ok ((List.range n).map fun i => (le bs (16 * i) 8, le bs (16 * i + 8) 4))

/-! ### Switch-assisted mode (R240, R244) -/

/-- The reduction memory that a plane's neighbour card advertises: contexts, chunk slots and KiB (PRL_SW_PLANE, Table Link-12). -/
def State.swPlane (s : State) (p : Nat) : Option (Nat × Nat × Nat) :=
  match s.planePort p with
  | none => none
  | some f => match (s.port f).card with
    | none => none
    | some c =>
      let kib := le c 28 3
      if kib = 0 ∨ le c 33 1 = 0 then none else some (le c 32 1, le c 33 1, kib)

/-- Blocks of a switch chunk and slots: the smallest values over the 8 planes, when every plane advertises reduction memory (R244). -/
def State.swSize (s : State) : Option (Nat × Nat) :=
  let ps := (List.range 8).map s.swPlane
  if ps.any Option.isNone then none
  else
    let vs := ps.filterMap id
    let least (xs : List Nat) : Nat := xs.foldl min (xs.headD 0)
    let blocks := least (vs.map fun v => v.2.2 * 1024 / (8 * v.2.1) / 32)
    if blocks = 0 then none else some (blocks, least (vs.map (·.2.1)))

/-- A reduction uses SW stages: mode SWITCH, or AUTO on a group with a context; every plane advertises memory, and the cube has another member
(R240, log 55). -/
def swMode (s : State) (x : Coll) : Option (Nat × Nat) :=
  let mode := x.f 0 1 / 16 % 4
  if x.reduces && x.g.regular && x.g.swCtx != 0xFF && mode != 1 && decide ((x.g.cubeSet x.me).length > 1) then s.swSize else none

/-! ### Beginning a collective -/

/-- The fields that members must agree on, by their bytes (R233). -/
def agreedFields : List (Nat × Nat × Nat × Nat) :=
  [(0, 0, 1, 255), (1, 1, 1, 255), (2, 2, 2, 65535), (4, 4, 2, 65535), (8, 8, 8, 2 ^ 64 - 1), (16, 16, 4, 2 ^ 32 - 1), (22, 22, 2, 65535), (28, 28, 4, 2 ^ 32 - 1),
   (32, 32, 8, 2 ^ 64 - 1)]

/-- The first field in which two blocks differ (R233). -/
def differs (a b : List Byte) : Option Nat :=
  (pick (fun (f : Nat × Nat × Nat × Nat) => le a f.2.1 f.2.2.1 != le b f.2.1 f.2.2.1) agreedFields).map (·.1)

/-- Counts a message discarded under R251, or a repeat (R311). -/
def staleMsg (s : State) : State := s.onPrl fun p => { p with staleMsgs := satAdd p.staleMsgs 1 }

/-- A POST reaches a collective: its block is compared, and the credit is held (R233, R242); a repeat is discarded (R311). One for a switch chunk says that its members
resend the chunk directly (R246, log 55). -/
def takePost (c : CmdRef) (st off src granted : Nat) (blk : List Byte) (s : State) : State :=
  match s.coll c with
  | none => s
  | some x =>
    match x.g.rankOf src with
    | none => s
    | some r => match differs x.blk blk with
      | some o => failColl c ⟨.badRsv, 2 ^ 15 + o⟩ s
      | none =>
        let part := x.partAt st off
        if x.holds st part r then staleMsg s
        else
          let s := updColl c (fun x => { x with posts := x.posts ++ [(st, part, r, granted)] }) s
          if st = stBrs ∨ st = stCrs then resendChunk c part s else s

/-- The POSTs that came before the collective (R242). -/
def takeEarly (c : CmdRef) (s : State) : State :=
  match s.coll c with
  | none => s
  | some x =>
    let mine (e : EarlyPost) : Bool := e.tag == x.g.tag && e.seq == x.seq
    (s.prl.early.filter mine).foldl (fun s e => takePost c e.stage e.off e.src e.granted e.blk s)
      (s.onPrl fun p => { p with early := p.early.filter fun e => !mine e })

/-- This member's own data reach its own destination by a local copy (R234). -/
def copyOwn (c : CmdRef) (s : State) : State :=
  match s.coll c with
  | none => s
  | some x =>
    let sa := x.addr 40
    let da := x.addr 56
    let copy (so do_ n : Nat) (s : State) : State :=
      match cmdRead c x.part ⟨sa.tiered, sa.a + so⟩ n s with
      | .error e => failColl c e s
      | .ok bs => putDest c ⟨da.tiered, da.a + do_⟩ bs (noteReads c x.part [(⟨sa.tiered, sa.a + so⟩, n)] s)
    if x.reduces then s
    else if x.isV then
      let t := x.tables.1.getD x.me (0, 0)
      let r := x.tables.2.getD x.me (0, 0)
      if t.2 > r.2 then settleRegion c x.me false 0 (countRefused (updColl c (fun x => { x with refused := x.refused ++ [x.me] }) s))
      else settleRegion c x.me true t.2 (copy t.1 r.1 t.2 s)
    else if x.isA2a then settleRegion c x.me true x.count (copy (x.me * x.count) (x.me * x.count) x.count s)
    else if x.isBcast then (if x.me = x.root then noteWrote c (0, x.units) (copy 0 0 x.count s) else s)
    else noteWrote c (x.slotOf x.me) (copy 0 (x.me * x.count) x.count s)

/-- With NO_WAIT a collective whose working area is not free at once ends NO_PLANK before any POST is sent (R241). -/
def refuseWait (c : CmdRef) (k : Block) (s : State) : State :=
  match s.coll c with
  | some x => if flagNoWait k && !x.hasArea then failColl c ⟨.noPlank, 0⟩ s else s
  | none => s

/-- The checks of a collective and its beginning (R227, R231, R232, R241). A group index without a group is BAD_RSV (log 57). -/
def beginColl (c : CmdRef) (o : Nat) (k : Block) (p : Nat) (s : State) : Except Err State := do
  let a := addr154 (op k 32 8)
  let pre ← cmdRead c p a 128 s
  let bs ← cmdBlock c p a 128 0x13 0 (collRsv o ((le pre 25 1).testBit 7)) (collVals o) s
  let gi := le bs 2 2 % 2 ^ 10
  guardE (!s.inRange p 8 gi) (accessErr (2 ^ 30 + 2))
  guardE ((le bs 25 1).testBit 7 && !s.inRange p 1 (le bs 24 2 % 2 ^ 14)) (accessErr (2 ^ 30 + 24))
  match find? s.prl.groups gi with
  | none => .error (badRsv 1 2)
  | some g =>
    let x : Coll := { cmd := c, part := p, gi := gi, g := g, opc := o, blk := bs }
    let x := { x with sw := swMode s x }
    match lowest (collRejects s x) with
    | some off => .error (badRsv 1 off)
    | none =>
      let t ← if x.isV then do
          let st ← readTable c p x.n (x.addr 72) true s
          let rt ← readTable c p x.n (x.addr 80) false s
          .ok (st, rt)
        else .ok ([], [])
      let x := { x with tables := t }
      guardE x.overlaps (badRsv 1 56)
      let s := if x.isV then noteReads c p [(x.addr 72, 16 * x.n), (x.addr 80, 16 * x.n)] s else s
      let again (tag : W32) (seq : W16) : Bool := tag == g.tag && seq == x.seq
      -- A new use of a tag and seq: nothing of an earlier one is left to relay.
      let s := (s.prl.relays.filter fun e => again e.tag e.seq).foldl (fun s e => e.bufs.foldl (fun s h => engineRelease 5 h s) s) s
      let s := takeArea c (s.onPrl fun r =>
        { r with colls := r.colls ++ [x]
                 relays := r.relays.filter fun e => !again e.tag e.seq
                 staged := r.staged.filter fun k => !(k.ty == 0x20 && again (BitVec.ofNat 32 (k.f 36 4)) (BitVec.ofNat 16 (k.f 34 2))) })
      -- The POSTs of R241 go out at grant; those held in the early-post table are compared after them (log 79).
      .ok (pumpColl c (takeEarly c (pumpColl c (copyOwn c (refuseWait c k s)))))

/-- A collective command: it begins, or goes on once its buffers are served. -/
def collective (c : CmdRef) (o : Nat) (s : State) : Host.Outcome State Fault Refusal :=
  .next (match s.coll c with
    | some _ => pumpColl c s
    | none => beginCmd c o (beginColl c o) s)

/-- PRL_ALLTOALL (R234). -/
def execPrlAlltoall (c : CmdRef) (s : State) : Host.Outcome State Fault Refusal := collective c 0x0510 s
/-- PRL_ALLTOALLV (R249). -/
def execPrlAlltoallv (c : CmdRef) (s : State) : Host.Outcome State Fault Refusal := collective c 0x0511 s
/-- PRL_ALLREDUCE (R234, R236). -/
def execPrlAllreduce (c : CmdRef) (s : State) : Host.Outcome State Fault Refusal := collective c 0x0512 s
/-- PRL_REDUCE_SCATTER (R234, R236). -/
def execPrlReduceScatter (c : CmdRef) (s : State) : Host.Outcome State Fault Refusal := collective c 0x0513 s
/-- PRL_ALLGATHER (R234). -/
def execPrlAllgather (c : CmdRef) (s : State) : Host.Outcome State Fault Refusal := collective c 0x0514 s
/-- PRL_BROADCAST (R234). -/
def execPrlBroadcast (c : CmdRef) (s : State) : Host.Outcome State Fault Refusal := collective c 0x0515 s

/-! ### Messages (R242, R249 to R252) -/

/-- Group tag of a message. -/
def mTag (k : Packet) : W32 := BitVec.ofNat 32 (k.f 36 4)
/-- seq of a message. -/
def mSeq (k : Packet) : W16 := BitVec.ofNat 16 (k.f 34 2)
/-- Kind of a message. -/
def mKind (k : Packet) : Nat := k.f 32 1 / 16
/-- Stage of a message. -/
def mStage (k : Packet) : Nat := k.f 33 1 / 2 % 16
/-- last of a message. -/
def mLast (k : Packet) : Bool := (k.f 33 1).testBit 0
/-- Sender of a message. -/
def mSender (k : Packet) : Nat := k.f 40 4 % 2 ^ 20
/-- Offset of a message. -/
def mOff (k : Packet) : Nat := k.f 48 5

/-- Acts on the collective that a message names, with the sender's rank; a message that names none is discarded (R251). -/
def withColl (k : Packet) (act : Coll → Nat → State → State) (s : State) : State :=
  match s.collOf (mTag k) (mSeq k) with
  | none => staleMsg s
  | some x =>
    match (if mStage k = stSw then some x.n else x.g.rankOf (mSender k)) with
    | none => staleMsg s
    | some r => act x r s

/-- A COLL message of a kind is taken. -/
def takeColl (kind : Nat) (k : Packet) (act : State → State) (s : State) : Host.Outcome State Fault Refusal :=
  if mKind k = kind ∧ k.cls = 3 then takeData 0x20 k act s else .next s

/-- A CTRL message of a kind is taken. -/
def takePrlCtrl (kind : Nat) (k : Packet) (act : State → State) (s : State) : Host.Outcome State Fault Refusal :=
  if mKind k = kind then takeCtrl 0x20 k act s else .next s

/-- POST (R242): credit for a collective at work, held in the early-post table, or answered RETRY with an interval of at most 10 µs. -/
def execPost (k : Packet) (s : State) : Host.Outcome State Fault Refusal :=
  takeColl kPost k (fun s =>
    match s.collOf (mTag k) (mSeq k) with
    | some x => pumpColl x.cmd (takePost x.cmd (mStage k) (mOff k) (mSender k) (k.f 56 4) k.payload s)
    | none =>
      let e : EarlyPost := ⟨mTag k, mSeq k, mStage k, mSender k, mOff k, k.f 56 4, k.payload⟩
      if s.prl.early.any fun y => y.tag == e.tag && y.seq == e.seq && y.stage == e.stage && y.src == e.src && y.off == e.off then staleMsg s
      else if s.prl.early.length < 4096 then s.onPrl fun p => { p with early := p.early ++ [e] }
      else
        let (d, s) := s.draw
        sendPrlCtrl (mTag k) (mSeq k) kRetry (mStage k) (mOff k) (mSender k) ((Config.freeByte d).toNat % 11) false
          (s.onPrl fun p => { p with retries := satAdd p.retries 1 })) s

/-- A DATA message of a stage at an offset carries results: in a gathering stage, or beyond the inputs of a flat reduction (log 52). -/
def Coll.outAt (x : Coll) (st kind off : Nat) : Bool :=
  x.gathers st || (st == stFlat && x.reduces && kind == kData && decide (x.units * blockBytesOf x.inBits ≤ off))

/-- The units of a message, if its offset and payload fit a message of its stage and kind. -/
def unitsOf (x : Coll) (k : Packet) (kind from_ : Nat) : Option (Nat × Nat) :=
  let out := x.outAt (mStage k) kind (mOff k)
  let u := x.unitBytes out kind
  let off := mOff k - x.flatShift (mStage k) kind out
  let n := (pick (fun n => x.payloadBytes out kind n == k.payload.length) ((List.range 2048).map (· + 1))).getD 0
  if n = 0 ∨ off % u ≠ 0 then none else some (off / u + x.stageBase (mStage k) from_, n)

/-- Notes a message as received. -/
def noteGot (c : CmdRef) (m : PrlMsg) (s : State) : State := updColl c (fun x => { x with got := x.got ++ [m] }) s

/-- A list of entries of a table has one more. -/
def addTo {α : Type} (m : Map (List α)) (k : Nat) (v : α) : Map (List α) := upd m k [] (· ++ [v])

/-- Blocks of a reduction that came as DATA from a peer: results, or the peer's inputs. -/
def landData (x : Coll) (st peer lo n : Nat) (bs : List Byte) (s : State) : State :=
  let out := x.gathersAt st peer lo
  let w := x.dataBits out
  let b := blockBytesOf w
  let z := scaleBytesOf w
  let scAt := toGranules (n * b)
  if out then
    (List.range n).foldl (fun s i => landBlock x.cmd (lo + i) (slice bs (i * b) b) (slice bs (scAt + i * z) z) s) s
  else match blocksOf x w lo n (bs.take scAt) (bs.drop scAt) with
    | .error e => failColl x.cmd e s
    | .ok ks => updColl x.cmd (fun x => { x with raw := ks.zipIdx.foldl (fun m e => addTo m (lo + e.2) (st, e.1.q, e.1.e)) x.raw }) s

/-- What a message carries is put where it belongs, by its kind. -/
def landMsg (x : Coll) (m : PrlMsg) (bs : List Byte) (s : State) : State :=
  if m.kind = kExp then
    updColl x.cmd (fun x => { x with exps := (List.range m.n).foldl (fun e i => addTo e (m.lo + i) (scale16 (le bs (2 * i) 2))) x.exps }) s
  else if m.kind ≠ kData then
    let term (i : Nat) : Terms := decodeTerms (slice bs (256 * i) 256)
    updColl x.cmd (fun x => { x with terms := (List.range m.n).foldl (fun e i => addTo e (m.lo + i) (m.stage, term i)) x.terms }) s
  else if x.reduces then landData x m.stage m.peer m.lo m.n bs s
  else
    let a := x.addr 56
    let off := if x.isV then (x.tables.2.getD m.peer (0, 0)).1 else if x.isA2a then m.peer * x.count else 0
    let s := putDest x.cmd ⟨a.tiered, a.a + off + 64 * m.lo⟩ bs s
    if x.isA2a then s else noteWrote x.cmd (m.lo, m.lo + m.n) s

/-- A message of this stage, peer and kind with these units is due: the stage schedule has it, or an unequal all-to-all has the capacity. -/
def Coll.due (x : Coll) (m : PrlMsg) : Bool :=
  !x.got.contains m &&
  (if m.stage = stSw then true
   else if x.isV then m.stage == x.a2aStage && m.kind == kData && decide (64 * (m.lo + m.n) ≤ (x.tables.2.getD m.peer (0, 0)).2)
   else (x.allMsgs m.stage (x.partOf m.stage m.lo) m.peer x.me m.peer).contains m)

/-- A DATA, PARTIAL, EXP or RESULT message for this device: it lands, and the collective goes on. One that has come already is discarded and counted (R311), and
one that the schedule does not have is discarded. -/
def takeMsg (kind : Nat) (k : Packet) (s : State) : State :=
  withColl k (fun x r s =>
    match unitsOf x k kind r with
    | none => s
    | some (lo, n) =>
      let m : PrlMsg := ⟨mStage k, r, kind, lo, n⟩
      if x.got.contains m then staleMsg s
      else if !x.due m then s
      else
        let s := noteGot x.cmd m s
        let s := if x.isV && mLast k then updColl x.cmd (fun x => { x with totals := put x.totals r (64 * (lo + n)) }) s else s
        pumpColl x.cmd (landMsg x m k.payload s)) s

/-- The device relays a message: a group of its tag has this device as the member of its cube at the sender's in-cube position, and the final
destination as another member of this cube (R250, log 58). -/
def State.relaysTo (s : State) (k : Packet) (final : Nat) : Bool :=
  mStage k == stA2a && decide (mSender k / 64 ≠ s.selfId / 64 ∧ mSender k % 64 = s.selfId % 64 ∧ final / 64 = s.selfId / 64) &&
    s.prl.groups.any fun g => g.2.tag == mTag k && g.2.regular && (g.2.rankOf final).isSome && (g.2.rankOf (mSender k)).isSome

/-- A message of a group that is relayed for an ended collective: when it was the last, the staging is free (R250). -/
def endRelay (k : Packet) (s : State) : State :=
  let mine (e : Relay) : Bool := e.tag == mTag k && e.seq == mSeq k && e.src == mSender k
  match pick mine s.prl.relays with
  | none => s
  | some e =>
    let left := e.left - k.payload.length
    let s := s.onPrl fun r => { r with relays := (r.relays.map fun y => if mine y then { y with left := left } else y).filter fun y => y.left != 0 }
    if left = 0 then e.bufs.foldl (fun s h => engineRelease 5 h s) s else s

/-- A relay sends a message on to its final destination, whether or not it still holds the collective itself; the groups it forwards are
counted at their first message (R250, log 58). -/
def relayMsg (k : Packet) (final : Nat) (s : State) : State :=
  let same (e : Packet) : Bool := e.f 34 2 == k.f 34 2 && e.f 36 4 == k.f 36 4 && mSender e == mSender k
  let p := ((k.set 3 1 0).set 4 4 final).set 8 4 s.selfId
  let s := s.onPrl fun r =>
    { r with relayed := if r.staged.any same then r.relayed else satAdd r.relayed 1, staged := r.staged ++ [p] }
  endRelay k (sendPacket (s.partOfKey k.key) p s)

/-- DATA and PARTIAL: one whose final destination is another device is relayed, where this device is its relay, and else discarded. -/
def takeOrRelay (kind : Nat) (k : Packet) (s : State) : State :=
  let final := k.f 60 4 % 2 ^ 20
  if final = s.selfId then takeMsg kind k s else if s.relaysTo k final then relayMsg k final s else withColl k (fun _ _ s => s) s

/-- DATA (R241, R250). -/
def execData (k : Packet) (s : State) : Host.Outcome State Fault Refusal := takeColl kData k (takeOrRelay kData k) s
/-- PARTIAL (R236). -/
def execPartialSums (k : Packet) (s : State) : Host.Outcome State Fault Refusal := takeColl kPartial k (takeOrRelay kPartial k) s
/-- EXP (R235). -/
def execExponents (k : Packet) (s : State) : Host.Outcome State Fault Refusal := takeColl kExp k (takeMsg kExp k) s
/-- RESULT (R245): the switch returns the sum of a switch chunk. -/
def execResult (k : Packet) (s : State) : Host.Outcome State Fault Refusal := takeColl kResult k (takeMsg kResult k) s

/-- REFUSE (R249): the pair is refused; its flag is 0x02 and its received length 0. -/
def execRefuse (k : Packet) (s : State) : Host.Outcome State Fault Refusal :=
  takePrlCtrl kRefuse k (fun s => withColl k (fun x r s =>
    if !x.isV ∨ x.regions.contains r then s
    else
      let s := countRefused (updColl x.cmd (fun x => { x with refused := x.refused ++ [r] }) s)
      pumpColl x.cmd (settleRegion x.cmd r false 0 s)) s) s

/-- RETRY (R242): the refused POST is sent again after the interval. -/
def execRetry (k : Packet) (s : State) : Host.Outcome State Fault Refusal :=
  takePrlCtrl kRetry k (fun s => withColl k (fun x r s =>
    let part := x.partAt (mStage k) (mOff k)
    if !x.posted.contains (mStage k, part, r) then s
    else updColl x.cmd (fun x => { x with retry := x.retry ++ [(mStage k, part, r, s.clk + k.f 60 4 * 1000)] }) s) s) s

/-- POST_RETRY_INTERVAL (R242). -/
def execPostRetryInterval (c : CmdRef) (s : State) : Host.Outcome State Fault Refusal :=
  .next <|
    match s.coll c with
    | none => s
    | some x =>
      let due := x.retry.filter fun e => decide (e.2.2.2 ≤ s.clk)
      due.foldl (fun s e => sendPost x e.1 e.2.1 e.2.2.1 s) (updColl c (fun x => { x with retry := x.retry.filter fun e => decide (e.2.2.2 > s.clk) }) s)

/-- DONE (R252): a stage's bytes have been written at a receiver. With last set it tells that an unequal all-to-all has nothing from this
sender (log 56). -/
def execDone (k : Packet) (s : State) : Host.Outcome State Fault Refusal :=
  takePrlCtrl kDone k (fun s => withColl k (fun x r s =>
    if mLast k then
      (if x.isV then pumpColl x.cmd (updColl x.cmd (fun x => { x with totals := put x.totals r 0 }) s) else s)
    else
      let d := (mStage k, x.partAt (mStage k) (mOff k), r)
      if x.doneFrom.contains d then s
      else pumpColl x.cmd (updColl x.cmd (fun x => { x with doneFrom := x.doneFrom ++ [d] }) s)) s) s

/-- A message of a collective was lost (R310): what was sent to that device in the stage at that offset is sent again, and what was relayed. -/
def purlinLoss (dest : Nat) (tag : W32) (seq : W16) (st off : Nat) (s : State) : State :=
  let s := (s.prl.staged.filter fun p => p.dest == dest && mTag p == tag && mSeq p == seq && mStage p == st && mOff p == off).foldl
    (fun s p => sendPacket (s.partOfKey p.key) p s) s
  match s.collOf tag seq with
  | none => s
  | some x =>
    let s := match x.g.rankOf dest with
      | some r =>
        let part := x.partAt st off
        if off = x.partOff st part ∧ x.posted.contains (st, part, r) then sendPost x st part r s else s
      | none => s
    (x.sent.filter fun m => m.stage == st && m.kind != kDone && st != stSw && x.nextHop st m.peer == dest && x.offsetOf m == off).foldl
      (fun s m => match payloadOf x m s with
        | .ok (bs, _) => transmit x m bs s
        | .error e => failColl x.cmd e s) s

end Sys2Proof.Machine
end

