-- ==== Sys2Proof/Machine/Queue.lean ====
section
/-! DEFINITION. Work queues and completion queues: doorbells, fetch, issue, grant, cancel, completion (R26 to R61). -/

namespace Sys2Proof.Machine

/-- Entries of a work-queue ring (R26). -/
def State.wqSize (s : State) (q : Nat) : Nat := 2 ^ fld (s.wqCfg q) 4 0
/-- Entries of a completion ring (R26). -/
def State.cqSize (s : State) (c : Nat) : Nat := 2 ^ fld (s.cqCfg c) 4 0
/-- The completion queue a work queue names. -/
def State.cqOfQueue (s : State) (q : Nat) : Nat := fld (s.wqCfg q) 15 6
/-- The work queue is enabled. -/
def State.wqOn (s : State) (q : Nat) : Bool := bit (s.wqCfg q) 5

/-- A function may use queue q: the queue lies in the range of its partition (R515). -/
def State.fnOwnsQueue (s : State) (fn q : Nat) : Bool :=
  match s.partOfFn fn with
  | some p => s.inRange p 0 q
  | none => false

/-! ### Doorbells -/

/-- A producer index that reaches its queue: accepted, without effect, or dropped with doorbell_err and a halt (R29). -/
def takeProducer (q : Nat) (v : BitVec 32) (s : State) : State :=
  let x := s.queue q
  let n := s.wqSize q
  if diff32 v x.producer = 0 then s
  else if diff32 v x.producer > n ∨ diff32 v x.head > n then s.setQueue q { x with doorbellErr := true, halted := true }
  else s.setQueue q { x with producer := v }

/-- A consumer index that reaches its completion queue: accepted, or dropped with cq_err (R33). -/
def takeConsumer (q : Nat) (v : BitVec 32) (s : State) : State :=
  let x := s.cqOf q
  if diff32 x.tail v ≤ s.cqSize q then s.setCq q { x with consumer := v } else s.setCq q { x with cqErr := true }

/-- A BAR2 write of n bytes at an offset (Table Cmd-1): the two indices take writes of 32 or 64 bits, of which bits [63:32] are ignored; every other write to a
page, and every write to a page of another function, is dropped and logged with kind 8. So is an index write of another width (log 127). -/
def doorbellWrite (fn off n v : Nat) (s : State) : State :=
  if !s.pwr.ready || s.host.flr.contains fn then s
  else if !s.fnOwnsQueue fn (off / 4096) || !(n == 4 || n == 8) then logErr fn 8 (widthCode n) 1 true off s
  else match off % 4096 with
    | 0 => takeProducer (off / 4096) (BitVec.ofNat 32 v) s
    | 8 => takeConsumer (off / 4096) (BitVec.ofNat 32 v) s
    | _ => logErr fn 8 (widthCode n) 1 true off s

/-- WQ_PRODUCER_INDEX (R29). -/
def execWqProducerIndex (fn : Fn) (q : QueueIx) (v : BitVec 32) (s : State) : Host.Outcome State Fault Refusal :=
  .next (doorbellWrite fn (q.val * 4096) 4 v.toNat s)

/-- CQ_CONSUMER_INDEX (R33). -/
def execCqConsumerIndex (fn : Fn) (q : QueueIx) (v : BitVec 32) (s : State) : Host.Outcome State Fault Refusal :=
  .next (doorbellWrite fn (q.val * 4096 + 8) 4 v.toNat s)

/-! ### The issue point and completion entries -/

/-- Both waits of a fetched command are latched or none (R41). -/
def Fetched.met (f : Fetched) : Bool := f.latched0 && f.latched1

/-- The command at the issue point is tested for the first time (R41). -/
def reach (s : State) (p : Nat) (f : Fetched) : Fetched :=
  if f.reached.isSome then f
  else { f with reached := some s.clk, acct := bit (s.parCfg p) 1, blk := (issueBlock p f.pkt s).1, blkErr := (issueBlock p f.pkt s).2,
                latched0 := condHolds (wait0 f.pkt) (s.pegVal (wordPeg (wait0 f.pkt))),
                latched1 := condHolds (wait1 f.pkt) (s.pegVal (wordPeg (wait1 f.pkt))) }

/-- Lets the first fetched command of a queue reach the issue point. -/
def settleHead (q : Nat) (s : State) : State :=
  let x := s.queue q
  match x.fetched with
  | [] => s
  | f :: r => s.setQueue q { x with fetched := reach s ((s.partOfQueue q).getD 0) f :: r }

/-- Reserves an entry of completion queue c (R51): none is free while rec_err is set (R558). -/
def reserve (c : Nat) (s : State) : Option State :=
  let x := s.cqOf c
  if x.recErr || decide (diff32 x.tail x.consumer + x.reserved ≥ s.cqSize c) then none
  else some (s.setCq c { x with reserved := x.reserved + 1 })

/-- Adds a command to the uncompleted ones of queue q, with an entry of its completion queue if one can be reserved. -/
def addInflight (q : Nat) (i : InFlight) (s : State) : State :=
  match reserve (s.cqOfQueue q) s with
  | some s' =>
    let x := s'.queue q
    s'.setQueue q { x with inflight := x.inflight ++ [{ i with cq := some (s.cqOfQueue q) }] }
  | none =>
    let x := s.queue q
    s.setQueue q { x with inflight := x.inflight ++ [{ i with cq := none }] }

/-! ### Cancel -/

/-- A command ends at the issue point, or before it, without a grant. -/
def endUngranted (q : Nat) (f : Fetched) (o : Fin') (s : State) : State :=
  addInflight q { slot := f.slot, pkt := f.pkt, stage := .ended o, counted := false, since := s.clk } s

/-- Cancels every fetched and ungranted command of queue t with the tag, each ending CANCELLED. -/
def cancelFetched (t tag : Nat) (s : State) : State :=
  let x := s.queue t
  let hit := x.fetched.filter fun f => pktTag f.pkt == tag
  let s := s.setQueue t { x with fetched := x.fetched.filter fun f => pktTag f.pkt != tag }
  settleHead t (hit.foldl (fun s f => endUngranted t f ⟨.cancelled, 0, 0, false⟩ s) s)

/-- A granted command of the target queue carries the target tag. -/
def lateHit (tag : Nat) (i : InFlight) : Bool := i.counted && pktTag i.pkt == tag

/-- The work of a CANCEL that has passed its checks (R46, R47): it cancels what is fetched and names what is granted. -/
def cancelWork (k : Block) (s : State) : Done :=
  let t := op k 32 2 % 2 ^ 10
  let tag := op k 36 4
  let x := s.queue t
  let n := (x.fetched.filter fun f => pktTag f.pkt == tag).length
  let late := (x.inflight.filter (lateHit tag)).length
  let s := s.setQueue t { x with inflight := x.inflight.map fun i => if lateHit tag i then { i with late := true } else i }
  { s := cancelFetched t tag s, st := if n = 0 then .lateCancel else .ok, result := n + late * 2 ^ 32 }

/-- What a fetched CANCEL does (R46 to R48): the checks of R36 and of its own conditions, then its work. A failed check never signals. -/
def cancelAct (s : State) (c : CmdRef) : State :=
  match s.ready c 0x0104 with
  | none => s
  | some i =>
    match checkPkt s (s.cmdPart c) i.pkt with
    | some e => s.updIn c ({ · with stage := .ended ⟨e.st, 0, BitVec.ofNat 32 e.det, true⟩ })
    | none => wholeCmd c 0x0104 (fun k _ s => .ok (cancelWork k s)) s

/-- CANCEL (R46 to R48). -/
def execCancel (c : CmdRef) (s : State) : Host.Outcome State Fault Refusal := .next (cancelAct s c)

/-- The CANCELs that have been fetched and have not acted. -/
def State.dueCancels (s : State) : List CmdRef :=
  (s.allInflight.filter fun e => e.2.stage == .granted && opcode e.2.pkt == 0x0104).map fun e => refOf e.1 e.2

/-- A CANCEL acts when it is fetched (R46): one that has not acted does so before anything else is fetched, granted or timed out (log 126). -/
def settleCancels (s : State) : State := s.dueCancels.foldl cancelAct s

/-! ### Fetch -/

/-- A fetched slot is copied on chip (R30). A CANCEL acts at fetch and takes no place at the issue point (R46). A host read of a slot that is outstanding
when enable is cleared or the queue halts is not called back: its slot is delivered when the completion comes (log 126). -/
def deliverSlot (q : Nat) (k : Block) (s : State) : State :=
  let s := settleCancels s
  let x := s.queue q
  let slot := x.head
  let s := s.setQueue q { x with head := x.head + 1, fetching := none }
  if opcode k = 0x0104 then addInflight q { slot := slot, pkt := k, counted := false, since := s.clk } s
  else
    let x := s.queue q
    settleHead q (s.setQueue q { x with fetched := x.fetched ++ [{ slot := slot, pkt := k }] })

/-- A slot fetch fails: fetch_err is set and the queue halts at the slot (R31). -/
def fetchFailed (q : Nat) (s : State) : State :=
  let x := s.queue q
  s.setQueue q { x with fetchErr := true, halted := true, fetching := none }

/-- A slot may be fetched (R30, R32): the queue is enabled and not halted, a slot is announced, and it lies within 64 of the issue point. -/
def State.mayFetch (s : State) (q : Nat) : Bool :=
  let x := s.queue q
  s.wqOn q && !x.halted && x.fetching.isNone && x.head != x.producer &&
  (match x.fetched with
   | [] => true
   | f :: _ => decide (diff32 x.head f.slot ≤ 64)) &&
  !s.host.flr.contains (s.parFn ((s.partOfQueue q).getD 0))

/-- COMMAND_FETCH (R30, R31): a slot of an HBM ring is read at once; for a slot of a host ring a read request leaves. -/
def execCommandFetch (q : QueueIx) (s : State) : Host.Outcome State Fault Refusal :=
  .next <|
    let s := settleCancels s
    if !s.mayFetch q then s
    else
      let x := s.queue q
      let b := s.wqBase q
      let a := fld b 63 12 * 4096 + 64 * (x.head.toNat % s.wqSize q)
      let p := (s.partOfQueue q).getD 0
      if bit b 0 then
        match s.read p true a 64 true with
        | .ok bs => deliverSlot q (toBlock bs) s
        | .error _ => fetchFailed q s
      else
        let t := s.cmd.nextRead
        let s := s.emit (.hostRead t (s.parFn p) a 64)
        let s := s.onCmd fun c => { c with nextRead := t + 1, reads := put c.reads t { fn := s.parFn p, for_ := .ring q, n := 64 } }
        s.setQueue q { x with fetching := some t }

/-! ### Grant -/

/-- The first fetched command leaves the issue point. -/
def popHead (q : Nat) (s : State) : State :=
  let x := s.queue q
  settleHead q (s.setQueue q { x with fetched := x.fetched.tail })

/-- An update enters the accounting buffer of 256 entries (R431): the wait of a command of queue q, or a PREEMPTED record of it. When the buffer is full it is
dropped, and a breach of accounting accuracy opens in the queue's partition, once (Table Part-6). -/
def accountUpdate (q : Nat) (u : Option Nat) (s : State) : State :=
  if s.par.acctBuffer.length < 256 then s.onPar fun r => { r with acctBuffer := r.acctBuffer ++ [(q, u)] }
  else match s.partOfQueue q with
    | none => s
    | some p => if s.par.breaches.any fun b => b.cause == 6 && b.part == p then s else openBreach p 7 5 6 (some q) 0 s

/-- The oldest update in the buffer reaches its counter (R431). With room in the buffer again the breach of accounting accuracy ends. -/
def settleAccount (s : State) : State :=
  match s.par.acctBuffer with
  | [] => s
  | (q, u) :: rest =>
    closeBreaches (fun b => b.cause == 6) (s.onPar fun r => match u with
      | some t => { r with acctBuffer := rest, waitNs := upd r.waitNs q 0 (satAdd · t) }
      | none => { r with acctBuffer := rest, preempts := upd r.preempts q 0 (satAdd · 1) })

/-- The accounting buffer in one nanosecond: whether its oldest update leaves it is free (log 107). -/
def acctTick (s : State) : State :=
  if s.par.acctBuffer.isEmpty then s
  else
    let d := s.draw
    if Config.freeBit d.1 then settleAccount d.2 else d.2

/-- The wait of a command is added to its queue's account when acct_detail applies (R431). -/
def accountWait (q : Nat) (f : Fetched) (s : State) : State :=
  match f.reached with
  | some t => if f.acct then accountUpdate q (some (s.clk - t)) s else s
  | none => s

/-- Commands of a queue granted and not completed. -/
def Queue.granted (x : Queue) : Nat := (x.inflight.filter (·.counted)).length

/-- max_inflight of a queue: 1 to 255, and 0 for 256. -/
def State.maxInflight (s : State) (q : Nat) : Nat :=
  let m := fld (s.wqCfg q) 39 32
  if m = 0 then 256 else m

/-- The partition of a queue may be granted commands: it is not fenced (R451), held (R424), stopped (R459) or in an FLR (R528). -/
def State.granting (s : State) (p : Nat) : Bool :=
  !s.flt.fenced && !s.par.held.contains p && !s.cmd.stopped.contains p && !s.host.flr.contains (s.parFn p)

/-- An earlier command of the queue than the one in a slot has not completed (condition 2 of R44). -/
def Queue.earlierOpen (x : Queue) (slot : BitVec 32) : Bool :=
  x.inflight.any fun i => decide (1 ≤ diff32 slot i.slot) && decide (diff32 slot i.slot < 2 ^ 31)

/-- Conditions 1 to 3 and 5 of R44 hold for the command at the issue point. -/
def State.grantable (s : State) (q p : Nat) (f : Fetched) : Bool :=
  f.met && (!flagSerial f.pkt || !(s.queue q).earlierOpen f.slot) &&
  decide ((s.queue q).granted < s.maxInflight q) && s.granting p && engineAccepts p f s

/-- Counts an unbatched REM_FADD granted with DET in effect (R440). -/
def countFadd (p : Nat) (det : Bool) (k : Block) (s : State) : State :=
  if det && opcode k == 0x0602 && op k 56 1 == 0 then s.onPar fun r => { r with unbatchedFadd := upd r.unbatchedFadd p 0 (satAdd · 1) } else s

/-- Counts a grant, by which the order of grants is told (R176). -/
def countGrant (s : State) : State := s.onCmd fun m => { m with grants := m.grants + 1 }

/-- COMMAND_GRANT (R36, R44): a malformed command ends at the issue point; a well-formed one is granted when all five conditions hold. -/
def execCommandGrant (q : QueueIx) (s : State) : Host.Outcome State Fault Refusal :=
  .next <|
    let s := settleCancels s
    match (s.queue q).fetched with
    | [] => s
    | f :: _ =>
      let p := (s.partOfQueue q).getD 0
      if !s.wqOn q || (reserve (s.cqOfQueue q) s).isNone then s
      else match checkPkt s p f.pkt with
        | some e => endUngranted q f ⟨e.st, 0, BitVec.ofNat 32 e.det, true⟩ (popHead q (accountWait q f s))
        | none =>
          if !s.grantable q p f then s
          else
            let det := s.det p || flagDet f.pkt
            onGrant ⟨q, f.slot⟩ p f
              (countGrant (addInflight q { slot := f.slot, pkt := f.pkt, det := det, acct := f.acct, blk := f.blk, blkErr := f.blkErr, since := s.clk, order := s.cmd.grants,
                                           atGrant := s.pegVal (op f.pkt 32 2 % 2 ^ 14) }
                (popHead q (accountWait q f (countFadd p det f.pkt s)))))

/-- WAIT_TIMEOUT (R43): the command at the issue point has not met its waits within wait_timeout. The time runs on, and the command times out, while enable is 0
(log 126). -/
def execWaitTimeout (q : QueueIx) (s : State) : Host.Outcome State Fault Refusal :=
  .next <|
    let s := settleCancels s
    match (s.queue q).fetched with
    | [] => s
    | f :: _ =>
      let w := fld (s.wqCfg q) 31 16
      match f.reached with
      | none => s
      | some t =>
        if w = 0 || f.met || decide (s.clk - t < w * 1000) || (checkPkt s ((s.partOfQueue q).getD 0) f.pkt).isSome then s
        else endUngranted q f ⟨.timeout, 0, BitVec.ofNat 32 (b2n (!f.latched0) + 2 * b2n (!f.latched1)), false⟩ (popHead q s)

/-! ### Completion -/

/-- The 32 bytes of a completion record (Table Cmd-6a). -/
def recordBytes (q : Nat) (k : Block) (r : Rec) (phase : Bool) : List Byte :=
  toBytes 32 (layout [(0, 4, pktTag k), (4, 1, r.st.code), (5, 1, 1 + 16 * b2n phase), (6, 2, pktFlags k),
    (8, 8, r.hall.toNat), (16, 8, r.result.toNat), (24, 4, r.det.toNat), (28, 2, q), (30, 2, opcode k)])

/-- The function that owns the queues a completion queue serves. -/
def State.fnOfQueue (s : State) (q : Nat) : Nat := s.parFn ((s.partOfQueue q).getD 0)

/-- Counts a written record in the accounts of its queue (R430, R431). -/
def accountDone (q : Nat) (acct : Bool) (st : Status) (s : State) : State :=
  let s := s.onPar fun r => { r with completed := upd r.completed q 0 (satAdd · 1) }
  if st = .preempted ∧ acct = true then accountUpdate q none s else s

/-- Sends the MSI-X message of a completion queue, covering every record before it (R59). -/
def cqMessage (c fn : Nat) (s : State) : State :=
  msix fn (fld (s.cqCfg c) 20 10) (s.setCq c { s.cqOf c with unsignalled := 0, oldest := none })

/-- A record was written to completion queue n: the counts advance, the command leaves, and a message is sent when one is called for (R59). -/
def recordWritten (c : CmdRef) (n : Nat) (k : Block) (st : Status) (s : State) : State :=
  let x := s.cqOf n
  let acct := (s.inflight c).any (·.acct)
  let s := s.setCq n { x with tail := x.tail + 1, reserved := x.reserved - 1, unsignalled := x.unsignalled + 1,
                              oldest := x.oldest.or (some s.clk) }
  let w := s.queue c.q
  let s := s.setQueue c.q { w with inflight := w.inflight.filter fun i => i.slot != c.slot }
  let s := accountDone c.q acct st s
  let cfg := s.cqCfg n
  if bit cfg 9 && (flagIrq k || (fld cfg 31 24 != 0 && decide (fld cfg 31 24 ≤ x.unsignalled + 1)))
  then cqMessage n (s.fnOfQueue c.q) s else s

/-- The record of a command fails on its HBM ring: rec_err is set and the record kept, as it stands (R558). -/
def recordFailed (c : CmdRef) (n : Nat) (r : Rec) (e : Err) (s : State) : State :=
  let x := s.cqOf n
  let s := if e.st = .integrity then uncorrectable (some (s.cmdPart c)) e.det 0 s else s
  let s := s.setCq n { x with recErr := true, kept := ⟨c.q, c.slot⟩ :: x.kept.filter fun r => !(r.q == c.q.val && r.slot == c.slot) }
  s.updIn c ({ · with stage := .held r })

/-- Writes the completion record of a command to the next slot of completion queue n (R52, R558). -/
def writeRecord (c : CmdRef) (n : Nat) (k : Block) (r : Rec) (s : State) : State :=
  let x := s.cqOf n
  let b := s.cqBase n
  let a := fld b 63 12 * 4096 + 32 * (x.tail.toNat % s.cqSize n)
  let bs := recordBytes c.q k r (x.tail.toNat / s.cqSize n % 2 == 0)
  if bit b 0 then
    match s.readFault (s.cmdPart c) true true a with
    | some e => recordFailed c n r e s
    | none => recordWritten c n k r.st (s.write (s.cmdPart c) true a bs)
  else recordWritten c n k r.st (s.emit (.hostWrite (s.fnOfQueue c.q) a bs))

/-- Applies the signal of a command of queue q, when its status calls for it (R38, R53). -/
def applySignal (q : Nat) (i : InFlight) (f : Fin') (s : State) : State :=
  let w := signalWord i.pkt
  let st := finalStatus f.st i.sat i.breach.isSome
  if signals st f.r36 (flagSoe i.pkt) then
    match signalMode w with
    | 0 => pegUpdate (wordPeg w) (.queue q) (.add (BitVec.ofNat 64 (w / 2 ^ 16))) s
    | 1 => pegUpdate (wordPeg w) (.queue q) (.set (BitVec.ofNat 64 (w / 2 ^ 16))) s
    | _ => s
  else s

/-- The open record of a breach within which a command of a partition completes (R434): the lowest breach id. -/
def State.openIndex (s : State) (p : Nat) : Option Nat := (pick (fun (b : Breach) => b.part == p) s.par.breaches).map (·.index)

/-- The record of a command that reaches step 3 of R49 now: its status and detail (R54) and the hall time (R50). -/
def recordOf (i : InFlight) (f : Fin') (s : State) : Rec := ⟨finalStatus f.st i.sat i.breach.isSome, f.result, finalDetail f i, s.hall⟩

/-- The completion queue of a command that has ended: the one an entry of which it holds, or else the one its queue names, with an entry reserved now (R51). -/
def recordCq (c : CmdRef) (i : InFlight) (s : State) : Option (Nat × State) :=
  match i.cq with
  | some n => some (n, s)
  | none => (reserve (s.cqOfQueue c.q) s).map fun t => (s.cqOfQueue c.q, t.updIn c ({ · with cq := some (s.cqOfQueue c.q) }))

/-- COMMAND_COMPLETE (R49): signal, record, message; while rec_err is set the record is held with the signal applied (R558). While the completion queue is
disabled, which only the record of a command that was never granted can meet (R61), the completion waits (log 126). -/
def execCommandComplete (c : CmdRef) (s : State) : Host.Outcome State Fault Refusal :=
  .next <|
    match (s.inflight c).map fun i => { i with breach := i.breach.or (s.openIndex (s.cmdPart c)) } with
    | some i =>
      match i.stage with
      | .ended f =>
        match recordCq c i s with
        | none => s
        | some (n, t) =>
          if !bit (s.cqCfg n) 8 then s
          else
            let t := applySignal c.q i f (t.updIn c ({ · with breach := i.breach }))
            let x := t.cqOf n
            let r := recordOf i f t
            if x.recErr then (t.setCq n { x with kept := x.kept ++ [⟨c.q, c.slot⟩] }).updIn c ({ · with stage := .held r })
            else writeRecord c n i.pkt r t
      | _ => s
    | none => s

/-- CQ_IRQ_TIME (R59): irq_time has passed since the oldest unsignalled record. -/
def execCqIrqTime (q : QueueIx) (s : State) : Host.Outcome State Fault Refusal :=
  .next <|
    let cfg := s.cqCfg q
    match (s.cqOf q).oldest with
    | none => s
    | some t =>
      if bit cfg 9 && fld cfg 47 32 != 0 && decide (s.clk - t ≥ fld cfg 47 32 * 1000)
      then cqMessage q (s.fnOfQueue q) s else s

/-! ### Queue registers -/

/-- A function may write the registers of queue q: the PF always, a VF for its own queues (R515). -/
def State.mayWriteQueue (s : State) (fn q : Nat) : Bool := fn == 0 || s.fnOwnsQueue fn q

/-- R61: the completion queue a WQ_CFG value names belongs to the queue's partition and is enabled. -/
def State.cqUsable (s : State) (q : Nat) (v : W64) : Bool :=
  match s.partOfQueue q with
  | none => false
  | some p => s.inRange p 0 (fld v 15 6) && bit (s.cqCfg (fld v 15 6)) 8

/-- A write of WQ_CFG (R58, R61) by a function. -/
def writeWqCfg (fn q : Nat) (v : W64) (s : State) : State :=
  let off := 0x0F000008 + 0x40 * q
  let old := s.wqCfg q
  let v := BitVec.ofNat 64 (fld v 39 0)
  if !s.mayWriteQueue fn q then logWrite fn 5 off s
  else if bit old 5 then
    if setFld v 5 5 1 = old then s.setReg off v else logWrite fn 7 off s
  else if !bit v 5 then s.setReg off v
  else if fld v 4 0 < 4 ∨ fld v 4 0 > 16 then logWrite fn 6 off (s.setReg off (setFld v 5 5 0))
  else if !s.cqUsable q v then logWrite fn 7 off (s.setReg off (setFld v 5 5 0))
  else
    let s := s.setReg off v
    s.setQueue q { s.queue q with halted := false }

/-- WQ_CFG_WRITE (R58, R61). -/
def execWqCfgWrite (fn : Fn) (q : QueueIx) (v : BitVec 64) (s : State) : Host.Outcome State Fault Refusal :=
  .next (barWrite fn (0x0F000008 + 0x40 * q.val) (writeWqCfg fn q v) s)

/-- An enabled work queue names completion queue c, or a command granted on a queue that names it has not completed (R61). -/
def State.cqInUse (s : State) (c : Nat) : Bool :=
  (List.range 1024).any fun q => (s.cqOfQueue q == c && (s.wqOn q || (s.queue q).inflight.any (·.counted))) ||
    (s.queue q).inflight.any fun i => i.counted && i.cq == some c

/-- Writes the kept and held records of completion queue n in order, until one fails again (R558). -/
def writeKept (n : Nat) (rs : List Record) (s : State) : State :=
  match rs with
  | [] => s
  | r :: rest =>
    let c : CmdRef := ⟨Fin.ofNat 1024 r.q, r.slot⟩
    match s.inflight c with
    | some i =>
      match i.stage with
      | .held x =>
        let s' := writeRecord c n i.pkt x s
        if (s'.cqOf n).recErr then s'.setCq n { s'.cqOf n with kept := r :: rest } else writeKept n rest s'
      | _ => writeKept n rest s
    | none => writeKept n rest s

/-- A write of CQ_CFG (R60, R61) by a function. -/
def writeCqCfg (fn q : Nat) (v : W64) (s : State) : State :=
  let off := 0x0F010008 + 0x40 * q
  let old := s.cqCfg q
  let w := setFld (setFld (BitVec.ofNat 64 (fld v 47 0)) 23 21 0) 7 5 0
  if !s.mayWriteQueue fn q then logWrite fn 5 off s
  else if bit old 8 && fld v 4 0 != fld old 4 0 then logWrite fn 7 off s
  else if bit old 8 && !bit v 8 && s.cqInUse q then logWrite fn 7 off s
  else
    let bad := !bit old 8 && bit v 8 && (decide (fld v 4 0 < 4) || decide (fld v 4 0 > 16))
    let s := s.setReg off (if bad then setFld w 8 8 0 else w)
    let s := if bad then logWrite fn 6 off s else s
    let x := s.cqOf q
    let s := s.setCq q { x with cqErr := x.cqErr && !bit v 48 }
    if bit v 49 && x.recErr then
      writeKept q x.kept (s.setCq q { s.cqOf q with recErr := false, kept := [] })
    else s

/-- CQ_CFG_WRITE (R60, R61). -/
def execCqCfgWrite (fn : Fn) (q : QueueIx) (v : BitVec 64) (s : State) : Host.Outcome State Fault Refusal :=
  .next (barWrite fn (0x0F010008 + 0x40 * q.val) (writeCqCfg fn q v) s)

end Sys2Proof.Machine
end

