-- ==== Sys2Proof/Machine/Stop.lean ====
section
/-! DEFINITION. Work that stops: by a fence (R451), a partition reset, an FLR or a device reset (R464, Table Fault-10, Table Tier-5). -/

namespace Sys2Proof.Machine

/-! ### What engines hold for commands -/

/-- The granted commands whose work has not ended and that satisfy a predicate. -/
def State.openRefs (s : State) (sel : CmdRef → Bool) : List CmdRef :=
  ((s.allInflight.filter fun e => e.2.counted && (e.2.stage = .granted || e.2.stage = .running)).map fun e => refOf e.1 e.2).filter sel

/-- A launch stops: its arrays are free, what it has saved is dropped, and the requests that name it go on without it. -/
def stopLaunch (c : CmdRef) (s : State) : State :=
  let s := match s.resumeOf c with
    | some i => s.onPar fun r => { r with resumes := del r.resumes i }
    | none => s
  leaveRequests c false (freeArrays c false s)

/-- What stopped Dovetail steps hold of its units is free, and so are the combine slots that a stopped DVT_ROUTE or DVT_COMBINE works on. -/
def stopSlots (cs : List CmdRef) (s : State) : State :=
  let held (x : CombineSlot) : Bool := (x.routing && cs.contains x.cmd) || (match x.comb with
    | some c => cs.contains c
    | none => false)
  ((s.dvt.slots.filter fun e => held e.2).map (·.1)).foldl (fun s n => freeSlot n s)
    ((cs.foldl (fun s c => dropRun c s) s).onDvt fun d => { d with loose := d.loose.filter fun e => !cs.contains e.2.cmd })

/-- An outstanding NVMe operation serves a Ledger command. -/
def NvmeOp.forLedger (o : NvmeOp) : Bool :=
  match o.for_ with
  | .ledger _ _ => true
  | _ => false

/-- Tier work of stopped commands: joins leave, steps end, Ledger work ends; a plank move that has begun goes on to its end. -/
def stopTier (cs : List CmdRef) (s : State) : State :=
  let mine (c : Option CmdRef) : Bool := match c with
    | some c => cs.contains c
    | none => false
  let gone := s.tier.nvme.filter fun e => e.2.forLedger && cs.contains e.2.cmd
  let s := s.onTier fun t =>
    { t with
      seqs := t.seqs.map fun e => (e.1, { e.2 with
        st := if mine e.2.join && e.2.st == .queued then .gone else e.2.st
        join := if mine e.2.join then none else e.2.join
        leave := if mine e.2.leave then none else e.2.leave })
      steps := t.steps.filter fun e => !cs.contains e.2.cmd
      nvme := t.nvme.filter fun e => !(e.2.forLedger && cs.contains e.2.cmd) }
  settleNvme (gone.foldl (fun s e => stopLedger e.2.for_ s) s)

/-- What a host read belongs to. -/
def ReadFor.cmd? : ReadFor → Option CmdRef
  | .ring _ => none
  | .copy q slot => some ⟨Fin.ofNat 1024 q, slot⟩
  | .fw q slot => some ⟨Fin.ofNat 1024 q, slot⟩

/-- The host reads of stopped commands, whose completions will be discarded. -/
def stopReads (cs : List CmdRef) (s : State) : State :=
  s.onCmd fun m => { m with reads := m.reads.map fun e => (e.1, match e.2.for_.cmd? with
    | some c => { e.2 with dead := e.2.dead || cs.contains c }
    | none => e.2) }

/-- Every engine drops what it holds for commands that stop. No further packet of them is sent, nothing further is written. -/
def stopEngines (cs : List CmdRef) (s : State) : State :=
  let s := cs.foldl (fun s c => dropColl c s) s
  let s := dropJobs (fun j => cs.contains j.cmd) s
  let s := stopSlots cs (s.onDvt fun d => { d with banks := d.banks.filter fun b => !cs.contains b.2.cmd })
  let s := cs.foldl (fun s c => dropDraws c (stopLaunch c s)) s
  let s := s.onPar fun r => { r with requests := r.requests.filter fun q => !cs.contains q.cmd, resuming := r.resuming.filter fun e => !cs.contains e.1 }
  settleRequests (stopReads cs (stopTier cs s))

/-- The command is still granted and has not ended. -/
def State.isOpen (s : State) (c : CmdRef) : Bool :=
  match s.inflight c with
  | some i => i.stage = .granted || i.stage = .running
  | none => false

/-! ### The fence (R451) -/

/-- The packets of this device that are not CTRL and of which no frame has been admitted are withdrawn (R333). -/
def dropInjected (s : State) : State :=
  s.onFab fun b => { b with
    waiting := b.waiting.filter fun e => !(e.withdrawable && e.q.k.cls != 0)
    heldTx := [] }

/-- The target drops the requests that wait and the fetch-adds that it holds: nothing is written for them, and no reply may be sent (R451, log 83). -/
def dropTarget (s : State) : State := s.onRem fun r => { r with words := [], batches := [], combs := [], waiting := [] }

/-- The device fences itself (R449, R451): every granted command stops and completes FENCED with the member epoch. -/
def fenceSelf (s : State) : State :=
  if s.flt.fenced then s
  else
    let cs := s.openRefs fun _ => true
    let s := dropTarget (stopEngines cs (s.onFlt fun x => { x with fenced := true }))
    let s := cs.foldl (fun s c => if s.isOpen c then endCmd c .fenced 0 s.flt.epoch.toNat s else s) s
    appendEvent { cls := 4 } (dropInjected (s.onPar fun r => { r with resetSince := [] }))

/-! ### Queues that are reset -/

/-- Every uncompleted command of the queues that satisfy a predicate, whatever its stage. -/
def State.refsOf (s : State) (sel : Nat → Bool) : List CmdRef := (s.allInflight.filter fun e => sel e.1).map fun e => refOf e.1 e.2

/-- Queues are emptied and disabled: no record is written for what they held, and their completion entries are free again. -/
def resetQueues (sel : Nat → Bool) (s : State) : State :=
  let off (b : Nat) (r : Nat) (s : State) : State := if bit (s.reg r) b then s.setReg r (setFld (s.reg r) b b 0) else s
  let qs := (List.range 1024).filter sel
  let s := qs.foldl (fun s q => off 5 (0x0F000008 + 0x40 * q) (off 8 (0x0F010008 + 0x40 * q) s)) s
  s.onCmd fun m => { m with
    wq := m.wq.filter fun e => !sel e.1
    cq := m.cq.filter fun e => !sel e.1
    reads := m.reads.map fun e => (e.1, match e.2.for_ with
      | .ring q => { e.2 with dead := e.2.dead || sel q }
      | _ => e.2) }

/-- The destination of a COPY whose host read is outstanding. -/
def readExtents (c : CmdRef) (k : Block) (s : State) : List Extent :=
  if s.cmd.reads.any (fun e => e.2.for_ == .copy c.q c.slot) then
    match addr378 (op k 40 8) with
    | .loft a => s.extents (s.cmdPart c) false a (op k 48 4)
    | .tiered a => s.extents (s.cmdPart c) true a (op k 48 4)
    | _ => []
  else []

/-- The planks that a stopped command wrote, or that a host read was outstanding for, are torn (Table Tier-5). -/
def tearStopped (cs : List CmdRef) (s : State) : State :=
  cs.foldl (fun s c => match s.inflight c with
    | some i => s.tear (i.wrote ++ readExtents c i.pkt s)
    | none => s) s

/-! ### Partition reset (Table Fault-10, R371, R373) -/

/-- The Dovetail's tables, availability and work of a partition (R161, R187, Table Fault-10). -/
def clearDvt (p : Nat) (s : State) : State :=
  let s := ((s.dvt.slots.filter fun e => e.2.part == p).map (·.1)).foldl (fun s n => freeSlot n s) s
  s.onDvt fun d => { d with
    layers := d.layers.filter fun e => !s.inRange p 2 e.1
    tables := d.tables.filter fun e => !s.inRange p 3 e.1
    avail := d.avail.filter fun e => !s.inRange p 2 (e.1 / 2 ^ 14)
    plans := d.plans.filter fun e => !s.inRange p 2 e.1
    banks := d.banks.filter fun b => b.2.part != p
    returns := d.returns.filter fun r => !s.inRange p 7 r.1
    windows := d.windows.filter fun w => w.2.part != p }

/-- Counters of the partition's arrays, and of the Planes of their tiles, that a partition reset clears (register tables of MXA and SEQ; log 60). -/
def clearArrays (p : Nat) (s : State) : State :=
  let tile (t : Nat) : Bool := (List.range 64).any fun i => s.ownsArray p (64 * t + i)
  { s with
    arrs := s.arrs.map fun e => if s.ownsArray p e.1
      then (e.1, { e.2 with validSlots := 0, bubbles := 0, frozen := 0, gatherPerf := (0, 0, 0), residueErrs := 0, satEvents := 0 }) else e
    planes := s.planes.map fun e => if tile e.1 then (e.1, { e.2 with indexErrs := 0 }) else e }

/-- Remote windows of a partition, and what the Clamp holds for it. -/
def clearRem (p : Nat) (s : State) : State :=
  let mine (ms : List FaddMember) : Bool := ms.any fun m => m.part == p
  s.onRem fun r => { r with
    windows := r.windows.filter fun e => !s.inRange p 10 e.1
    reads := r.reads.filter fun e => e.key != s.parKey p
    words := r.words.filter fun e => !(e.2.closed.any (fun g => mine g.2) || (match e.2.open_ with
      | some g => mine g.2
      | none => false))
    batches := r.batches.filter fun b => !mine b.members
    combs := r.combs.filter fun e => e.2.k.key != s.parKey p
    waiting := r.waiting.filter fun e => e.2.key != s.parKey p }

/-- Memory of a partition: its map is cleared with its frames and flash copies, its sequences with it, and its bays are zeroed. A Ledger survives, closed. -/
def clearMemory (p : Nat) (s : State) : State :=
  let s := s.tier.nvme.foldl (fun s e => match e.2.for_ with
    | .ledger q _ => if q = p then cutRecord e.2.for_ s else s
    | _ => s) s
  let s := settleNvme <| s.onTier fun t => { t with
    planks := t.planks.filter fun e => e.1 / 2 ^ 26 != p
    seqs := t.seqs.filter fun e => !s.inRange p 12 e.1
    steps := del t.steps p
    nvme := t.nvme.filter fun e => match e.2.for_ with
      | .save k => k / 2 ^ 26 != p
      | .load k => k / 2 ^ 26 != p
      | .ledger q _ => q != p
    ledgers := t.ledgers.map fun e => if e.1 = p then (e.1, { e.2 with isOpen := false, committing := false }) else e }
  ((List.range 32).filter fun b => bit (s.bayCfg b) 0 && fld (s.bayCfg b) 10 8 == p).foldl (fun s b => zeroBay b s) s

/-- Counters and entries of the partition's own bookkeeping. -/
def clearPar (p : Nat) (s : State) : State :=
  let queues {α : Type} (m : Map α) : Map α := m.filter fun e => !s.inRange p 0 e.1
  s.onPar fun r => { r with
    rings := del r.rings p, completed := queues r.completed, preempts := queues r.preempts, waitNs := queues r.waitNs
    acctBuffer := r.acctBuffer.filter fun e => !s.inRange p 0 e.1
    held := r.held.erase p, resumes := r.resumes.filter fun e => e.2.part != p
    resuming := r.resuming.filter fun e => (match find? r.resumes e.2 with
      | some x => x.part != p
      | none => false)
    srRefused := del r.srRefused p, combineBreaches := del r.combineBreaches p, unbatchedFadd := del r.unbatchedFadd p
    resetSince := if s.flt.fenced && !r.resetSince.contains p then r.resetSince ++ [p] else r.resetSince }

/-- A partition is reset: every command of it stops with no record, its pegs are zero, and its queues, layer entries, plans, pools, resume
entries, windows and groups are invalid. What the table does not name is kept (log 60). -/
def resetPartition (p : Nat) (s : State) : State :=
  let qs (q : Nat) : Bool := s.inRange p 0 q
  let s := stopEngines (s.refsOf qs) s
  let s := resetQueues qs s
  let s := s.onCmd fun m => { m with pegs := m.pegs.filter fun e => !s.inRange p 1 e.1, stopped := m.stopped.erase p }
  let s := clearRem p (clearArrays p (clearDvt p s))
  let s := ((s.yrd.pools.filter fun e => e.2.owner == p).map (·.1)).foldl (fun s i => invalidatePool i s) s
  let s := s.onPrl fun r => { r with groups := r.groups.filter fun e => e.2.part != p }
  let s := clearPar p (clearMemory p s)
  { s with sec := { s.sec with partKeys := setFld s.sec.partKeys p p 0 } }

end Sys2Proof.Machine
end

