-- ==== Sys2Proof/Machine/Reset.lean ====
section
/-! DEFINITION. Resets of the device (R464, R509, R510), power-up and power-down (R507, R508), zeroization (R482) and lost clocks (R502). -/

namespace Sys2Proof.Machine

/-! ### What a device reset keeps -/

/-- What the security core keeps through a device reset: fuses, flash, causes, a seed disabled, and 8 failed unlocks (R481, R482). Every key is gone. -/
def SecState.afterReset (x : SecState) (draw : Nat) : SecState :=
  { unlockFails := if x.unlockFails ≥ 8 then 8 else 0, lifecycle := x.lifecycle, resetCause := x.resetCause, storageRoot := false, identityOk := false,
    bootOk := false, seedOff := x.seedOff, fusedSvn := x.fusedSvn, nonceAt := draw, xspi := x.xspi }

/-- What power management keeps through a device reset: rails, pins, brakes and the ramp of the load (R491, R510). Hall time acquires again (R509). -/
def PwrState.afterReset (x : PwrState) (cause : Nat) : PwrState :=
  { aux := x.aux, rails := x.rails, perst := x.perst, ready := false, lastReset := BitVec.ofNat 4 cause, target := x.target, burn := x.burn,
    duty := x.duty, brakeN := x.brakeN, braked := x.braked, thermtrip := x.thermtrip, hotspot := x.hotspot, vinBrake := x.vinBrake,
    alert := x.alert, locked := x.locked, timState := 1 }

/-- What the host side keeps: the always-on management endpoint, and with the PCIe link configuration space. -/
def HostState.afterReset (x : HostState) (keepCfg : Bool) : HostState :=
  { i3cAddr := x.i3cAddr, eid := x.eid, sensors := x.sensors, sensorState := x.sensorState,
    fnMask := if keepCfg then x.fnMask else [], cfgRegs := if keepCfg then x.cfgRegs else [] }

/-- Ledger slots and records survive, closed (Table Fault-10), and flash stays encrypted as it is. -/
def TierState.afterReset (x : TierState) : TierState :=
  { seals := x.seals, tierKeys := x.tierKeys, ledgers := x.ledgers.map fun e => (e.1, { e.2 with isOpen := false, committing := false }) }

/-- The clock pin and the root ports' PERST# pins after fw_ready clears (R542). -/
def dropPins (s : State) : State :=
  let s := if s.pwr.fwReady then (s.emit (.pin "RP_PERST0_N" false)).emit (.pin "RP_PERST1_N" false) else s
  if s.pwr.ppsAt.isSome then s.emit (.pin "TIME_1PPS_OUT" false) else s

/-- A power-on, PERST# or warm reset (Table Power-6, Table Fault-10): work stops with no records, memories are lost, keys are destroyed, every
register holds its reset value but brake_sw, whose brake persists but for power-on (R510, log 67). It absorbs every narrower reset. -/
def resetDevice (cause : Nat) (keepCfg : Bool) (s : State) : State :=
  let s := s.tier.nvme.foldl (fun s e => cutRecord e.2.for_ s) (dropPins s)
  let cfg := setFld (regReset 0x16000000) 0 0 (fld s.pwrCfg 0 0)
  settleAlert
    { pending := s.pending, clk := s.clk, draws := s.draws + 1, out := s.out, flash := s.flash
      csr := if bit s.pwrCfg 0 && cause != 0 && cause != 6 then [(0x16000000, cfg)] else []
      cmd := { nextRead := s.cmd.nextRead }
      tier := s.tier.afterReset, sec := s.sec.afterReset s.draws, pwr := s.pwr.afterReset cause, host := s.host.afterReset keepCfg }

/-- A warm reset with its code in last_reset. -/
def warmReset (cause : Nat) (s : State) : State := resetDevice cause true s

/-- A cause is latched in reset_cause. -/
def latchCause (i : Nat) (s : State) : State := { s with sec := { s.sec with resetCause := setFld s.sec.resetCause i i 1 } }

/-- Zeroization (R482): the keys of Table Sec-4 are destroyed, the cause is latched, and a warm reset follows. -/
def zeroize (cause : Nat) (s : State) : State := warmReset 3 (latchCause cause s)

/-- A detector fires, or the register operation is written: a device without power has nothing to zeroize. -/
def State.powered (s : State) : Bool := s.pwr.rails && !s.pwr.perst

/-- GLITCH_DETECT (R482): voltage, clock or temperature, which the event leaves open (log 3). -/
def execGlitchDetect (s : State) : Host.Outcome State Fault Refusal :=
  .next (if s.powered then
    let d := s.draw
    zeroize ((Config.freeWord d.1).toNat % 3) d.2 else s)

/-- A register operation of a block that only the PF writes: dropped before readiness (R525) and, from a VF, logged (R515). -/
def pfOp (fn off : Nat) (act : State → State) (s : State) : State := barWrite fn off (pfOnly fn off act) s

/-- ZEROIZE: SEC_CTL with zeroize and its confirmation (R482). -/
def execZeroize (fn : Fn) (s : State) : Host.Outcome State Fault Refusal := .next (pfOp fn 0x15000070 (zeroize 3) s)

/-- svn_commit: the fused svn rises to the running image's svn, and never falls (R470). -/
def svnCommit (s : State) : State :=
  { s with sec := { s.sec with fusedSvn := BitVec.ofNat 8 (max s.sec.fusedSvn.toNat s.sec.imageSvn.toNat) } }

/-- SVN_COMMIT (R470). -/
def execSvnCommit (fn : Fn) (s : State) : Host.Outcome State Fault Refusal := .next (pfOp fn 0x15000070 svnCommit s)

/-- WARM: RST_CTL with warm and its confirmation (R509). -/
def execWarm (fn : Fn) (s : State) : Host.Outcome State Fault Refusal := .next (pfOp fn 0x18000000 (warmReset 2) s)

/-- WATCHDOG_EXPIRY (R511): Verig has not serviced the watchdog for 1 s. -/
def execWatchdogExpiry (s : State) : Host.Outcome State Fault Refusal :=
  .next (if s.powered && s.pwr.fwReady then warmReset 5 s else s)

/-! ### Partition reset and FLR (R509, R510, R528) -/

/-- A partition reset begins: its work stops at once, and part_busy is set. -/
def beginPartReset (p : Nat) (s : State) : State := (resetPartition p s).onPwr fun x => { x with partBusy := x.partBusy ++ [p], partPending := x.partPending.erase p }

/-- An FLR of the function or of the partition's function is in progress. -/
def State.flrOver (s : State) (p : Nat) : Bool := s.parValid p && s.host.flr.contains (s.parFn p)

/-- part_reset of RST_CTL (R510): dropped and logged during a wider reset, absorbed by one in progress, and after an FLR of the partition's function. -/
def partReset (p : Nat) (s : State) : State :=
  if s.pwr.partBusy.contains p || s.pwr.partPending.contains p then s
  else if s.flrOver p then s.onPwr fun x => { x with partPending := x.partPending ++ [p] }
  else beginPartReset p s

/-- PART_RESET (R509, R510). -/
def execPartReset (fn : Fn) (p : Part) (s : State) : Host.Outcome State Fault Refusal :=
  .next (if s.pwr.ready then pfOp fn 0x18000000 (partReset p) s else logWrite fn 7 0x18000000 s)

/-- Functions an FLR of a function resets: the PF's clears VF Enable and so resets every VF (R528). -/
def flrFns (fn : Nat) : List Nat := if fn = 0 then List.range 9 else [fn]

/-- The queues of a function. -/
def State.queuesOf (s : State) (fn : Nat) (q : Nat) : Bool := (match s.partOfQueue q with
  | some p => s.parFn p == fn
  | none => false)

/-- A host read of the function is outstanding. -/
def State.readsOf (s : State) (fn : Nat) : Bool := s.cmd.reads.any fun e => e.2.fn == fn

/-- Step 4 of R528: configuration space, MSI-X table and doorbell state of the function are reset. -/
def clearFn (fn : Nat) (s : State) : State :=
  s.onHost fun h => { h with
    flr := h.flr.filter (· != fn), unmasked := h.unmasked.filter (fun v => v / 2048 != fn), fnMask := h.fnMask.filter (· != fn)
    pendingBits := h.pendingBits.filter (fun v => v / 2048 != fn), cfgRegs := h.cfgRegs.filter fun e => e.1 / 4096 != fn }

/-- An FLR that has no host read left ends, and a partition reset that waited for it begins (R510). -/
def finishFlr (fn : Nat) (s : State) : State :=
  if !s.host.flr.contains fn || s.readsOf fn then s
  else
    let s := clearFn fn s
    (s.pwr.partPending.filter fun p => s.parFn p == fn).foldl (fun s p => beginPartReset p s) s

/-- Steps 1 to 3 of R528: the function's commands stop, the planks they wrote are torn, and its queues are disabled. -/
def beginFlr (fn : Nat) (s : State) : State :=
  let qs := s.queuesOf fn
  let cs := s.refsOf qs
  let s := stopEngines cs (tearStopped cs s)
  let s := resetQueues qs s
  let s := s.onCmd fun m => { m with reads := m.reads.map fun e => if e.2.fn = fn then (e.1, { e.2 with dead := true }) else e }
  finishFlr fn (s.onHost fun h => { h with flr := h.flr ++ [fn], flrPending := h.flrPending.filter (· != fn) })

/-- The partition of a function is being reset. -/
def State.partResetOf (s : State) (fn : Nat) : Bool := s.pwr.partBusy.any fun p => s.parFn p == fn

/-- One function's FLR is requested (R510): absorbed by one in progress; after a partition reset of its partition. -/
def requestFlr (fn : Nat) (s : State) : State :=
  if s.host.flr.contains fn || s.host.flrPending.contains fn then s
  else if s.partResetOf fn then s.onHost fun h => { h with flrPending := h.flrPending ++ [fn] }
  else beginFlr fn s

/-- FLR (R528). During a wider reset it completes with that reset (R510). -/
def execFlr (fn : Fn) (s : State) : Host.Outcome State Fault Refusal :=
  .next (if s.pwr.ready then (flrFns fn).foldl (fun s f => requestFlr f s) s else (flrFns fn).foldl (fun s f => clearFn f s) s)

/-- PARTITION_RESET_DONE (R509): part_busy clears; the keys of a partition that is still valid are drawn anew; a waiting FLR begins. -/
def execPartitionResetDone (p : Part) (s : State) : Host.Outcome State Fault Refusal :=
  .next <|
    if !s.pwr.partBusy.contains p.val then s
    else
      let s := s.onPwr fun x => { x with partBusy := x.partBusy.erase p }
      let s := if s.parValid p then drawKeys p s else s
      (s.host.flrPending.filter fun f => s.parFn p == f).foldl (fun s f => beginFlr f s) s

/-! ### Power-up and power-down (R507, R508) -/

/-- Clock domains of VAUX3P3 alone: CLK_AON and what divides it, and CLK_PWR (Table Power-4, Table Power-5). -/
def auxClocks : Nat := 2 ^ 16 + 2 ^ 19 + 2 ^ 21 + 2 ^ 23 + 2 ^ 24

/-- VAUX_UP (R507, event A): always-on clocks start. -/
def execVauxUp (s : State) : Host.Outcome State Fault Refusal :=
  .next (s.onPwr fun p => { p with aux := true, locked := p.locked ||| BitVec.ofNat 25 auxClocks })

/-- VIN12_UP (R507, event C): the regulators start, a power-on reset; reset_cause and a disabled seed are cleared, and THERMTRIP_N is released.
Where the rails already run, VIN12 is back in range and the brake of R499 ends. -/
def execVin12Up (s : State) : Host.Outcome State Fault Refusal :=
  .next <|
    if !s.pwr.aux then s
    else if s.pwr.rails then settleBrake (s.onPwr ({ · with vinBrake := false }))
    else
      let was := s.pwr.lastReset
      let s := if s.pwr.thermtrip then s.emit (.pin "THERMTRIP_N" true) else s
      let s := resetDevice (if was = 6 then 6 else 0) false { s with sec := { s.sec with unlockFails := 0, resetCause := 0, seedOff := false } }
      settleAlert (settleBrake (s.onPwr fun p =>
        { p with rails := true, thermtrip := false, vinBrake := false, locked := BitVec.ofNat 25 auxClocks, timState := 1 }))

/-- PERST_RELEASE (R507, event D): the PLLs lock; the security core boots by SECURE_BOOT. -/
def execPerstRelease (s : State) : Host.Outcome State Fault Refusal :=
  .next (if s.pwr.perst && s.pwr.rails && s.pwr.aux then s.onPwr fun p => { p with perst := false, locked := BitVec.allOnes 25 } else s)

/-- PERST_ASSERT (R508, R509): the device stops work; the load ramps down under the Brace. -/
def execPerstAssert (s : State) : Host.Outcome State Fault Refusal :=
  .next (if s.pwr.perst then s
    else resetDevice 1 false ({ s with sec := { s.sec with seedOff := false } }.onPwr fun p => { p with perst := true, locked := BitVec.ofNat 25 auxClocks }))

/-- BROWNOUT (R499): every regulator stops, with no governing. -/
def execBrownout (s : State) : Host.Outcome State Fault Refusal :=
  .next (if !s.pwr.rails then s
    else (resetDevice 6 false s).onPwr fun p =>
      { p with rails := false, target := 0, burn := 0, duty := 0, braked := false, locked := BitVec.ofNat 25 auxClocks })

/-- VAUX3P3_LOSS (R486, R545): the always-on domain is lost with its I3C endpoint, and THERMTRIP_N is no longer driven. -/
def execVaux3p3Loss (s : State) : Host.Outcome State Fault Refusal :=
  .next <|
    if !s.pwr.aux then s
    else
      let s := if s.pwr.thermtrip then s.emit (.pin "THERMTRIP_N" true) else s
      settleAlert ((s.onPwr fun p => { p with aux := false, thermtrip := false, locked := p.locked &&& ~~~(BitVec.ofNat 25 auxClocks) }).onHost fun h =>
        { h with i3cAddr := none, eid := 0, sensors := [], sensorState := [] })

/-- FW_READY (R507, event F): Verig has trained HBM and enumerated the SSDs. Which SSDs there are, their capacities and queue pairs, and the versions of
Verig and of the scoring microcode are free values (R158, R564, log 68). -/
def execFwReady (s : State) : Host.Outcome State Fault Refusal :=
  .next <|
    if !s.pwr.ready || s.pwr.fwReady || s.host.bootState ≠ 0 then s
    else
      let d := s.draws
      let one (i : Nat) : Nat × Ssd :=
        if Config.freeBit (d + 3 * i) then
          (i, { st := .ready, capacity := BitVec.ofNat 32 (Config.freeWord (d + 3 * i + 1)).toNat,
                ioQueues := BitVec.ofNat 4 ((Config.freeWord (d + 3 * i + 2)).toNat % 9) })
        else (i, {})
      let s := ({ s with draws := d + 27 }.onTier fun t => { t with ssds := (List.range 8).map one }).onPwr ({ · with fwReady := true })
      let s := s.onHost fun h => { h with bootState := 1, featureLevel := BitVec.ofNat 16 (Config.freeWord (d + 24)).toNat,
                                          fwVersion := BitVec.ofNat 32 (Config.freeWord (d + 25)).toNat }
      let s := s.onDvt ({ · with ucodeVer := BitVec.ofNat 16 (Config.freeWord (d + 26)).toNat })
      (s.emit (.pin "RP_PERST0_N" true)).emit (.pin "RP_PERST1_N" true)

/-! ### Reference clocks (R502) -/

/-- The halves of a bent or cube link that a link tile serves (R539). -/
def tileHalves (tile : Nat) : List Nat := [tile, tile + 2]

/-- A half of a link loses its lanes: the link goes on with the rest, or goes down (R289). -/
def loseHalf (f h : Nat) (s : State) : State :=
  if !(s.port f).linked || !(s.port f).rxHalves.testBit h then s else failHalf f h s

/-- The lanes of a link tile lose lock: bent and cube links lose its halves, its hall ports go down. -/
def tileLost (tile : Nat) (s : State) : State :=
  allPorts.foldl (fun s f =>
    if portClass f = 2 then (if portIx f % 2 = tile then linkDown f s else s)
    else (tileHalves tile).foldl (fun s h => loseHalf f h s) s) s

/-- The clock domains that lose their source: domains 6 to 11 keep one tile's source; 12 and 13 are the PCIe endpoint's. -/
def execRefclkLost (clk : Fin 8) (s : State) : Host.Outcome State Fault Refusal :=
  .next <|
    if clk.val > 4 || !s.pwr.rails then s
    else
      let s := s.onPwr fun p => { p with refLost := setFld p.refLost clk clk 1 }
      match clk.val with
      | 0 => tileLost 0 s
      | 1 => tileLost 1 s
      | 4 => s.onPwr fun p => { p with locked := setFld p.locked 13 12 0 }
      | _ => zeroize 1 s

end Sys2Proof.Machine
end

