-- ==== Sys2Proof/Machine/Boot.lean ====
section
/-! DEFINITION. Boot flash, image verification and secure boot (R467 to R470), recovery (R529, R530) and the firmware commands (R534, R535). -/

namespace Sys2Proof.Machine

/-! ### The boot flash (Table Sec-2) -/

/-- A reader of bytes: from an offset, a number of bytes. -/
abbrev Reader := Nat → Nat → List Byte

/-- Reads the boot flash. -/
def State.xspiRead (s : State) (off n : Nat) : List Byte := memRead s.sec.xspi off n

/-- Writes the boot flash. -/
def xspiWrite (off : Nat) (bs : List Byte) (s : State) : State := { s with sec := { s.sec with xspi := memWrite s.sec.xspi off bs } }

/-- Where an image slot begins. -/
def slotBase (slot : Nat) : Nat := 0x00100000 + slot * 0x01000000

/-- The sequence and slot of a select copy, if its gen and CRC hold (R468). -/
def State.selectCopy (s : State) (i : Nat) : Option (Nat × Nat) :=
  let bs := s.xspiRead (0x1000 * i) 64
  if le bs 0 1 % 16 = 1 ∧ le bs 60 4 = crc32c (bs.take 60) then some (le bs 8 8, le bs 0 1 / 16 % 2) else none

/-- The valid select copy with the highest sequence; copy 0 between equals (log 72). -/
def State.selected (s : State) : Option (Nat × Nat) :=
  match s.selectCopy 0, s.selectCopy 1 with
  | some a, some b => if b.1 > a.1 then some b else some a
  | some a, none => some a
  | none, b => b

/-- A select record naming a slot (Table Sec-2). -/
def selectRecord (seq slot : Nat) : List Byte :=
  let bs := toBytes 60 (layout [(0, 1, 1 + 16 * slot), (8, 8, seq)])
  bs ++ toBytes 4 (crc32c bs)

/-- Writes the select record with the next sequence to copy 0 and then to copy 1 (R470). Answers the sequence. -/
def writeSelect (slot : Nat) (s : State) : Nat × State :=
  let seq := (((s.selected.map (·.1)).getD 0) + 1) % 2 ^ 64
  (seq, xspiWrite 0x1000 (selectRecord seq slot) (xspiWrite 0 (selectRecord seq slot) s))

/-! ### Fuses (R460) -/

/-- A fuse word: the value that at least two of its three copies hold. -/
def fuseWord (w : Nat) : Option (BitVec 384) :=
  let c := Config.fuseCopy w
  if c 0 = c 1 ∨ c 0 = c 2 then some (c 0) else if c 1 = c 2 then some (c 1) else none

/-- The three copies of some fuse word all differ: boot halts. -/
def fuseHalt : Bool := (List.range 8).any fun w => (fuseWord w).isNone

/-- The fused hash of a key index, and its revoke fuse. -/
def keyHash (key : Nat) : BitVec 384 := (fuseWord key).getD 0
/-- The revoke fuse of a key index. -/
def keyRevoked (key : Nat) : Bool := bit ((fuseWord 4).getD 0) key

/-! ### Verification (R467) -/

/-- The reserved bits of an image header (Table Sec-3) are zero. -/
def headerClean (rd : Reader) : Bool :=
  le (rd 0 1) 0 1 / 16 == 0 && le (rd 1 1) 0 1 / 4 == 0 && le (rd 3 1) 0 1 == 0 && (rd 56 8).all (· == 0) && (rd 7476 716).all (· == 0)

/-- The checks of an image but for its flash reads, in order: the code of the first that fails, or 0. -/
def imageCode (rd : Reader) (fused : Nat) : Nat :=
  let body := le (rd 4 4) 0 4
  let key := le (rd 1 1) 0 1 % 4
  let signed := rd 0 2753
  if le (rd 0 1) 0 1 % 16 ≠ 1 ∨ !headerClean rd ∨ body = 0 ∨ body > 16769024 then 1
  else if Config.sha384 (rd 64 2689) ≠ keyHash key ∨ keyRevoked key then 2
  else if le (rd 2 1) 0 1 < fused then 3
  else if Config.sha384 (rd 8192 body) ≠ BitVec.ofNat 384 (ofBytes (rd 8 48)) then 4
  else if !Config.ecdsaOk (rd 64 97) signed (rd 2753 96) then 5
  else if !Config.mldsaOk (rd 161 2592) signed (rd 2849 4627) then 6
  else 0

/-- The code of an image with its flash reads: whether they complete is free (log 3). -/
def verify (rd : Reader) (s : State) : Nat × State :=
  let d := s.draw
  let r := imageCode rd s.sec.fusedSvn.toNat
  (if r = 0 ∧ Config.freeBit d.1 then 7 else r, d.2)

/-- Verifies an image slot of the boot flash. -/
def verifySlot (slot : Nat) (s : State) : Nat × State := verify (fun off n => s.xspiRead (slotBase slot + off) n) s

/-! ### Secure boot (R468) -/

/-- The identity keys are derived from the seed, unless it is disabled (R481, Table Sec-4). -/
def State.seedOk (s : State) : Bool := !s.sec.seedOff && s.sec.lifecycle != 3

/-- Boot ends with a slot, or halts: the status registers of the SEC block. -/
def bootEnds (slot this other seq : Nat) (s : State) : State :=
  let d := s.draw
  let ok := slot != 3
  let s := { d.2 with sec := { s.sec with
    bootOk := ok, slot := slot, failThis := BitVec.ofNat 8 this, failOther := BitVec.ofNat 8 other, selectSeq := BitVec.ofNat 64 seq
    imageSvn := if ok then BitVec.ofNat 8 (le (s.xspiRead (slotBase slot + 2) 1) 0 1) else 0
    storageRoot := ok && s.seedOk, identityOk := ok && s.seedOk && Config.freeBit d.1 } }
  (s.onHost fun h => { h with bootState := if ok then 0 else 2 }).onPwr fun p => { p with ready := true }

/-- The ROM boots: the selected slot, then the other; with neither it halts (R468). -/
def boot (s : State) : State :=
  let sel := s.selected
  let a := (sel.map (·.2)).getD 0
  let seq := (sel.map (·.1)).getD 0
  let r := verifySlot a s
  if r.1 = 0 then bootEnds a 0 0 seq r.2
  else
    let q := verifySlot (1 - a) r.2
    if q.1 = 0 then bootEnds (1 - a) 0 r.1 seq q.2 else bootEnds 3 r.1 q.1 seq q.2

/-- SECURE_BOOT (R468): after a reset of a powered device; with fuses in error it halts with nothing readable but MGT_PART_ID (R460). -/
def execSecureBoot (s : State) : Host.Outcome State Fault Refusal :=
  .next <|
    if s.pwr.ready || !s.powered then s
    else if fuseHalt then
      ({ s with sec := { s.sec with slot := 3 } }.onHost fun h => { h with bootState := 4 }).onPwr fun p => { p with ready := true }
    else boot s

/-! ### Recovery (R530) -/

/-- The recovery buffer: Loft bays 0 and 1 (R529). -/
def State.recoveryRead (s : State) : Reader := fun off n => memRead s.loft off n

/-- Recovery ends in state failed with the code of its last check. -/
def recoveryFails (code : Nat) (s : State) : State :=
  s.onHost fun h => { h with bootState := 3, recovState := 4, recovCode := BitVec.ofNat 8 code }

/-- go (R530): the buffer is checked, written into the slot and checked again; the select record is written and a warm reset follows. -/
def recover (len slot : Nat) (s : State) : State :=
  let r := verify s.recoveryRead s
  if r.1 ≠ 0 then recoveryFails r.1 r.2
  else
    let q := verifySlot slot (xspiWrite (slotBase slot) (s.recoveryRead 0 len) r.2)
    if q.1 ≠ 0 then recoveryFails q.1 q.2 else warmReset 2 (writeSelect slot q.2).2

/-- A write of MGT_RECOV_CTL: only after a halt of the boot, with a legal length, and with no update in progress (R530, R534). -/
def writeRecovCtl (v : W64) (s : State) : State :=
  if s.host.bootState ≠ 2 ∧ s.host.bootState ≠ 3 then logWrite 0 7 0x18 s
  else if fld v 56 32 < 8193 ∨ fld v 56 32 > 16777216 then logWrite 0 6 0x18 s
  else if bit v 0 && s.host.updater.isSome then logWrite 0 7 0x18 s
  else
    let s := s.setReg 0x18 (setFld (setFld v 31 2 0) 63 57 0 &&& ~~~1#64)
    if bit v 0 then recover (fld v 56 32) (fld v 1 1) s else s

/-- RECOVERY_GO (R530). -/
def execRecoveryGo (fn : Fn) (v : BitVec 64) (s : State) : Host.Outcome State Fault Refusal := .next (pfOp fn 0x18 (writeRecovCtl v) s)

/-! ### Firmware commands (R534, R535) -/

/-- The slot that did not boot. -/
def State.otherSlot (s : State) : Nat := 1 - s.sec.slot

/-- Another firmware update than the commands' own holds the device (R534). -/
def State.heldElsewhere (s : State) : Bool :=
  match s.host.updater with
  | some (u, _) => u != .commands
  | none => false

/-- The commands' update makes progress. -/
def fwProgress (s : State) : State := s.onHost fun h => { h with updater := some (.commands, s.clk) }

/-- Bytes of FW_WRITE go into the slot that did not boot; an earlier verification no longer counts. -/
def fwStore (k : Block) (at_ : Nat) (bs : List Byte) (s : State) : State :=
  xspiWrite (slotBase s.otherSlot + op k 40 4 + at_) bs ((fwProgress s).onHost fun h => { h with verified := false })

/-- FW_WRITE (R535): a source in host memory is read by a host read request. -/
def execFwWrite (c : CmdRef) (s : State) : Host.Outcome State Fault Refusal :=
  .next <| mgtOnly c 0x0F10 (beginCmd c 0x0F10 fun k p s => do
    guardE s.heldElsewhere (accessErr 0xFA)
    match addr378 (op k 32 8) with
    | .host a =>
      let t := s.cmd.nextRead
      let s := (fwProgress s).onCmd fun m => { m with nextRead := t + 1, reads := put m.reads t { fn := s.parFn p, for_ := .fw c.q c.slot, n := op k 44 4 } }
      .ok (s.emit (.hostRead t (s.parFn p) a (op k 44 4)))
    | src =>
      let bs ← copyIn c p src 0 (op k 44 4) 32 s
      .ok (endCmd c .ok (op k 44 4) 0 (fwStore k 0 bs (noteTorn c (copyTorn p src 0 (op k 44 4) s) s)))) s

/-- Data of a host source arrive for FW_WRITE. -/
def fwData (c : CmdRef) (tag : Nat) (r : HostRead) (bs : List Byte) (s : State) : State :=
  match s.running c with
  | none => s
  | some i =>
    let s := fwStore i.pkt i.acc (bs.take r.n) s
    if bs.length ≥ r.n then endCmd c .ok (i.acc + r.n) 0 s
    else (s.updIn c ({ · with acc := i.acc + bs.length })).onCmd fun m => { m with reads := put m.reads tag { r with n := r.n - bs.length } }

/-- FW_VERIFY (R535): the code of R467 for the slot that did not boot. -/
def execFwVerify (c : CmdRef) (s : State) : Host.Outcome State Fault Refusal :=
  .next <| mgtOnly c 0x0F11 (wholeCmd c 0x0F11 fun _ _ s => do
    guardE s.heldElsewhere (accessErr 0xFA)
    let r := verifySlot s.otherSlot s
    let s := if s.host.updater.isSome then fwProgress r.2 else r.2
    .ok { s := s.onHost fun h => { h with verified := h.verified || r.1 == 0 }, result := r.1 }) s

/-- FW_SELECT (R535, R470): the select record names the slot that did not boot; the update ends. -/
def execFwSelect (c : CmdRef) (s : State) : Host.Outcome State Fault Refusal :=
  .next <| mgtOnly c 0x0F12 (wholeCmd c 0x0F12 fun _ _ s => do
    guardE s.heldElsewhere (accessErr 0xFA)
    guardE (!s.host.verified) (accessErr 0xFB)
    let r := writeSelect s.otherSlot s
    .ok { s := r.2.onHost fun h => { h with updater := none }, result := r.1 }) s

/-- UPDATE_HOLD_TIMEOUT (R534): 60 s without progress release the device. -/
def execUpdateHoldTimeout (s : State) : Host.Outcome State Fault Refusal :=
  .next (match s.host.updater with
    | some (_, t) => if s.clk - t ≥ 60000000000 then s.onHost fun h => { h with updater := none, pldm := .idle } else s
    | none => s)

end Sys2Proof.Machine
end

