-- ==== Sys2Proof/Machine/HostIf.lean ====
section
/-! DEFINITION. The host interface beside registers: host read completions (R528, R560), the BAR4 window (R526, R527), configuration requests
(R512, R513, R525), AtomicOps (R523) and MSI-X (R516). -/

namespace Sys2Proof.Machine

/-! ### Host reads -/

/-- The device took the read off its books. -/
def dropRead (tag : Nat) (s : State) : State := s.onCmd fun m => { m with reads := del m.reads tag }

/-- What waits for a read takes its data. -/
def readData (tag : Nat) (r : HostRead) (bs : List Byte) (s : State) : State :=
  match r.for_ with
  | .ring q => deliverSlot q (toBlock bs) s
  | .copy q slot => copyData ⟨Fin.ofNat 1024 q, slot⟩ tag r bs s
  | .fw q slot => fwData ⟨Fin.ofNat 1024 q, slot⟩ tag r bs s

/-- What waits for a read learns that it failed: a fetch halts the queue (R31), a command ends INTEGRITY (R559). -/
def readFailed (r : HostRead) (s : State) : State :=
  match r.for_ with
  | .ring q => fetchFailed q s
  | .copy q slot => copyFailed ⟨Fin.ofNat 1024 q, slot⟩ r s
  | .fw q slot => copyFailed ⟨Fin.ofNat 1024 q, slot⟩ r s

/-- HOST_READ_COMPLETION. Data for a stopped owner are discarded, and an FLR that waited for them goes on (R528). A ring slot comes whole. -/
def execHostReadCompletion (tag : Nat) (data : HostData) (s : State) : Host.Outcome State Fault Refusal :=
  .next <|
    match find? s.cmd.reads tag with
    | none => s
    | some r =>
      let s' := dropRead tag s
      if r.dead then finishFlr r.fn s'
      else match data with
        | .failed => readFailed r s'
        | .bytes bs =>
          match r.for_ with
          | .ring _ => if bs.length < 64 then s else readData tag r bs s'
          | _ => readData tag r bs s'

/-! ### BAR4 (R526, R527, R529) -/

/-- Where a BAR4 offset of a function leads: the Loft space, or a plank of the tiered space (R526). -/
def State.window (s : State) (fn off : Nat) : Addr :=
  if off < 0x20000000 then ⟨false, off⟩ else ⟨true, fld (s.bar4Win fn) 25 0 * 65536 + (off - 0x20000000)⟩

/-- The pieces of an access, each within one granule: offset and length. -/
def pieces (off n : Nat) : List (Nat × Nat) := (granules off n).map fun g => (g, min (64 - g % 64) (off + n - g))

/-- Some piece of an access is not served: it is logged, once (R527). -/
def windowLog (fn p off n : Nat) (write : Bool) (s : State) : State :=
  let bad (g : Nat × Nat) : Bool :=
    let a := s.window fn g.1
    match s.place p a.tiered a.a with
    | .ok _ => false
    | .error _ => true
  if (pieces off n).any bad then logErr fn 9 (widthCode n) 2 write off s else s

/-- One piece of a read, charged in class BE (R527): all ones where it is not served; the stored bytes, torn or not; free bytes where they are
poisoned (R446). -/
def windowRead (fn p : Nat) (acc : List Byte × State) (g : Nat × Nat) : List Byte × State :=
  let s := acc.2
  let a := s.window fn g.1
  match s.place p a.tiered a.a with
  | .error _ => (acc.1 ++ List.replicate g.2 0xFF, s)
  | .ok ph =>
    let s := chargeAccess p false a.tiered a.a g.2 s
    match s.poisoned (locSpace a.tiered) ph with
    | some e =>
      let b := s.freeBytes g.2
      (acc.1 ++ b.1, uncorrectable (some p) e.det 0 b.2)
    | none => (acc.1 ++ (List.range g.2).map (fun i => s.byteAt p a.tiered (a.a + i)), s)

/-- One piece of a write, charged in class BE (R527): dropped where it is not served. -/
def windowWrite (fn p off : Nat) (bs : List Byte) (s : State) (g : Nat × Nat) : State :=
  let a := s.window fn g.1
  match s.writeGranule p a.tiered a.a (slice bs (g.1 - off) g.2) none with
  | .ok s => chargeAccess p false a.tiered a.a g.2 s
  | .error _ => s

/-- An access after the boot has halted (R529): a recovery buffer in Loft bays 0 and 1, and all ones elsewhere. -/
def haltedAccess (fn off : Nat) (a : HostAccess) (s : State) : State :=
  let inBuf (i : Nat) : Bool := decide (off + i < 0x02000000) && s.host.bootState != 4
  match a with
  | .read n => s.emit (.completion fn ((List.range n).map fun i => if inBuf i then memGet s.loft (off + i) else 0xFF))
  | .write bs => { s with loft := memWrite s.loft off (bs.take ((List.range bs.length).filter inBuf).length) }

/-- An access of a function with a valid partition. -/
def windowAccess (fn p off : Nat) (a : HostAccess) (s : State) : State :=
  match a with
  | .read n =>
    let r := (pieces off n).foldl (windowRead fn p) ([], windowLog fn p off n false s)
    r.2.emit (.completion fn r.1)
  | .write bs => (pieces off bs.length).foldl (windowWrite fn p off bs) (windowLog fn p off bs.length true s)

/-- Reads are all ones and writes are dropped. -/
def allOnes (fn : Nat) (a : HostAccess) (s : State) : State :=
  match a with
  | .read n => s.emit (.completion fn (List.replicate n 0xFF))
  | .write _ => s

/-- BAR4_ACCESS (R525 to R529). -/
def execBar4Access (fn : Fn) (off : BitVec 36) (a : HostAccess) (s : State) : Host.Outcome State Fault Refusal :=
  .next <|
    if !s.powered || s.host.flr.contains fn.val then s
    else if !s.pwr.ready then allOnes fn a s
    else if s.host.bootState.toNat ≥ 2 then haltedAccess fn off.toNat a s
    else match s.partOfFn fn with
      | none => allOnes fn a s
      | some p => windowAccess fn p off.toNat a s

/-! ### Configuration space (R512, R513, R525) -/

/-- A dword of a function's configuration space. -/
def State.cfgDword (s : State) (fn d : Nat) : W32 :=
  match d with
  | 0 => BitVec.ofNat 32 ((if fn = 0 then 0xD001 else 0xD00F) * 65536 + Config.vendorId.toNat)
  | 2 => 0x12000001
  | _ => getD s.host.cfgRegs (fn * 4096 + d) (Config.cfgReset fn d)

/-- Sends the messages of a function's pending vectors that are no longer masked (R516). -/
def flushMsix (fn : Nat) (s : State) : State :=
  if s.host.fnMask.contains fn then s
  else
    let go (v : Nat) : Bool := v / 2048 == fn && s.host.unmasked.contains v
    let due := s.host.pendingBits.filter go
    due.foldl (fun s v => s.emit (.msix fn (v % 2048))) (s.onHost fun h => { h with pendingBits := h.pendingBits.filter fun v => !go v })

/-- VF Enable of the PF is cleared: every VF is reset as by an FLR of its own (R528). -/
def vfsOff (s : State) : State := (List.range' 1 8).foldl (fun s f => requestFlr f s) s

/-- A write of a configuration dword: its writable bits change, those of an unsupported feature do not (R512); VF Enable is kept after a halt (R529), and
clearing it resets the VFs. The MSI-X function mask takes effect. -/
def cfgWrite (fn d : Nat) (v : W32) (s : State) : State :=
  let m := if d = Config.sriovCtl && decide (s.host.bootState.toNat ≥ 2) then Config.cfgMask fn d &&& ~~~1#32 else Config.cfgMask fn d
  let w := (s.cfgDword fn d &&& ~~~m) ||| (v &&& m)
  let off := fn = 0 && d = Config.sriovCtl && bit (s.cfgDword fn d) 0 && !bit w 0
  let s := if d = 0 || d = 2 then s else s.onHost fun h => { h with cfgRegs := put h.cfgRegs (fn * 4096 + d) w }
  let s := if off then vfsOff s else s
  if d ≠ Config.msixCap then s
  else if bit w 30 then s.onHost fun h => { h with fnMask := if h.fnMask.contains fn then h.fnMask else h.fnMask ++ [fn] }
  else flushMsix fn (s.onHost fun h => { h with fnMask := h.fnMask.filter (· != fn) })

/-- CONFIG_REQUEST (R525): RRS until configuration is ready. -/
def execConfigRequest (fn : Fn) (reg : BitVec 12) (w : Option (BitVec 32)) (s : State) : Host.Outcome State Fault Refusal :=
  .next <|
    if !s.powered then s
    else if !s.pwr.ready then s.emit (.retryStatus fn)
    else
      let d := reg.toNat / 4
      match w with
      | none => s.emit (.completion fn (toBytes 4 (s.cfgDword fn d).toNat))
      | some v => (cfgWrite fn d v s).emit (.completion fn [])

/-! ### AtomicOps and MSI-X -/

/-- ATOMICOP (R523): all ones from BAR0 and BAR2, logged as unaligned; Unsupported Request from BAR4. During an FLR of the function it is dropped (R528). -/
def execAtomicop (fn : Fn) (bar : Fin 3) (off : BitVec 36) (s : State) : Host.Outcome State Fault Refusal :=
  .next <|
    if !s.powered || s.host.flr.contains fn.val then s
    else if bar = 2 then s.emit (.unsupported fn)
    else
      let s := if s.pwr.ready then logErr fn 3 3 bar true off.toNat s else s
      s.emit (.completion fn (List.replicate 8 0xFF))

/-- The mask bit of a vector is written: a message that waits on a vector unmasked is sent, unless the function is masked. Writes are dropped before
readiness (R525) and during an FLR of the function (R528). -/
def maskVector (fn vec : Nat) (masked : Bool) (s : State) : State :=
  let v := fn * 2048 + vec
  if !s.pwr.ready || s.host.flr.contains fn then s
  else if masked then s.onHost fun h => { h with unmasked := h.unmasked.filter (· != v) }
  else flushMsix fn (s.onHost fun h => { h with unmasked := if h.unmasked.contains v then h.unmasked else h.unmasked ++ [v] })

/-- MSIX_UNMASK (R516). -/
def execMsixUnmask (fn : Fn) (vec : Fin 2048) (s : State) : Host.Outcome State Fault Refusal := .next (maskVector fn vec false s)

/-- A BAR2 write of n bytes at an offset (Table Host-2): a doorbell page or a reserved offset (Table Cmd-1); an entry of the MSI-X table, of which the
model holds the mask bit in the vector control (log 119); or the pending-bit array, which only reads. -/
def bar2Write (fn off n v : Nat) (s : State) : State :=
  if 0x400000 ≤ off ∧ off < 0x408000 then
    if n = 4 ∧ off % 16 = 12 then maskVector fn ((off - 0x400000) / 16) (v.testBit 0) s
    else if n = 8 ∧ off % 16 = 8 then maskVector fn ((off - 0x400000) / 16) (v.testBit 32) s
    else s
  else if 0x410000 ≤ off ∧ off < 0x410100 then s
  else doorbellWrite fn off n v s

end Sys2Proof.Machine
end

