-- ==== Sys2Proof/Machine/Control.lean ====
section
/-! DEFINITION. The sequencer's own instructions (Table Prog-4), gathering (R127 to R131) and scribe marks (R135 to R138). -/

namespace Sys2Proof.Machine

/-- END (R120): the array finishes the launch. -/
def execSeqEnd (a : ArrayIx) (s : State) : Host.Outcome State Fault Refusal :=
  .next <| match s.currentOp a 0x00 with
    | none => s
    | some (l, _) => endArray a l id s

/-- Sets a scalar register. -/
def Arr.setS (x : Arr) (i : Nat) (v : W32) : Arr := { x with s := put x.s i v }

/-- SET (R120). -/
def execSeqSet (a : ArrayIx) (s : State) : Host.Outcome State Fault Refusal :=
  .next <| instrStep a 0x01 (fun _ k s => .ok (s.onArr a (·.setS (regOf k) (BitVec.ofNat 32 (byteFld k 4 4))))) s

/-- ADD (R120): modulo 2^32. -/
def execSeqAdd (a : ArrayIx) (s : State) : Host.Outcome State Fault Refusal :=
  .next <| instrStep a 0x02 (fun _ k s =>
    .ok (s.onArr a fun x => x.setS (regOf k) (x.sreg (regOf k) + BitVec.ofNat 32 (byteFld k 4 4)))) s

/-- BNZ (R120): counts a nonzero register down and continues at the target. -/
def execBnz (a : ArrayIx) (s : State) : Host.Outcome State Fault Refusal :=
  .next <| match s.currentOp a 0x03 with
    | none => s
    | some (l, k) =>
      let v := (s.arr a).sreg (regOf k)
      if v = 0 then goOn a l s else goTo a l (byteFld k 2 2 % 1024) (s.onArr a (·.setS (regOf k) (v - 1)))

/-- WAITPEG (R40 to R42, R120): the condition is tested when the instruction issues and at every update of its peg. -/
def execWaitpeg (a : ArrayIx) (s : State) : Host.Outcome State Fault Refusal :=
  .next <| match s.currentOp a 0x04 with
    | none => s
    | some (l, k) =>
      match (s.arr a).wait with
      | some (_, done) => if done then goOn a l s else s
      | none =>
        let w := byteFld k 8 8
        let s := s.onArr a endRun
        if condHolds w (s.pegVal (wordPeg w)) then goOn a l s
        else s.onArr a ({ · with wait := some (w, false), since := s.clk, phase := .waiting })

/-- WAITPEG_TIMEOUT (R120): the array stops and the launch completes TIMEOUT, with detail 0 (log 128). -/
def execWaitpegTimeout (a : ArrayIx) (s : State) : Host.Outcome State Fault Refusal :=
  .next <| match s.currentOp a 0x04 with
    | none => s
    | some (l, k) =>
      let t := byteFld k 4 2
      match (s.arr a).wait with
      | some (_, false) => if t ≠ 0 ∧ s.clk - (s.arr a).since ≥ t * 1000 then stopArray a l ⟨.timeout, 0⟩ s else s
      | _ => s

/-- SIGPEG (R49, R120): the signal word's update with s[vreg] added to its value. -/
def execSigpeg (a : ArrayIx) (s : State) : Host.Outcome State Fault Refusal :=
  .next <| instrStep a 0x05 (fun l k s =>
    let w := byteFld k 8 8
    let s := s.onArr a endRun
    let v := BitVec.ofNat 64 (w / 2 ^ 16 + (s.arr a).areg (regOf k))
    .ok (match signalMode w with
      | 0 => pegUpdate (wordPeg w) (.array l.cmd.q a) (.add v) s
      | 1 => pegUpdate (wordPeg w) (.array l.cmd.q a) (.set v) s
      | _ => s)) s

/-- SETKEY (R120). -/
def execSetkey (a : ArrayIx) (s : State) : Host.Outcome State Fault Refusal :=
  .next <| instrStep a 0x06 (fun _ k s => .ok (s.onArr a ({ · with
    key := { seed := BitVec.ofNat 64 (byteFld k 8 8), tensor := BitVec.ofNat 32 (byteFld k 4 4),
             base := BitVec.ofNat 48 (byteFld k 16 6), stride := BitVec.ofNat 48 (byteFld k 22 6) } }))) s

/-! ### Scribe marks -/

/-- What a live-range record lists (Table Prog-12). -/
structure LiveRanges where
  /-- VLU register mask -/
  regs : Nat := 0
  /-- lookup table mask -/
  tables : Nat := 0
  /-- ranges: Loft or bench, start, length -/
  ranges : List (Bool × Nat × Nat) := []

/-- How many registers or tables a mask lists. -/
def popcount (n m : Nat) : Nat := ((List.range n).filter m.testBit).length

/-- The save size of one array (R137). -/
def LiveRanges.size (r : LiveRanges) : Nat :=
  256 + 64 * r.ranges.foldl (fun n x => n + x.2.2) 0 + 256 * popcount 32 r.regs + 4096 * popcount 4 r.tables

/-- The reserved fields and values of a live-range record of n ranges (Table Prog-12): a range has at least one line or granule, and a Loft range lies within
the partition's `grans` scratchpad granules. -/
def liveFault (grans : Nat) (bs : List Byte) (n : Nat) : Option Nat :=
  let start (i : Nat) := le bs (8 + 8 * i) 4 % 2 ^ 23
  fieldFault (ofBytes bs) ([rbits 0 7 4, rbits 6 7 4, rb 7 1] ++ (List.range n).flatMap fun i => [rbits (8 + 8 * i) 30 23, rbits (12 + 8 * i) 31 24])
    ((List.range n).flatMap fun i => [(8 + 8 * i, (le bs (8 + 8 * i) 4).testBit 31 && decide (start i + le bs (12 + 8 * i) 3 > grans)),
      (12 + 8 * i, le bs (12 + 8 * i) 3 == 0)])

/-- Reads the live-range record of a mark; an image without a live-range area lists nothing (log 15). -/
def readLive (l : ArrLaunch) (im : Image) (off : Nat) (s : State) : Except Err LiveRanges :=
  let area := byteFld im.hdr 4 2
  if area = 0 then .ok {}
  else do
    let rel := (area + off) * 64
    let p := s.cmdPart l.cmd
    let h ← cmdRead l.cmd p ⟨im.tiered, im.addr + rel⟩ 8 s
    let n := le h 1 1
    let bs ← cmdRead l.cmd p ⟨im.tiered, im.addr + rel⟩ (8 + 8 * n) s
    guardE (le bs 0 1 % 16 != 1) (badGen 3 0)
    match liveFault (s.loftGranules p) bs n with
    | some o => .error (badRsv 1 (rel + o))
    | none => .ok { regs := le bs 2 4, tables := le bs 6 1 % 16,
                    ranges := (List.range n).map fun i => (bit (BitVec.ofNat 32 (le bs (8 + 8 * i) 4)) 31, le bs (8 + 8 * i) 4 % 2 ^ 23, le bs (12 + 8 * i) 3) }

/-- What an array saves at a mark (R135, R137). -/
def saveArr (a : Nat) (l : ArrLaunch) (r : LiveRanges) (at_ : Nat) (s : State) : SavedArr :=
  let x := s.arr a
  let p := s.cmdPart l.cmd
  { array := a, at_ := at_, n := r.size,
    arr := { image := x.image, s := x.s, key := x.key, consumed := x.consumed, pc := x.pc + 1, chainOpen := x.chainOpen, chain := x.chain, pairs := x.pairs, carry := x.carry,
             vregs := x.vregs.filter fun e => r.regs.testBit (e.1 / 64), tables := x.tables.filter fun e => r.tables.testBit (e.1 / 1024),
             launch := some l },
    lines := (r.ranges.filter (!·.1)).map fun g => (g.2.1 * 64, (List.range (g.2.2 * 64)).map fun i => memGet s.bench (benchAt a (g.2.1 * 64 + i))),
    grans := (r.ranges.filter (·.1)).map fun g => (g.2.1 * 64, (List.range (g.2.2 * 64)).map fun i => s.byteAt p false (g.2.1 * 64 + i)) }

/-- The resume entry of a launch: the one it has taken, or a free one with its serial advanced (R425). -/
def takeResume (c : CmdRef) (p : Nat) (s : State) : Option (Nat × State) :=
  match s.resumeOf c with
  | some i => some (i, s)
  | none =>
    match pick (fun i => (find? s.par.resumes i).isNone) (List.range 256), s.inflight c with
    | some i, some f => some (i, s.onPar fun r => { r with
        resumes := put r.resumes i { part := p, cmd := c, pkt := f.pkt, acct := f.acct }, serials := upd r.serials i 0 (· + 1) })
    | _, _ => none

/-- The pending preemption request of a launch. -/
def State.requestOf (s : State) (c : CmdRef) : Option Preempt := pick (fun q => q.launches.contains c) s.par.requests

/-- Changes the preemption request of a PAR_PREEMPT. -/
def onRequest (c : CmdRef) (f : Preempt → Preempt) (s : State) : State :=
  s.onPar fun r => { r with requests := r.requests.map fun q => if q.cmd = c then f q else q }

/-- An array passes a mark. -/
def passMark (a : Nat) (l : ArrLaunch) (mark : Nat) (s : State) : State :=
  goOn a l (s.onArr a fun x => { endRun x with lastMark := BitVec.ofNat 16 mark })

/-- An array meets a mark with a request pending: it saves and stops, or passes the mark (R135, R425). -/
def meetMark (a : Nat) (l : ArrLaunch) (k : BitVec 256) (q : Preempt) (s : State) : State :=
  let mark := byteFld k 2 2
  match (s.arr a).image with
  | none => s
  | some im =>
    match readLive l im (byteFld k 4 2) s with
    | .error e => failArray a l e s
    | .ok r =>
      match (if q.used + r.size ≤ q.len then takeResume l.cmd q.part s else none) with
      | none => passMark a l mark (onRequest q.cmd (fun q => { q with passed := if q.passed.contains l.cmd then q.passed else q.passed ++ [l.cmd] }) s)
      | some (i, s) =>
        let sv := saveArr a l r (q.area + q.used) s
        let fb := s.freeBytes r.size
        -- the save is charged to the target's HBM regulator in the class of the PAR_PREEMPT (R427)
        let s := chargeAccess q.part (s.cmdLc q.cmd) true sv.at_ r.size (fb.2.write q.part true sv.at_ fb.1)
        let s := s.onPar fun t => { t with resumes := upd t.resumes i { part := 0, cmd := l.cmd, pkt := 0 } fun e => { e with arrs := e.arrs ++ [sv] } }
        endArray a l ({ · with mark := some mark }) (onRequest q.cmd (fun q => { q with used := q.used + r.size }) s)

/-- SCRIBE (R135). -/
def execScribe (a : ArrayIx) (s : State) : Host.Outcome State Fault Refusal :=
  .next <| match s.currentOp a 0x07 with
    | none => s
    | some (l, k) => match s.requestOf l.cmd with
      | none => passMark a l (byteFld k 2 2) s
      | some q => meetMark a l k q s

/-! ### Gathering -/

/-- The ring of a GATHER: its base granule. -/
def ringOf (k : BitVec 256) : Nat := byteFld k 12 4 % 2 ^ 23

/-- Arrivals of a gather: the arrival peg minus the consumed count of the ring (R128). -/
def arrivals (a : Nat) (k : BitVec 256) (s : State) : Nat :=
  (s.pegVal (byteFld k 8 2 % 2 ^ 14) - getD (s.arr a).consumed (ringOf k) 0).toNat

/-- What one entry of a gather ring names (Table Prog-9). -/
structure GatherEntry where
  /-- the lines of its vector -/
  vec : List Byte
  /-- its scale bytes -/
  scales : List Byte
  /-- its return tag -/
  tag : List Byte
deriving DecidableEq, Repr

/-- Reads and checks the entry that follows `used` consumed ones by v, and what it names (R131). -/
def gatherEntry (l : ArrLaunch) (k : BitVec 256) (used v : Nat) (s : State) : Except (State × Err) GatherEntry := do
  let slot := (used + v) % 2 ^ (byteFld k 7 1 % 32)
  let bs ← loftIn s l (ringOf k * 64 + 16 * slot) 16
  if le bs 0 1 % 16 ≠ 1 then .error (s, badGen 5 0)
  match fieldFault (ofBytes bs) [rbits 0 15 4, rbits 2 15 10, rbits 4 31 23, rbits 8 31 29] [(2, decide (le bs 2 2 % 1024 > 512))] with
  | some o => .error (s, badRsv 2 (16 * slot + o))
  | none =>
    let vec ← loftIn s l (le bs 4 4 % 2 ^ 23 * 64) (iline k 24 * 64)
    let sc ← loftIn s l (le bs 8 4 % 2 ^ 29) (le bs 2 2 % 1024)
    .ok ⟨vec, sc, (bs.drop 12).take 4⟩

/-- Puts an entry into the bench as vector v: its lines, its scales and its return tag (R123, R131). -/
def placeEntry (a : Nat) (k : BitVec 256) (v : Nat) (e : GatherEntry) (s : State) : State :=
  ((s.writeBench a ((iline k 16 + v * iline k 18) * 64) e.vec).writeBench a (iline k 20 * 64 + v * iline k 22) e.scales).writeBench a
    (iline k 26 * 64 + 4 * v) e.tag

/-- Takes n entries in ring order. -/
def takeEntries (a : Nat) (l : ArrLaunch) (k : BitVec 256) (used : Nat) : (left v : Nat) → State → Except (State × Err) State
  | 0, _, s => .ok s
  | n + 1, v, s => do
    let e ← gatherEntry l k used v s
    takeEntries a l k used n (v + 1) (placeEntry a k v e s)

/-- Why a gather fires (R128). -/
inductive Fire where
  | target | deadline | close
deriving DecidableEq, Repr

/-- Counts a batch. -/
def Fire.count (f : Fire) (g : W16 × W16 × W16) : W16 × W16 × W16 :=
  match f with
  | .target => (g.1 + 1, g.2.1, g.2.2)
  | .deadline => (g.1, g.2.1 + 1, g.2.2)
  | .close => (g.1, g.2.1, g.2.2 + 1)

/-- What a GATHER of n entries writes into the array beside the bench (R131). -/
def Arr.gathered (x : Arr) (k : BitVec 256) (n : Nat) (f : Fire) : Arr :=
  { x.setS 15 (BitVec.ofNat 32 n) with
    gcount := BitVec.ofNat 16 n, consumed := put x.consumed (ringOf k) (getD x.consumed (ringOf k) 0 + BitVec.ofNat 64 n),
    gatherPerf := f.count x.gatherPerf, gather := none }

/-- A gather fires with n entries (R131). -/
def fireGather (a : Nat) (l : ArrLaunch) (k : BitVec 256) (n : Nat) (f : Fire) (s : State) : State :=
  match takeEntries a l k (getD (s.arr a).consumed (ringOf k) 0).toNat n 0 s with
  | .error (s, e) => stopArray a l e s
  | .ok s => s.onArr a (·.gathered k n f)

/-- A GATHER that array a stands at issues: it begins to watch its ring, and the array goes on; other instructions issue while it waits to fire, but those it
holds back (R119, R128, R131). A fill run ends (log 128). -/
def issueGather (a : Nat) (s : State) : State :=
  match s.gathering a, s.currentOp a 0x08 with
  | none, some (l, k) =>
    let peg := byteFld k 8 2 % 2 ^ 14
    let n := arrivals a k s
    goOn a l (s.onArr a fun x => { endRun x with
      gather := some ⟨x.pc, k, s.clk, peg, getD x.consumed (ringOf k) 0, if n = 0 then none else some s.clk⟩ })
  | _, _ => s

/-- GATHER (R127, R128): it issues, and fires when the batch is full or, outside DET, when the close peg has reached its threshold. -/
def execGather (a : ArrayIx) (s : State) : Host.Outcome State Fault Refusal :=
  .next <|
    let s := issueGather a s
    match s.gathering a with
    | none => s
    | some (l, g) =>
      let n := arrivals a g.k s
      if n ≥ count12 (iline g.k 2) then fireGather a l g.k (count12 (iline g.k 2)) .target s
      else if !l.det && bit g.k 8 && decide ((s.pegVal (byteFld g.k 10 2 % 2 ^ 14)).toNat ≥ byteFld g.k 28 4) then fireGather a l g.k n .close s
      else s

/-- When the deadline of a GATHER began to run: at the first arrival, or in DET at the issue (R128, R130). -/
def Gather.from_ (g : Gather) (l : ArrLaunch) : Option Nat := if l.det then some g.at_ else g.nonzero

/-- GATHER_DEADLINE (R128, R130): outside DET it needs an arrival. -/
def execGatherDeadline (a : ArrayIx) (s : State) : Host.Outcome State Fault Refusal :=
  .next <| match s.gathering a with
    | none => s
    | some (l, g) =>
      match g.from_ l with
      | none => s
      | some t =>
        let n := arrivals a g.k s
        if s.clk - t < byteFld g.k 4 3 || (!l.det && n == 0) then s
        else if n ≥ count12 (iline g.k 2) then fireGather a l g.k (count12 (iline g.k 2)) .target s
        else fireGather a l g.k n .deadline s

end Sys2Proof.Machine
end

