-- ==== Sys2Proof/Machine/Faults.lean ====
section
/-! DEFINITION. Leases, reports, verdicts, fences, losses, the copy check and the self-test (R448 to R465, R310). -/

namespace Sys2Proof.Machine

/-! ### Leases (R449, R450) -/

/-- The in-cube position of a device of this cube. -/
def State.posOf (s : State) (d : Nat) : Option Nat := if d / 64 = s.selfCube then some (d % 64) else none

/-- A lease partner reports a member, once for each kind in a member epoch (R450, log 62). -/
def leaseReport (q kind : Nat) (s : State) : State :=
  if s.flt.leaseReported.contains (q, kind) then s
  else report (s.inCube q) kind (s.onFlt fun x => { x with leaseReported := x.leaseReported ++ [(q, kind)] })

/-- LEASE_REQ (R449, R450): granted to a member whose epoch is not older and that is not fenced; a fenced one is reported SELF_FENCED. -/
def execLeaseReq (_port : PortIx) (k : Packet) (s : State) : Host.Outcome State Fault Refusal :=
  takeCtrl 0x30 k (fun s =>
    let d := k.f 32 4 % 2 ^ 20
    match s.posOf d with
    | none => s
    | some q =>
      let s := s.onFlt fun x => { x with lastReq := put x.lastReq q s.clk }
      if bit k.hdr (8 * 38) then leaseReport q 4 s
      else if bit s.flt.mask q && !staleTo s.flt.epoch (BitVec.ofNat 16 (k.f 36 2)) then
        sendCtrl (ctrlPacket s d 0x31 [(32, 4, d), (36, 2, s.flt.epoch.toNat), (40, 8, k.f 40 8)]) s
      else s) s

/-- LEASE_REQ_TIMER (R449): every 20 µs while lease_en is 1. -/
def execLeaseReqTimer (s : State) : Host.Outcome State Fault Refusal :=
  .next <|
    let due := match s.flt.reqSent with
      | some t => decide (s.clk - t ≥ 20000)
      | none => true
    match s.partner s.selfPos with
    | none => s
    | some q =>
      if !s.flt.leaseEn || !due then s
      else sendCtrl (ctrlPacket s (s.inCube q) 0x30
        [(32, 4, s.selfId), (36, 2, s.flt.epoch.toNat), (38, 1, b2n s.flt.fenced), (40, 8, s.hall.toNat)]) (s.onFlt fun x => { x with reqSent := some s.clk })

/-- LEASE_GRANT (R449): the latest echoed time extends the lease. -/
def execLeaseGrant (k : Packet) (s : State) : Host.Outcome State Fault Refusal :=
  takeCtrl 0x31 k (fun s =>
    let t := BitVec.ofNat 64 (k.f 40 8)
    if k.f 32 4 % 2 ^ 20 ≠ s.selfId ∨ !s.flt.leaseEn then s
    else s.onFlt fun x => { x with
      echo := if x.echo.toNat < t.toNat then t else x.echo
      leaseFrom := match x.leaseFrom with
        | some u => some (if u.toNat < t.toNat then t else u)
        | none => some t }) s

/-- LEASE_EXPIRY (R449): 120 µs after the latest echoed time the device fences itself. -/
def execLeaseExpiry (s : State) : Host.Outcome State Fault Refusal :=
  .next <|
    match s.flt.leaseFrom with
    | some t => if s.flt.leaseEn && decide (t.toNat + 120000 ≤ s.hall.toNat) then fenceSelf s else s
    | none => s

/-- LEASE_SILENCE (R450): a member whose partner this device is has sent no LEASE_REQ for 200 µs. -/
def execLeaseSilence (pos : Fin 64) (s : State) : Host.Outcome State Fault Refusal :=
  .next <|
    if pos.val ≠ s.selfPos ∧ bit s.flt.mask pos ∧ s.partner pos = some s.selfPos ∧ s.clk - getD s.flt.lastReq pos 0 ≥ 200000
    then leaseReport pos 3 s else s

/-! ### Reports (R462) -/

/-- A report about a device that a verdict has named meanwhile comes from a reporter that has not applied it (R457, R463). -/
def State.overtaken (s : State) (k : Packet) : Bool :=
  s.declaredDead (k.f 32 4 % 2 ^ 20) && staleTo s.flt.epoch (BitVec.ofNat 16 (k.f 40 2))

/-- REPORT (R462): a kingpost merges it with the others about its suspect. -/
def execReport (k : Packet) (s : State) : Host.Outcome State Fault Refusal :=
  takeCtrl 0x32 k (fun s =>
    let level := k.f 43 1 % 4
    if level > 1 ∨ s.overtaken k then s
    else mergeReport level (BitVec.ofNat 20 (k.f 32 4)) (k.f 42 1) (k.f 44 2) (BitVec.ofNat 64 (k.f 48 8)) s) s

/-- REPORT_MERGE_CLOSE (R462): 20 µs after the first report about a suspect the merged one goes on. -/
def execReportMergeClose (suspect : BitVec 20) (s : State) : Host.Outcome State Fault Refusal :=
  .next <|
    let due (m : Merge) : Bool := m.suspect == suspect && !m.closed && decide (s.clk - m.first ≥ 20000)
    let ms := s.flt.merges.filter due
    let s := s.onFlt fun x => { x with merges := x.merges.map fun m => if due m then { m with closed := true } else m }
    ms.foldl (fun s m => passReport m.level m.suspect m.kind m.count m.suspected s) s

/-! ### Verdicts (R455 to R457) -/

/-- A new member epoch: every suspect may be reported again, and a merge that has gone on counts no more reports (R462, log 59). -/
def newEpoch (e : W16) (s : State) : State :=
  if s.flt.epoch = e then s
  else s.onFlt fun x => { x with epoch := e, reported := [], leaseReported := [], merges := x.merges.filter fun m => !m.closed }

/-- A packet reports a device. -/
def reportsOn (d : Nat) (k : Packet) : Bool := k.cls == 0 && k.ty == 0x32 && k.f 32 4 % 2 ^ 20 == d

/-- Every pending report about a device is discarded (R457, R463), a packet as long as no frame of it has been admitted (R333). -/
def dropReports (d : Nat) (s : State) : State :=
  let s := s.onFab fun b => { b with waiting := b.waiting.filter fun e => !(e.withdrawable && reportsOn d e.q.k) }
  s.onFlt fun x => { x with merges := x.merges.filter fun m => m.suspect.toNat != d, reported := [BitVec.ofNat 20 d] }

/-- The out bits of every instance that a device hosts in a partition's current layout table are set (R187, R457). -/
def outInstances (d p : Nat) (s : State) : State :=
  (s.layout p).current.foldl (fun s l => l.2.zipIdx.foldl (fun s w =>
    if hostOf w.1 = some d then
      s.onDvt fun x => { x with avail := upd x.avail (availKey l.1 (w.2 / 4)) 0 fun a => a ||| BitVec.ofNat 5 (2 ^ (w.2 % 4)) }
    else s) s) s

/-- A combine stops waiting when its missing returns all come from dead hosts (R457). -/
def settleDead (s : State) : State :=
  s.dvt.slots.foldl (fun s e => match s.slot e.1 with
    | some x =>
      let missing := x.choices.filter fun h => h.open_
      if x.comb.isSome && !missing.isEmpty && missing.all fun h => s.declaredDead h.host then endCombine e.1 x s else s
    | none => s) s

/-- Enters a verdict into the history of 16 entries, over the oldest. -/
def enterVerdict (e : W16) (d : Nat) (s : State) : State :=
  s.onFlt fun x => { x with hist := put x.hist x.histNext (BitVec.ofNat 64 (1 + d * 2 ^ 28 + e.toNat * 2 ^ 48)), histNext := (x.histNext + 1) % 16,
                            verdicts := satAdd x.verdicts 1 }

/-- Applies a verdict that names device d (R457). -/
def applyVerdict (e : W16) (d : Nat) (s : State) : State :=
  let s := newEpoch e (enterVerdict e d s)
  let s := match s.posOf d with
    | some q => s.onFlt fun x => { x with mask := setFld x.mask q q 0 }
    | none => s
  let s := appendEvent { cls := 3, addr := d } s
  let s := purlinPeerLost d (endToPeer true d ⟨.peerLost, d⟩ s)
  let s := (List.range 8).foldl (fun s p => outInstances d p s) (settleDead s)
  dropReports d (s.onTier fun t => { t with dead := t.dead ++ [(BitVec.ofNat 20 d, s.hallUs)] })

/-- A hall port is a usable torus port (R300). -/
def State.torusPort (s : State) (f : Nat) : Bool := (List.range 6).any fun d => s.dirPort d == some f && s.hallUsable f d

/-- The kingposts of the other bents or half-bents of the cube. -/
def State.otherKingposts (s : State) : List Nat :=
  ((List.range 8).filterMap fun g => s.kingpost (8 * g)).eraseDups.filter fun q => !(s.postGroup s.selfPos).contains q

/-- A VERDICT goes out on every UP bent port and every usable torus hall port; a bent kingpost sends it to the other kingposts too (R455). -/
def spreadVerdict (e prior : W16) (d : Nat) (issued : W64) (s : State) : State :=
  let k (dst : Nat) : Packet := ctrlPacket s dst 0x33 [(32, 2, e.toNat), (34, 2, prior.toNat), (36, 4, d), (40, 8, issued.toNat)]
  let s := (allPorts.filter fun f => (portClass f == 0 && s.isUp f) || (portClass f == 2 && s.torusPort f)).foldl
    (fun s f => sendOnPort none f (k (s.port f).peerId.toNat) s) s
  if s.kingpost s.selfPos = some s.selfPos then s.otherKingposts.foldl (fun s q => sendCtrl (k (s.inCube q)) s) s else s

/-- VERDICT (R456): a newer one is applied and forwarded, once; the device it names fences itself. -/
def execVerdict (k : Packet) (s : State) : Host.Outcome State Fault Refusal :=
  takeCtrl 0x33 k (fun s =>
    let e := BitVec.ofNat 16 (k.f 32 2)
    let prior := BitVec.ofNat 16 (k.f 34 2)
    let d := k.f 36 4 % 2 ^ 20
    if !newer e s.flt.epoch then s
    else
      let gap := prior ≠ s.flt.epoch
      let s := spreadVerdict e prior d (BitVec.ofNat 64 (k.f 40 8)) (applyVerdict e d s)
      let s := if gap then report s.selfId 5 (s.onFlt fun x => { x with gap := true }) else s
      if d = s.selfId then fenceSelf s else s) s

/-- A write of FLT_VERDICT: with issue set it is applied and sent when its epoch is newer, else dropped and logged (R455). -/
def writeVerdict (v : W64) (s : State) : State :=
  let e := BitVec.ofNat 16 (fld v 63 48)
  let d := fld v 47 28
  if !bit v 0 then s.setReg 0x14000018 (setFld (setFld v 27 1 0) 0 0 0)
  else if !newer e s.flt.epoch then logWrite 0 6 0x14000018 s
  else
    let prior := s.flt.epoch
    spreadVerdict e prior d s.hall (applyVerdict e d (s.setReg 0x14000018 (setFld v 27 0 0)))

/-- VERDICT_ISSUE (R455). -/
def execVerdictIssue (fn : Fn) (v : BitVec 64) (s : State) : Host.Outcome State Fault Refusal := .next (barWrite fn 0x14000018 (pfOnly fn 0x14000018 (writeVerdict v)) s)

/-- FENCED (R453): with reason 1 the commands with a request at the sender complete FENCED; with reason 0 and a newer epoch the device fences itself. -/
def execFenced (k : Packet) (s : State) : Host.Outcome State Fault Refusal :=
  takeCtrl 0x34 k (fun s =>
    if k.f 38 1 = 1 then endToPeer false (k.f 34 4 % 2 ^ 20) ⟨.fenced, s.flt.epoch.toNat⟩ s
    else if newer (BitVec.ofNat 16 (k.f 32 2)) s.flt.epoch then fenceSelf s
    else s) s

/-! ### Rejoining (R452) -/

/-- Every valid partition has been reset since the fence. -/
def State.allReset (s : State) : Bool := (List.range 8).all fun p => !s.parValid p || s.par.resetSince.contains p

/-- A write of FLT_MEMBER: the epoch is held while lease_en is 1 and the device is not fenced (log 61); a lease starts when it is enabled;
rejoin clears the fence once every valid partition has been reset. -/
def writeMember (v : W64) (s : State) : State :=
  let e := BitVec.ofNat 16 (fld v 63 48)
  let s := if s.flt.leaseEn && !s.flt.fenced then (if e = s.flt.epoch then s else logWrite 0 7 0x14000008 s) else newEpoch e s
  let start := bit v 0 && !s.flt.leaseEn
  let s := s.onFlt fun x => { x with leaseEn := bit v 0, leaseFrom := if start then some s.hall else x.leaseFrom, reqSent := if start then none else x.reqSent }
  if !bit v 1 || !s.flt.fenced then s
  else if !s.allReset then logWrite 0 7 0x14000008 s
  else appendEvent { cls := 4 } (dropInjected (s.onFlt fun x => { x with fenced := false, leaseFrom := if x.leaseEn then some s.hall else none }))

/-- REJOIN (R452). -/
def execRejoin (fn : Fn) (v : BitVec 64) (s : State) : Host.Outcome State Fault Refusal := .next (barWrite fn 0x14000008 (pfOnly fn 0x14000008 (writeMember v)) s)

/-! ### Losses (R310) -/

/-- The dispatch units of a slot that a return tag names and that were last sent by way of a device. -/
def lostChoices (x : CombineSlot) (dest tag : Nat) (s : State) : List SlotChoice :=
  if x.seq.toNat ≠ tag / 2 ^ 24 then [] else x.choices.filter fun h => h.ordinal == tag % 2 ^ 20 && h.st == RetState.sent && s.relayFor h.host == dest

/-- Sends a dispatch unit again; one whose vector can no longer be read is left unserved. -/
def resendChoice (n : Nat) (x : CombineSlot) (h : SlotChoice) (s : State) : State :=
  match sendChoice n x h s with
  | .ok s => s
  | .error _ => leaveUnserved n h.ordinal s

/-- Sends a kept return again. -/
def resendReturn (r : Nat × Nat × Nat × Bool × List Byte) (s : State) : State :=
  match find? s.dvt.windows r.1 with
  | some w => sendUnit w.part r.2.1 1 r.2.2.2.1 r.2.2.2.2 s
  | none => s

/-- The units named by a return tag that were last sent to a device are sent again: a dispatch of this device's slot, a return, and what it relayed (log 29). -/
def resendUnits (dest tag off : Nat) (s : State) : State :=
  let n := tag / 2 ^ 20 % 16
  let s := match (s.slot n).or (find? s.dvt.loose n) with
    | some x => (lostChoices x dest tag s).foldl (fun s h => resendChoice n x h s) s
    | none => s
  let s := (s.dvt.returns.filter fun r => s.relayFor r.2.1 == dest && r.2.2.1 == tag).foldl (fun s r => resendReturn r s) s
  (s.prl.staged.filter fun p => p.ty == 0x28 && p.dest == dest && p.f 32 4 == tag && p.f 40 4 % 2 ^ 23 == off).foldl
    (fun s p => sendPacket (s.partOfKey p.key) p s) s

/-- The packet that a LOSS names is sent again by this device, its source or requester. -/
def actOnLoss (k : Packet) (s : State) : State :=
  let ty := k.f 37 1
  let dest := k.f 32 4 % 2 ^ 20
  if ty < 0x20 then declareLost (k.f 38 2) s
  else if ty = 0x28 then resendUnits dest (k.f 44 4) (k.f 52 5 % 2 ^ 23) s
  else if ty = 0x20 then purlinLoss dest (BitVec.ofNat 32 (k.f 44 4)) (BitVec.ofNat 16 (k.f 48 2)) (k.f 50 1 % 16) (k.f 52 5) s
  else s

/-- LOSS (R310, R314): the named packet is lost and is sent again. -/
def execLoss (k : Packet) (s : State) : Host.Outcome State Fault Refusal := takeCtrl 0x42 k (actOnLoss k) s

/-! ### Copies that differ (R458) -/

/-- Reserved fields of the FLT_COPY_CHECK block. -/
def copyCheckRsv : List Rsv := [rbits 0 15 6, rbits 3 7 2, rbits 4 31 24, rbits 8 2 1, rb 20 4, rb 56 8]

/-- Values of the FLT_COPY_CHECK block that are out of range: more than three peers, a length that is no whole granule. -/
def copyCheckVals (bs : List Byte) : List (Nat × Bool) := [(2, decide (le bs 2 1 > 3)), (16, le bs 16 4 % 64 != 0)]

/-- check_copies (R458): 0 agree, 1 local wins, 2 a peer wins, 3 quarantine. -/
def checkCopies (d : Nat) (peers : List Nat) (manifest : Option Nat) : Nat :=
  match manifest with
  | some m => if d = m then b2n (peers.any (· != m)) else if peers.contains m then 2 else 3
  | none => if peers.all (· == d) then 0 else 3

/-- The mask of peers whose digest differs from the winning one: the manifest, or without one the local digest. -/
def copyMask (d : Nat) (peers : List Nat) (manifest : Option Nat) : Nat :=
  (peers.zipIdx.map fun e => if e.1 = manifest.getD d then 0 else 2 ^ e.2).sum

/-- FLT_COPY_CHECK (R458). -/
def execFltCopyCheck (c : CmdRef) (s : State) : Host.Outcome State Fault Refusal :=
  .next (mgtOnly c 0x0F40 (wholeCmd c 0x0F40 fun k p s => do
    let bs ← cmdBlock c p (addr154 (op k 32 8)) 64 0x19 0 copyCheckRsv copyCheckVals s
    let w := le bs 4 4 % 2 ^ 24
    let set := (le bs 0 1).testBit 5 && w != 0
    guardE (set && !s.inRange p 2 (wordLayer w)) (accessAt 4)
    let a := addr347 (le bs 8 8)
    let data ← cmdRead c p a (le bs 16 4) s
    let s := noteTorn c (s.rangeTorn p a.tiered a.a (le bs 16 4)) s
    let d := crc64 data
    let manifest := if (le bs 0 1).testBit 4 then some (le bs 24 8) else none
    let peers := (List.range (le bs 2 1)).map fun i => le bs (32 + 8 * i) 8
    let o := checkCopies d peers manifest
    let bits : Nat := if !set then 0 else if o = 2 then 2 ^ (le bs 3 1 % 4) else if o = 3 then 16 else 0
    let s := s.onDvt fun x => if bits = 0 then x else
      { x with avail := upd x.avail (availKey (wordLayer w) (wordExpert w)) 0 fun v => v ||| BitVec.ofNat 5 bits }
    .ok { s := s.updIn c ({ · with acc := w }), st := if o = 3 then .diverged else .ok, result := d,
          det := o + 16 * copyMask d peers manifest }) s)

/-! ### Self-test (R465) -/

/-- FLT_SELFTEST (R465): the target must be idle. A target without a defect passes; one with a defect fails at a vector the model leaves free (log 63). -/
def execFltSelftest (c : CmdRef) (s : State) : Host.Outcome State Fault Refusal :=
  .next (mgtOnly c 0x0F41 (wholeCmd c 0x0F41 fun k _ s => do
    let n := op k 32 1
    let score := bit k (8 * 33)
    guardE (if score then s.streaming n else (s.arr n).launch.isSome) (badRsv 0 32)
    let faulty := if score then decide ((getD s.dvt.arrays n {}).upset ≠ {}) else decide ((s.arr n).upset ≠ {})
    let d := s.draw
    .ok (if faulty then { s := d.2, result := 1 + (Config.freeWord d.1).toNat % (2 ^ 64 - 1) } else { s := s })) s)

end Sys2Proof.Machine
end

