-- ==== Sys2Proof/Machine/Partitions.lean ====
section
/-! DEFINITION. Partitions: PAR_CFG and the breach ring (R411 to R416, R434), preemption and resumption (R423 to R429). -/

namespace Sys2Proof.Machine

/-! ### PAR_CFG (R413) -/

/-- Two ranges (first, count) of units rangesMeet. -/
def rangesMeet (a b : W64) : Bool :=
  decide (fld a 31 0 < fld b 31 0 + fld b 63 32) && decide (fld b 31 0 < fld a 31 0 + fld a 63 32) && fld a 63 32 != 0 && fld b 63 32 != 0

/-- A partition configuration clashes with another valid partition: arrays, a range, the key or the function. -/
def State.parClash (s : State) (p : Nat) (v : W64) : Bool :=
  (List.range 8).any fun r => r != p && s.parValid r &&
    ((fld v 47 40).land (fld (s.parCfg r) 47 40) != 0 || fld v 63 48 == s.parKey r || fld v 39 36 == s.parFn r ||
     (List.range 13).any fun k => rangesMeet (s.parRange p k) (s.parRange r k))

/-- The partition still holds a granted command, a resume entry or a bay. -/
def State.parHolds (s : State) (p : Nat) : Bool :=
  s.allInflight.any (fun e => e.2.counted && s.partOfQueue e.1 == some p) || s.par.resumes.any (fun e => e.2.part == p) || s.baysOwned p != 0

/-- A write of PAR_CFG by the PF. A partition that becomes valid gets its keys (Table Sec-4). -/
def writeParCfg (p : Nat) (v : W64) (s : State) : State :=
  let off := 0x12000000 + 8 * p
  let old := s.parCfg p
  let v := setFld v 35 2 0
  let drop (kind : Nat) : State := logWrite 0 kind off s
  if fld v 39 36 > 8 then drop 6
  else if bit old 0 then
    if fld v 63 36 ≠ fld old 63 36 then drop 7
    else if !bit v 0 && s.parHolds p then drop 7
    else s.setReg off v
  else if bit v 0 && s.parClash p v then drop 7
  else
    let s := s.setReg off v
    if bit v 0 then drawKeys p s else s

/-- PAR_CFG_WRITE (R413). -/
def execParCfgWrite (fn : Fn) (p : Part) (v : BitVec 64) (s : State) : Host.Outcome State Fault Refusal :=
  .next (barWrite fn (0x12000000 + 8 * p.val) (pfOnly fn (0x12000000 + 8 * p.val) (writeParCfg p v)) s)

/-- The function may write the breach registers of a partition: the PF, or the function bound to it (R413). -/
def State.mayBreach (s : State) (fn p : Nat) : Bool := fn == 0 || (s.parValid p && s.parFn p == fn)

/-- log2_entries of a ring register is one of its values. -/
def ringLogOk (v : W64) : Bool := fld v 4 0 == 0 || (decide (4 ≤ fld v 4 0) && decide (fld v 4 0 ≤ 16))

/-- A write of PAR_BREACH_RING: the ring is set and its counts are 0 (R434). -/
def writeBreachRing (fn p : Nat) (v : W64) (s : State) : State :=
  let off := 0x12000080 + 0x10 * p
  if !s.mayBreach fn p then logWrite fn 5 off s
  else if !ringLogOk v then logWrite fn 6 off s
  else ((s.setReg off (setFld v 11 5 0)).setReg (0x12000100 + 8 * p) 0).onPar fun r => { r with rings := del r.rings p }

/-- PAR_BREACH_RING_WRITE (R434). -/
def execParBreachRingWrite (fn : Fn) (p : Part) (v : BitVec 64) (s : State) : Host.Outcome State Fault Refusal :=
  .next (barWrite fn (0x12000080 + 0x10 * p.val) (writeBreachRing fn p v) s)

/-! ### Preemption (R424 to R426) -/

/-- A command of partition p may name partition t (R424): its own, or any when p is bound to the PF. -/
def State.mayName (s : State) (p t : Nat) : Bool := p == t || s.parFn p == 0

/-- PAR_PREEMPT (R424): a request is posted to every launch it targets; it completes when they have completed (R426), and a preemption of the partition also
waits for its granted Dovetail steps (R176). -/
def execParPreempt (c : CmdRef) (s : State) : Host.Outcome State Fault Refusal :=
  .next (beginCmd c 0x0700 (fun k p s => do
    let t := op k 32 1 % 8
    let whole := bit k (8 * 32 + 3)
    let area := addr347 (op k 40 8)
    guardE (!s.mayName p t) (accessErr 32)
    guardE (whole && t == p) (badRsv 0 32)
    guardE (!area.tiered) (badRsv 0 40)
    match s.writeFault t true area.a (op k 48 4) with
    | some e => .error e
    | none =>
      let s := if whole then s.onPar fun r => { r with held := if r.held.contains t then r.held else r.held ++ [t] } else s
      .ok (settleRequests (s.onPar fun r => { r with requests := r.requests ++
                                                     [{ cmd := c, part := t, area := area.a, len := op k 48 4, launches := preemptTargets k s, steps := if whole then s.dvtSteps t else [] }] }))) s)

/-! ### Resumption (R428, R429) -/

/-- An array as its launch left it at the mark; what the mark did not list is zero. -/
def Arr.restore (x : Arr) (sv : SavedArr) : Arr :=
  { x with image := sv.arr.image, s := sv.arr.s, vregs := sv.arr.vregs, tables := sv.arr.tables, key := sv.arr.key, consumed := sv.arr.consumed,
           vluQueue := [], pc := sv.arr.pc, phase := .running, wait := none, gather := none, segment := none,
           chainOpen := sv.arr.chainOpen, chain := sv.arr.chain, pairs := sv.arr.pairs, carry := sv.arr.carry,
           launch := sv.arr.launch.map fun l => { l with ended := false, err := none, mark := none } }

/-- One array goes on after its mark: registers, bench and listed Loft bytes are as saved. -/
def restoreArr (p : Nat) (s : State) (sv : SavedArr) : State :=
  let s := s.onArr sv.array (Arr.restore · sv)
  let s := { s with bench := memZero s.bench (sv.array * 2 ^ 18) (2 ^ 18) }
  let s := sv.lines.foldl (fun s l => s.writeBench sv.array l.1 l.2) s
  sv.grans.foldl (fun s g => s.write p false g.1 g.2) s

/-- Restores the launch of a resume entry for a PAR_RESUME: it is uncompleted again, its entry is free, and the restore is charged to the partition's HBM
regulator in the class of the PAR_RESUME (R427). -/
def restoreLaunch (c : CmdRef) (i : Nat) (r : Resume) (s : State) : State :=
  let det := r.arrs.any fun x => x.arr.launch.any (·.det)
  let s := addInflight r.cmd.q { slot := r.cmd.slot, pkt := r.pkt, stage := .running, det := det, since := s.clk, acct := r.acct } (chargeAccess r.part (s.cmdLc c) true 0 r.bytes s)
  r.arrs.foldl (restoreArr r.part) (s.onPar fun t => { t with resumes := del t.resumes i })

/-- Restores, in ascending order, the entries of a PAR_RESUME whose arrays are free; it completes when none is left. -/
def pumpResume (c : CmdRef) (s : State) : State :=
  let mine := (s.par.resuming.filter fun e => e.1 == c).map (·.2)
  let s := mine.foldl (fun s i => match find? s.par.resumes i with
    | some r =>
      if s.resumable r then
        (restoreLaunch c i r (s.onPar fun t => { t with resuming := t.resuming.erase (c, i) })).updIn c fun x => { x with acc := x.acc + 1 }
      else s
    | none => s.onPar fun t => { t with resuming := t.resuming.erase (c, i) }) s
  if s.par.resuming.any fun e => e.1 == c then s
  else match s.inflight c with
    | some x => endCmd c .ok x.acc 0 s
    | none => s

/-- PAR_RESUME (R428). While it runs, a further event of it restores the launches whose arrays have become free (log 64). -/
def execParResume (c : CmdRef) (s : State) : Host.Outcome State Fault Refusal :=
  .next <|
    match s.running c with
    | some i => if opcode i.pkt = 0x0701 then pumpResume c s else s
    | none => beginCmd c 0x0701 (fun k p s => do
        let all := bit k (8 * 34)
        let xs := resumeTargets k s
        guardE (!all && xs.isEmpty) (accessErr 0xF8)
        let t := if all then op k 35 1 % 8 else (xs.map (·.2.part)).headD 0
        guardE (!s.mayName p t) (accessErr (if all then 35 else 32))
        let s := if bit k (8 * 34 + 1) then s.onPar fun r => { r with held := r.held.erase t } else s
        .ok (pumpResume c (s.onPar fun r => { r with resuming := r.resuming ++ xs.map fun e => (c, e.1) }))) s

/-- PAR_DISCARD (R429): the entry and its share of the area are free; its launch never completes again. -/
def execParDiscard (c : CmdRef) (s : State) : Host.Outcome State Fault Refusal :=
  .next (wholeCmd c 0x0702 (fun k p s =>
    match s.resumeEntry (op k 32 2) with
    | none => .error (accessErr 0xF8)
    | some (i, r) => do
      guardE (!s.mayName p r.part) (accessErr 32)
      .ok { s := s.onPar fun t => { t with resumes := del t.resumes i, resuming := t.resuming.filter fun e => e.2 != i }, result := r.bytes }) s)

end Sys2Proof.Machine
end

