-- ==== Sys2Proof/Machine/PegCmd.lean ====
section
/-! DEFINITION. The commands of the peg class (Table Cmd-4) and the PEG_VALUE register. -/

namespace Sys2Proof.Machine

/-- NOP (R37): nothing beyond its waits and signal. -/
def execNop (c : CmdRef) (s : State) : Host.Outcome State Fault Refusal :=
  .next (wholeCmd c 0x0100 (fun _ _ s => .ok { s := s }) s)

/-- The peg that a peg command names. -/
def pegOperand (k : Block) : Nat := op k 32 2 % 2 ^ 14

/-- PEG_ADD (R37, R38): adds modulo 2^64 and returns the old value. -/
def execPegAdd (c : CmdRef) (s : State) : Host.Outcome State Fault Refusal :=
  .next (wholeCmd c 0x0101 (fun k _ s =>
    let u := PegUpd.add (BitVec.ofNat 64 (op k 40 8))
    .ok { s := pegUpdate (pegOperand k) (.queue c.q) u s, result := (s.pegBefore (pegOperand k) (.queue c.q) u).toNat }) s)

/-- PEG_SET (R37, R38): sets the peg and returns the old value. -/
def execPegSet (c : CmdRef) (s : State) : Host.Outcome State Fault Refusal :=
  .next (wholeCmd c 0x0102 (fun k _ s =>
    let u := PegUpd.set (BitVec.ofNat 64 (op k 40 8))
    .ok { s := pegUpdate (pegOperand k) (.queue c.q) u s, result := (s.pegBefore (pegOperand k) (.queue c.q) u).toNat }) s)

/-- PEG_READ (R37): returns the value the peg had at grant. -/
def execPegRead (c : CmdRef) (s : State) : Host.Outcome State Fault Refusal :=
  .next (wholeCmd c 0x0103 (fun _ _ s => .ok { s := s, result := match s.inflight c with
    | some i => i.atGrant.toNat
    | none => 0 }) s)

/-- The function's partition owns the peg (R62). -/
def State.fnOwnsPeg (s : State) (fn p : Nat) : Bool :=
  match s.partOfFn fn with
  | some r => s.inRange r 1 p
  | none => false

/-- A write of PEG_VALUE by a function: only the function of the peg's partition sets it (R62). -/
def writePeg (fn p : Nat) (v : W64) (s : State) : State :=
  if s.fnOwnsPeg fn p then pegUpdate p .value (.set v) s else logWrite fn 5 (0x10000000 + 8 * p) s

/-- PEG_VALUE_WRITE (R62): a set, dropped and logged for a peg outside the function's partition. -/
def execPegValueWrite (fn : Fn) (p : PegIx) (v : BitVec 64) (s : State) : Host.Outcome State Fault Refusal :=
  .next (barWrite fn (0x10000000 + 8 * p.val) (writePeg fn p v) s)

end Sys2Proof.Machine
end

