-- ==== Sys2Proof/Machine/CsrWrite.lean ====
section
/-! DEFINITION. Register writes through BAR0 (R12 to R14, R515 to R520): shape, access, legal values, holds, and the effect of every register. -/

namespace Sys2Proof.Machine

/-! ### Legal values and holds -/

/-- A write with its holds and legal values: dropped and logged with kind 7 where it is held, with kind 6 where a value is out of range. -/
def checked (off : Nat) (held bad : Bool) (act : State → State) (s : State) : State :=
  if held then logWrite 0 7 off s else if bad then logWrite 0 6 off s else act s

/-- Sets a register to the fields of a mask; reserved bits are ignored (R14). -/
def setMasked (off mask : Nat) (v : W64) (s : State) : State := s.setReg off (v &&& BitVec.ofNat 64 mask)

/-- A number lies in a range. -/
def within (lo hi x : Nat) : Bool := decide (lo ≤ x) && decide (x ≤ hi)

/-- W1C: the bits of a field stay that are written 0. -/
def w1c {w : Nat} (old : BitVec w) (v : W64) (lo : Nat) : BitVec w := old &&& ~~~(BitVec.ofNat w (v.toNat / 2 ^ lo))

/-! ### Ports (LNKB, LNKC, LNKH) -/

/-- A bent port that a half-bent leaves idle stops, and an enabled one that it leaves idle no more trains (R257). -/
def settleIdle (f : Nat) (s : State) : State :=
  let x := s.port f
  if s.idlePort f then (if x.st = .disabled then s else stopPort f .disabled s)
  else if portClass f = 0 ∧ x.st = .disabled ∧ bit (s.portCfg f) 0 then enter f .detect (s.onPort f fun x => { x with trainAt := s.clk, reason := 0 })
  else s

/-- A write of LNKx_PORT_CFG: half_bent is held while enable is 1 (R297); then expected_peer, enable, retrain and widen act. -/
def writePortCfg (f : Nat) (v : W64) (s : State) : State :=
  let old := s.portCfg f
  let cls := portClass f
  let halfField := decide (cls = 0) && f % 2 == 0 && decide (f < 14)
  if halfField && bit old 0 && bit old 4 != bit v 4 then logWrite 0 7 (portReg f 0) s
  else
    let w := setFld old 63 48 (fld v 63 48)
    let w := if halfField then setFld w 4 4 (fld v 4 4) else w
    let w := if cls = 2 then w else setFld w 1 1 (fld v 1 1)
    let s := s.setReg (portReg f 0) w
    let s := if cls = 2 then setExpectedPeer f (fld v 47 28) s else s
    let s := if bit old 4 != bit w 4 then settleIdle 14 (settleIdle (f + 1) s) else s
    let s := setEnable f (bit v 0) s
    let s := if bit v 2 then retrainPort f s else s
    if bit v 3 then widenPort f s else s

/-- A write to a register of a port, at its offset within the port. -/
def writePort (f o : Nat) (v : W64) (s : State) : State :=
  let off := portReg f o
  let up := bit (s.portCfg f) 0
  match o with
  | 0 => writePortCfg f v s
  | 0x20 => s.onPort f fun x => { x with event := w1c x.event v 0 }
  | 0x40 => checked off up (!within 1 128 (fld v 21 14) || fld v 13 6 == 0) (setMasked off 0xFFFFFFFFFFFFFFC0 v) s
  | 0x68 => checked off up false (setMasked off 0xFFFFFFFFFFFF v) s
  | 0x70 => checked off up false (setMasked off 0xFFFFFFFFFFFF v) s
  | _ => if within 0x48 0x60 o then checked off up false (fun s => s.setReg off v) s else s

/-! ### Fabric blocks -/

/-- A write of TRS_SHAPER_CFG (R338): on enable the credit is the burst. -/
def writeShaper (i : Nat) (v : W64) (s : State) : State :=
  let off := 0x08001000 + 0x10 * i
  checked off false (bit v 0 && (decide (fld v 47 24 < 65) || fld v 63 48 == 0)) (fun s =>
    let first := bit v 0 && !bit (s.shaperCfg i) 0
    let s := setMasked off 0xFFFFFFFFFF000003 v s
    if first then s.onFab fun b => { b with shapers := put b.shapers i { credit := (fld v 63 48 * 65536 : Nat), last := s.trsNow } } else s) s

/-- A write to the TRS or TEL block. -/
def writeTruss (off : Nat) (v : W64) (s : State) : State :=
  if within 0x08000400 0x08000410 off then
    checked off false (fld v 23 16 == 0 || fld v 15 8 == 0 || fld v 7 0 == 0) (setMasked off 0xFFFFFF v) s
  else if off = 0x08000500 then
    checked off false (!within 8 20 (fld v 4 0)) (fun s =>
      let s := setMasked off 0x1F v s
      if bit v 5 then qsampleClear s else s) s
  else if within 0x08001000 0x080012FF off then (if off % 16 = 0 then writeShaper ((off - 0x08001000) / 16) v s else s)
  else if off = 0x09000000 then setTelCfg v s
  else if off = 0x09000008 then
    checked off (fld (s.reg 0x09000000) 38 37 != 0) (!within 4 20 (fld v 4 0)) (setMasked off 0xFFFFFFFFFFFFF01F v) s
  else if off = 0x09000018 then
    checked off false (decide (diff32 s.fab.telProd (BitVec.ofNat 32 (fld v 31 0)) > ringSize (s.reg 0x09000008))) (setMasked off 0xFFFFFFFF v) s
  else s

/-- A write of RTE_EPOCH_CTL (R316, R317): snap, then op. -/
def writeEpochCtl (v : W64) (s : State) : State :=
  let s := if bit v 2 then snapDrain s else s
  match fld v 1 0 with
  | 1 => drainBegin s
  | 2 => drainEnd s
  | 3 => armSwitch s
  | _ => s

/-- A write to the RTE block: the tables of Table Route-1 take the staged copy (R299). -/
def writeRoute (off : Nat) (v : W64) (s : State) : State :=
  if off = 0x0D000000 then setMasked off 0x11FFF0 v s
  else if off = 0x0D000008 then checked off false (fld v 9 0 == 0) (setMasked off 0x303FF v) s
  else if off = 0x0D000010 then setMasked off 0xFFFF00000000 v s
  else if off = 0x0D000018 then writeEpochCtl v s
  else if off = 0x0D000020 then s.setReg off v
  else if off = 0x0D000030 then setMasked off 0x7FF v s
  else if off = 0x0D000040 then
    let s := setMasked off 0xFFFFFFFF00000000 v s
    if bit v 0 then sweepStart s else s
  else if off = 0x0D000050 then setMasked off 0xFFFFFFFFFFFFF01F v s
  else if within 0x0D000100 0x0D00012F off then setMasked off 0xFFFC1F v s
  else if within 0x0D000200 0x0D00027F off then setMasked off 0x1F v s
  else if within 0x0D000400 0x0D0005FF off then setMasked off 0xFFFC00FF v s
  else if within 0x0D010000 0x0D013FFF off then checked off false (decide (fld v 31 30 ≥ 2)) (setMasked off 0xFF807FF0 v) s
  else s

/-! ### Memory, engines and partitions -/

/-- A write of HBM_MAP_CFG or HBM_SCRUB_CFG. -/
def writeHbm (off : Nat) (v : W64) (s : State) : State :=
  if off = 0x04000208 then setMasked off 0xFFFFFFFFFFFF v s
  else if decide (off < 0x04000080) && off % 16 == 0 then
    checked off false (fld v 4 0 != 0 && !within 10 26 (fld v 4 0)) (setMasked off 0xFFFFFFFFFFFFF01F v) s
  else s

/-- Device totals of Table Part-1. -/
def resourceTotal (k : Nat) : Nat := [1024, 16384, 1024, 4, 1024, 4096, 16, 8, 1024, 2048, 4096, 64, 16384].getD k 0

/-- A write of PAR_BREACH_CONS: prod − cons is at most the entry count. -/
def writeBreachCons (fn p : Nat) (v : W64) (s : State) : State :=
  let off := 0x12000100 + 8 * p
  if !s.mayBreach fn p then logWrite fn 5 off s
  else if diff32 (getD s.par.rings p {}).prod (BitVec.ofNat 32 (fld v 31 0)) > ringSize (s.breachRing p) then logWrite fn 6 off s
  else setMasked off 0xFFFFFFFF v s

/-- A write to the PAR block (R413, R414, R416, R419). -/
def writePar (fn off : Nat) (v : W64) (s : State) : State :=
  let o := off - 0x12000000
  if o < 0x40 then pfOnly fn off (writeParCfg (o / 8) v) s
  else if o < 0x80 then
    pfOnly fn off (checked off (s.parValid ((o - 0x40) / 8)) (decide (fld v 5 0 > 32)) (fun s => s.setReg off v)) s
  else if o < 0x100 then (if o % 16 = 0 then writeBreachRing fn ((o - 0x80) / 16) v s else pfOnly fn off id s)
  else if o < 0x140 then writeBreachCons fn ((o - 0x100) / 8) v s
  else if within 0x400 0x7FF o then
    pfOnly fn off (checked off (s.parValid ((o - 0x400) / 0x80)) (decide (fld v 31 0 + fld v 63 32 > resourceTotal ((o - 0x400) % 0x80 / 8)))
      (fun s => s.setReg off v)) s
  else if within 0x1000 0x11FF o then
    pfOnly fn off (checked off false (bit v 0 && (decide (fld v 47 16 < 65) || fld v 63 48 == 0)) (setReg419 ((o - 0x1000) / 8) v)) s
  else pfOnly fn off id s

/-! ### Queues and pegs -/

/-- A write to the WQ block (R58, R60, R61): the PF and the function of the queue. -/
def writeWq (fn off : Nat) (v : W64) (s : State) : State :=
  let o := off - 0x0F000000
  let q := o % 0x10000 / 0x40
  let cq := decide (o ≥ 0x10000)
  match o % 0x40 with
  | 0 =>
    let on := if cq then bit (s.cqCfg q) 8 else s.wqOn q
    if !s.mayWriteQueue fn q then logWrite fn 5 off s else if on then logWrite fn 7 off s else setMasked off 0xFFFFFFFFFFFFF001 v s
  | 8 => if cq then writeCqCfg fn q v s else writeWqCfg fn q v s
  | 0x18 =>
    if !s.mayWriteQueue fn q then logWrite fn 5 off s
    else
      let x := s.queue q
      s.setQueue q { x with fetchErr := x.fetchErr && !bit v 1, doorbellErr := x.doorbellErr && !bit v 0 }
  | _ => if s.mayWriteQueue fn q then s else logWrite fn 5 off s

/-! ### Faults, security, power, time and resets -/

/-- A write to the FLT block. -/
def writeFlt (off : Nat) (v : W64) (s : State) : State :=
  if off = 0x14000008 then writeMember v s
  else if off = 0x14000010 then s.onFlt fun x => { x with mask := v }
  else if off = 0x14000018 then writeVerdict v s
  else if off = 0x14000020 then s.onFlt fun x => { x with gap := x.gap && !bit v 0 }
  else if off = 0x14000028 then checked off false (!ringLogOk v) (setMasked off 0xFFFFFFFFFFFFF01F v) s
  else if off = 0x14000038 then
    checked off false (decide (diff32 s.flt.evProd (BitVec.ofNat 32 (fld v 31 0)) > ringSize s.evRing)) (setMasked off 0xFFFFFFFFFFF v) s
  else if off ≥ 0x14000100 then
    checked off (!s.flt.gap) false (fun s => s.onFlt fun x =>
      { x with hist := put x.hist ((off - 0x14000100) / 8) (v &&& 0xFFFFFFFFF0000001) }) s
  else s

/-- A write of SEC_CTL (R470, R482): zeroize acts only with its confirmation. -/
def writeSecCtl (v : W64) (s : State) : State :=
  if bit v 0 && fld v 63 32 != 0x5A45524F then logWrite 0 6 0x15000070 s
  else
    let s := if bit v 1 then svnCommit s else s
    if bit v 0 then zeroize 3 s else s

/-- A write to the SEC block (R472): an anchor word takes one write after each reset, a storage tag only while its partition is not valid. -/
def writeSec (off : Nat) (v : W64) (s : State) : State :=
  let o := off - 0x15000000
  if o = 0 then { s with sec := { s.sec with resetCause := w1c s.sec.resetCause v 8 } }
  else if within 0x40 0x6F o then
    checked off (s.sec.anchored.contains ((o - 0x40) / 8)) false (fun s =>
      { s.setReg off v with sec := { s.sec with anchored := s.sec.anchored ++ [(o - 0x40) / 8] } }) s
  else if o = 0x70 then writeSecCtl v s
  else if within 0x100 0x13F o then checked off (s.parValid ((o - 0x100) / 8)) false (fun s => s.setReg off v) s
  else s

/-- The values PWR_CFG takes (R493): every other write is dropped and logged. -/
def pwrCfgOk (v : W64) : Bool :=
  within 1800 (if Config.grade1800 then 1800 else 2200) (fld v 51 40) && within 1000 (fld v 51 40) (fld v 39 28) &&
  decide (fld v 27 20 ≤ 60) && within 16 gradeClk (fld v 19 12) && within 80 105 (fld v 11 4)

/-- A write to the PWR block. -/
def writePwr (off : Nat) (v : W64) (s : State) : State :=
  if off = 0x16000000 then checked off false (!pwrCfgOk v) (fun s => settleAlert (settleBrake (setMasked off 0xFFFFFFFFFFFF3 v s))) s
  else if off = 0x16000008 then settleAlert (s.onPwr fun p => { p with vinLow := p.vinLow && !bit v 5, limited := p.limited && !bit v 4 })
  else s

/-- A write of TIM_CFG (R504): with another source or SYNC port the servo acquires anew; with none hall time runs free. -/
def writeTimCfg (v : W64) (s : State) : State :=
  let src := fld v 47 44
  checked 0x19000000 false (decide (src > 3)) (fun s =>
    let same := fld (s.reg 0x19000000) 47 38 == fld v 47 38
    let s := setMasked 0x19000000 0xFFC000000001 v s
    if same then s
    else s.onPwr fun p => { p with stepped := false, slew := 0, slewAt := 0, timState := if src = 0 then 0 else 1 }) s

/-- A write of RST_CTL (R509): warm acts only with its confirmation, and absorbs a partition reset. -/
def writeRstCtl (v : W64) (s : State) : State :=
  if bit v 0 && fld v 63 32 != 0x52535457 then logWrite 0 6 0x18000000 s
  else if bit v 0 then warmReset 2 s
  else if bit v 8 then partReset (fld v 11 9) s
  else s

/-- A write of REM_CFG. -/
def writeRem (off : Nat) (v : W64) (s : State) : State :=
  if off = 0x0E000000 then
    checked off false (!within 1 16000 (fld v 49 36) || fld v 35 20 == 0 || decide (fld v 19 8 > 2000)) (setMasked off 0x3FFFFFFFFFF03 v) s
  else s

/-- Clears the W1C bits of an array's arithmetic status. -/
def writeArith (a : Nat) (v : W64) (s : State) : State :=
  s.onArr a fun x => { x with residueFault := x.residueFault && !bit v 1, satSeen := x.satSeen && !bit v 0 }

/-- Clears the W1C bits of a score array's status. -/
def writeScore (i : Nat) (v : W64) (s : State) : State :=
  s.onDvt fun d => { d with arrays := upd d.arrays i {} fun x => { x with residueFault := x.residueFault && !bit v 1, satSeen := x.satSeen && !bit v 0 } }

/-- A write to the MGT block: the error log and the aperture of a function are its own or the PF's. -/
def writeMgt (fn off : Nat) (v : W64) (s : State) : State :=
  if off = 0x18 then pfOnly fn off (writeRecovCtl v) s
  else if within 0x100 0x147 off then
    let f := (off - 0x100) / 8
    if fn ≠ 0 ∧ fn ≠ f then logWrite fn 5 off s
    else if bit v 63 then s.onHost fun h => { h with errLog := upd h.errLog f {} fun l => { l with valid := false, count := 0 } }
    else s
  else if within 0x200 0x247 off then
    if fn ≠ 0 ∧ fn ≠ (off - 0x200) / 8 then logWrite fn 5 off s else setMasked off 0x3FFFFFF v s
  else pfOnly fn off id s

/-- A 64-bit write that reaches a register, by block (Table Host-3). Read-only registers ignore it; only the PF reaches the rest (R515). -/
def writeReg (fn off : Nat) (v : W64) (s : State) : State :=
  match off / 2 ^ 24 with
  | 0x00 => writeMgt fn off v s
  | 0x01 => pfOnly fn off (fun s => if within 0x01800000 0x018007FF off then writeArith ((off - 0x01800000) / 8) v s else s) s
  | 0x03 => writeBayCfg fn ((off - 0x03000000) / 8) v s
  | 0x04 => pfOnly fn off (writeHbm off v) s
  | 0x06 => pfOnly fn off (fun s => if off < 0x06000020 then writeScore ((off - 0x06000000) / 8) v s else s) s
  | 0x08 => pfOnly fn off (writeTruss off v) s
  | 0x09 => pfOnly fn off (writeTruss off v) s
  | 0x0A => pfOnly fn off (writePort ((off - 0x0A000000) / 0x100) (off % 0x100) v) s
  | 0x0B => pfOnly fn off (writePort (15 + (off - 0x0B000000) / 0x100) (off % 0x100) v) s
  | 0x0C => pfOnly fn off (writePort (23 + (off - 0x0C000000) / 0x100) (off % 0x100) v) s
  | 0x0D => pfOnly fn off (writeRoute off v) s
  | 0x0E => pfOnly fn off (writeRem off v) s
  | 0x0F => writeWq fn off v s
  | 0x10 => writePeg fn ((off - 0x10000000) / 8) v s
  | 0x11 => pfOnly fn off (fun s => if off = 0x11000408 ∧ bit v 63 then s.onYrd ({ · with logValid := false }) else s) s
  | 0x12 => writePar fn off v s
  | 0x13 => pfOnly fn off (fun s => if off < 0x13000040 then setMasked off 1 v s else s) s
  | 0x14 => pfOnly fn off (writeFlt off v) s
  | 0x15 => pfOnly fn off (writeSec off v) s
  | 0x16 => pfOnly fn off (writePwr off v) s
  | 0x17 => pfOnly fn off (fun s => s.onPwr fun p => { p with refLost := w1c p.refLost v 32 }) s
  | 0x18 => pfOnly fn off (fun s => if off = 0x18000000 then writeRstCtl v s else s) s
  | 0x19 => pfOnly fn off (fun s => if off = 0x19000000 then writeTimCfg v s else if off = 0x19000008 then s.setReg off v else s) s
  | _ => pfOnly fn off id s

/-! ### Shapes (R518 to R520) -/

/-- The RW bits that a register without W64 keeps in its other half: FLT_EVENT_CONS and TEL_HDR_CONS. -/
def State.keptHalf (s : State) (off : Nat) : W64 := if off = 0x14000038 then s.evCons else if off = 0x09000018 then s.reg off else 0

/-- One 64-bit aligned write (R517). -/
def writeWord (fn off : Nat) (v : W64) (s : State) : State :=
  match regAt off with
  | none => logErr fn 4 3 0 true off s
  | some _ => writeReg fn off v s

/-- A 32-bit write changes the addressed half; in the other half a W1C bit acts as if written 0 (R519). A W64 register drops it. -/
def writeHalf (fn off : Nat) (v : Nat) (s : State) : State :=
  let base := off / 8 * 8
  match regAt base with
  | none => logErr fn 4 2 0 true off s
  | some r =>
    if r.w64 then logErr fn 2 2 0 true off s
    else
      let w := if off % 8 = 0 then setFld (s.keptHalf base) 31 0 v else setFld (s.keptHalf base) 63 32 v
      writeReg fn base w s

/-- A register write asks for a partition reset or a fabric-port reset. -/
def asksReset (off : Nat) (v : W64) : Bool :=
  (off == 0x18000000 && bit v 8 && !bit v 0) || ([0x0A, 0x0B, 0x0C].contains (off / 2 ^ 24) && off % 0x100 == 0 && (regAt off).isSome && bit v 2)

/-- A BAR0 write of n bytes at an offset (Table Host-4). During a wider reset it is dropped (R525); one that asks for a narrower reset is logged (R510). -/
def csrWrite (fn off n v : Nat) (s : State) : State :=
  if n = 0 then s
  else if !s.pwr.ready then (if n = 8 ∧ asksReset off (BitVec.ofNat 64 v) then logWrite fn 7 off s else s)
  else if n = 8 ∧ off % 8 = 0 then barWrite fn off (writeWord fn off (BitVec.ofNat 64 v)) s
  else if n = 4 ∧ off % 4 = 0 then barWrite fn off (writeHalf fn off v) s
  else if n = 1 ∨ (n = 2 ∧ off % 2 = 0) then barWrite fn off (logErr fn 1 (widthCode n) 0 true off) s
  else if n > 8 ∧ off % 8 = 0 ∧ n % 8 = 0 then
    (List.range (n / 8)).foldl (fun s i => barWrite fn (off + 8 * i) (writeWord fn (off + 8 * i) (BitVec.ofNat 64 (v / 2 ^ (64 * i)))) s) s
  else barWrite fn off (logErr fn 3 (widthCode n) 0 true off) s

/-- CSR_WRITE (R12, R518): a register of BAR0, or an offset of BAR2 (Table Host-2). -/
def execCsrWrite (fn : Fn) (addr : RegAddr) (bytes v : Nat) (s : State) : Host.Outcome State Fault Refusal :=
  .next (match addr with
    | .bar0 off => csrWrite fn off.toNat bytes v s
    | .bar2 off => bar2Write fn off.toNat bytes v s)

end Sys2Proof.Machine
end

