-- ==== Sys2Proof/Machine/Secure.lean ====
section
/-! DEFINITION. SPDM (R473), the vendor-defined requests of the fabric manager (R474, R475) and the debug unlock (R480, R481). -/

namespace Sys2Proof.Machine

/-- The security core runs: SPDM messages that come before are discarded (R531). -/
def State.secRuns (s : State) : Bool := s.powered && s.pwr.ready && s.host.bootState != 4

/-- An SPDM ERROR response (DSP0274, log 73): version, 0x7F, code, data. -/
def spdmError (ver : Byte) (code : Nat) : Out := .response [ver, 0x7F, BitVec.ofNat 8 code, 0]

/-- A response whose contents a standard fixes: version and response code, then free bytes (log 3, log 73). -/
def spdmAnswer (ver : Byte) (req : Nat) (s : State) : State :=
  let d := s.draw
  let b := d.2.freeBytes ((Config.freeWord d.1).toNat % 1024)
  b.2.emit (.response ([ver, BitVec.ofNat 8 (req % 128)] ++ b.1))

/-- The SPDM requests of Table Sec-5, by DSP0274 code: those that need the alias key, and the others. -/
def spdmSigned : List Nat := [0x83, 0xE0, 0xE4]
/-- Requests that need no signature. -/
def spdmPlain : List Nat := [0x84, 0xE1, 0xE3, 0x81, 0x82, 0xE5, 0xE8, 0xE9, 0xEA, 0xEB, 0xEC, 0x85, 0x86, 0xFF]

/-- The device supports a request (Table Sec-5): its version, its code, measurements with a signature only, and certificate slot 0 only (log 73). GET_VERSION
comes before a version is agreed. -/
def spdmSupported (bs : List Byte) : Bool :=
  let b (i : Nat) : Nat := (bs.getD i 0).toNat
  (spdmSigned ++ spdmPlain).contains (b 1) && (b 1 == 0x84 || b 0 == 0x12 || b 0 == 0x13) && (b 1 != 0xE0 || b 2 % 2 == 1) &&
  (b 1 != 0x82 || b 2 % 16 == 0) && (b 1 != 0x83 || b 2 == 0) && (b 1 != 0xE4 || b 3 == 0)

/-- What a request does to the sessions (R473, R474): KEY_EXCHANGE opens one, FINISH completes it, with mutual authentication or without, which the
certificates decide (free, log 3), END_SESSION closes it. -/
def spdmSession (req : Nat) (s : State) : State :=
  let d := s.draw
  let xs := s.sec.sessions
  match req with
  | 0xE4 => { s with sec := { s.sec with sessions := xs ++ [false] } }
  | 0xE5 => { d.2 with sec := { s.sec with sessions := xs.dropLast ++ (if xs.isEmpty then [] else [Config.freeBit d.1]) } }
  | 0xEC => { s with sec := { s.sec with sessions := xs.dropLast } }
  | _ => s

/-- SPDM_REQUEST (R473): byte 0 version, byte 1 request code. A request outside Table Sec-5 is answered with ERROR UnsupportedRequest; one that needs
the alias key while the seed is disabled with ERROR (R481), its code free; a fifth session with ERROR. -/
def execSpdmRequest (bs : List Byte) (s : State) : Host.Outcome State Fault Refusal :=
  .next <|
    let ver := bs.getD 0 0
    let req := (bs.getD 1 0).toNat
    if !s.secRuns then s
    else if req = 0xFE then s.emit (spdmError ver 4)
    else if !spdmSupported bs then s.emit (spdmError ver 7)
    else if (spdmSigned.contains req && !s.seedOk) || (req = 0xE4 && s.sec.sessions.length ≥ 4) then
      let d := s.draw
      d.2.emit (spdmError ver ((Config.freeWord d.1).toNat % 256))
    else spdmSession req (spdmAnswer ver req s)

/-! ### Vendor-defined requests (R474, R475) -/

/-- A vendor-defined request: only in a session whose requester is authenticated; otherwise ERROR UnexpectedRequest. -/
def vendorReq (act : State → State) (s : State) : State :=
  if !s.secRuns then s else if s.sec.sessions.contains true then act s else s.emit (spdmError 0x12 4)

/-- A vendor-defined response: the status byte, 0 done or 1 refused, and what follows. -/
def vendorDone (ok : Bool) (more : List Byte) (s : State) : State := s.emit (.response ((if ok then 0 else 1) :: more))

/-- SET_FABRIC_KEY (R475): a newer generation replaces the key; established link keys stay. -/
def execSetFabricKey (bs : List Byte) (s : State) : Host.Outcome State Fault Refusal :=
  .next (vendorReq (fun s =>
    let gen := le bs 0 4
    if bs.length = 36 ∧ (s.sec.fabricKey.isNone ∨ gen > s.sec.fabricGen.toNat) then
      vendorDone true [] { s with sec := { s.sec with fabricKey := some (le bs 4 32), fabricGen := BitVec.ofNat 32 gen } }
    else vendorDone false [] s) s)

/-- SET_HALL_CAK (R475): the port's MKA restarts under the new CAK; a running port keeps its SAK until MKA has made the next (log 74). -/
def execSetHallCak (bs : List Byte) (s : State) : Host.Outcome State Fault Refusal :=
  .next (vendorReq (fun s =>
    let p := le bs 0 1
    if bs.length = 52 ∧ p ≤ 9 ∧ le bs 1 3 = 0 then
      let s := { s with sec := { s.sec with cak := put s.sec.cak p (le bs 4 48) } }
      vendorDone true [] (s.onPort (23 + p) fun x => { x with sakAt := s.clk, sak := if x.st = .up ∨ x.st = .managementOnly then x.sak else none })
    else vendorDone false [] s) s)

/-- SEC_KEY_STATUS. -/
def State.keyStatus (s : State) : W64 :=
  BitVec.ofNat 64 (s.sec.fabricGen.toNat * 2 ^ 32 + s.sec.partKeys.toNat * 256 + b2n s.sec.fabricKey.isSome)

/-- GET_KEY_STATUS (R475). -/
def execGetKeyStatus (s : State) : Host.Outcome State Fault Refusal :=
  .next (vendorReq (fun s => vendorDone true (toBytes 8 s.keyStatus.toNat) s) s)

/-! ### Debug unlock (R480, R481) -/

/-- The certificate of R480 is accepted (R481). -/
def State.unlockOk (s : State) (bs : List Byte) : Bool :=
  let key := le bs 1 1
  le bs 0 1 == 0x11 && decide (key < 4) && le bs 2 6 == 0 && le bs 8 8 == Config.serial.toNat &&
  le bs 16 32 == (Config.nonce s.sec.nonceAt).toNat && s.sec.lifecycle == 2 &&
  Config.ecdsaOk (Config.debugKey false key) (slice bs 0 48) (slice bs 48 96) && Config.mldsaOk (Config.debugKey true key) (slice bs 0 48) (slice bs 144 4627)

/-- DBG_UNLOCK (R481): accepted, every key and the seed go and a warm reset ends in debug level 1; refused, the failure counts and a new nonce is
drawn; after 8 failures every attempt is refused until power-on. -/
def execDbgUnlock (bs : List Byte) (s : State) : Host.Outcome State Fault Refusal :=
  .next <|
    if !s.secRuns || decide (s.sec.unlockFails ≥ 8) then s
    else if bs.length = 4771 && s.unlockOk bs then
      let s := warmReset 4 (latchCause 4 { s with sec := { s.sec with seedOff := true } })
      { s with sec := { s.sec with debugLevel := 1 } }
    else { s with draws := s.draws + 1, sec := { s.sec with unlockFails := s.sec.unlockFails + 1, nonceAt := s.draws } }

end Sys2Proof.Machine
end

