-- ==== Sys2Proof/Machine/CsrRead.lean ====
section
/-! DEFINITION. Register reads through BAR0: what every register shows (the register tables of every chapter), and the shapes and rights of a read
(R515, R517, R518, R521). The opcode table has no row for a read, because a read has no effect beyond the error log (R11): no command calls these. -/

namespace Sys2Proof.Machine

/-- A register word from its fields: lowest bit, width, value. -/
def word (fs : List (Nat × Nat × Nat)) : W64 := BitVec.ofNat 64 (fs.foldl (fun acc f => acc + ((f.2.2 % 2 ^ f.2.1) <<< f.1)) 0)

/-- Counts what satisfies a predicate. -/
def countOf {α : Type} (p : α → Bool) (xs : List α) : Nat := (xs.filter p).length

/-- A word with bit i set for every i below n that satisfies a predicate. -/
def bitsWhere (n : Nat) (p : Nat → Bool) : Nat := ((List.range n).filter p).foldl (fun m i => m + 2 ^ i) 0

/-! ### MGT -/

/-- MGT_PART_ID, by grade; after a halt on fuses the value of R460. -/
def State.partId (s : State) : W64 := if s.host.bootState = 4 then 0xFFFFFFFF else if Config.grade1800 then 0x10110101 else 0x10100101

/-- A CSR_ERR_LOG. -/
def ErrLog.view (l : ErrLog) : W64 :=
  word [(63, 1, b2n l.valid), (59, 4, l.kind.toNat), (56, 3, l.width.toNat), (48, 8, l.count.toNat), (37, 2, l.bar.toNat), (36, 1, b2n l.write),
    (0, 36, l.offset.toNat)]

/-- The MGT block. -/
def readMgt (s : State) (o : Nat) : W64 :=
  if o = 0 then s.partId
  else if o = 8 then Config.serial
  else if o = 0x10 then
    word [(48, 16, s.host.featureLevel.toNat), (16, 32, s.host.fwVersion.toNat), (8, 8, s.host.bootState.toNat), (0, 1, b2n s.host.updater.isSome)]
  else if o = 0x20 then word [(8, 8, s.host.recovCode.toNat), (0, 4, s.host.recovState.toNat)]
  else if within 0x100 0x147 o then (getD s.host.errLog ((o - 0x100) / 8) {}).view
  else s.reg o

/-! ### MXA, SEQ -/

/-- SEQ_STATUS.state. -/
def Phase.code : Phase → Nat
  | .idle => 0 | .loading => 1 | .running => 2 | .waiting => 3 | .saving => 5 | .preempted => 6

/-- SEQ_STATUS.state: an array that runs while a GATHER of it waits to fire is gathering. -/
def Arr.stateCode (x : Arr) : Nat := if x.gather.isSome && x.phase == .running then 4 else x.phase.code

/-- SEQ_STATUS.pc: the oldest unfinished instruction, which is a GATHER that has not fired (R131). -/
def Arr.oldest (x : Arr) : Nat := match x.gather with
  | some g => g.pc
  | none => x.pc

/-- Array status and arithmetic status; within a step of the model no VLU instruction is in progress. -/
def readMxa (s : State) (o : Nat) : W64 :=
  if o < 0x800 then
    let a := o / 8
    let x := s.arr a
    word [(32, 32, x.runs.toNat), (4, 4, x.mode), (2, 2, a / 64), (0, 1, b2n x.segment.isSome)]
  else if within 0x100000 0x100FFF o then
    let x := s.arr ((o - 0x100000) / 16)
    if o % 16 = 0 then x.validSlots else word [(32, 32, x.bubbles.toNat), (0, 32, x.frozen.toNat)]
  else if within 0x800000 0x8007FF o then
    let x := s.arr ((o - 0x800000) / 8)
    word [(48, 16, x.residueErrs.toNat), (16, 32, x.satEvents.toNat), (1, 1, b2n x.residueFault), (0, 1, b2n x.satSeen)]
  else
    let t := (o - 0x900000) / 8
    let x := getD s.planes t {}
    word [(32, 32, x.blocks.toNat), (16, 16, x.indexErrs.toNat), (0, 1, b2n (s.busyWith fun k => [0x02F0, 0x02F1, 0x02F2].contains (opcode k)))]

/-- The SEQ block. -/
def readSeq (s : State) (o : Nat) : W64 :=
  if o < 0x800 then
    let x := s.arr (o / 8)
    word [(48, 16, x.lastMark.toNat), (32, 16, x.gcount.toNat), (22, 10, x.faultInstr.toNat), (12, 10, x.oldest), (8, 4, x.stateCode),
      (0, 1, b2n x.image.isSome)]
  else
    let g := (s.arr ((o - 0x10000) / 8)).gatherPerf
    word [(0, 16, g.1.toNat), (16, 16, g.2.1.toNat), (32, 16, g.2.2.toNat)]

/-! ### LFT, HBM, FLS -/

/-- LFT_BAY_CFG with busy. -/
def readLft (s : State) (o : Nat) : W64 := s.bayCfg (o / 8) ||| word [(11, 1, b2n (find? s.tier.bayBusy (o / 8)).isSome)]

/-- The HBM block. -/
def readHbm (s : State) (o : Nat) : W64 :=
  if o < 0x80 then
    let p := o / 16
    if o % 16 = 0 then s.mapCfg p else word [(32, 32, s.flashUsed p), (0, 32, s.hbmUsed p)]
  else if o < 0x200 then
    let xs := s.seqsOf ((o - 0x100) / 8)
    let n (st : SeqState) : Nat := countOf (fun (e : Nat × Seq) => e.2.st == st) xs
    word [(32, 15, n .running), (16, 15, n .queued), (0, 15, n .suspended)]
  else if o = 0x200 then
    word [(48, 16, s.tier.digestMismatch.toNat), (16, 32, s.tier.tornMarked.toNat), (0, 16, s.tier.cancelledDemotes.toNat)]
  else s.scrubCfg

/-- FLS_SSD_STATUS.state. -/
def SsdState.code : SsdState → Nat
  | .absent => 0 | .ready => 1 | .failed => 2 | .removed => 3

/-- The FLS block. -/
def readFls (s : State) (o : Nat) : W64 :=
  if o < 0x40 then
    let x := getD s.tier.ssds (o / 8) {}
    word [(32, 32, x.capacity.toNat), (16, 16, x.errors.toNat), (12, 4, x.ioQueues.toNat), (0, 4, x.st.code)]
  else
    let l := getD s.tier.ledgers ((o - 0x100) / 8) {}
    word [(16, 48, l.sequence), (2, 1, b2n l.isOpen), (1, 1, b2n l.committing), (0, 1, l.slot)]

/-! ### DVT -/

/-- DVT_ENGINE_STATUS to DVT_RECV_STATUS, and the score arrays. -/
def readDvtLow (s : State) (o : Nat) : W64 :=
  let d := s.dvt
  match o with
  | 0x40 => word [(48, 16, d.ucodeVer.toNat), (32, 16, d.logitSat.toNat), (8, 4, bitsWhere 4 fun i => (find? d.tables i).isSome), (1, 1, b2n d.sel.isSome),
                  (0, 1, b2n d.stream.isSome)]
  | 0x48 => word [(32, 32, d.raised.toNat), (0, 32, d.capped.toNat)]
  | 0x50 => word [(32, 32, d.exits.toNat), (0, 32, d.skipped.toNat)]
  | 0x58 => word [(32, 32, d.overflowed.toNat), (0, 32, d.dropped.toNat)]
  | 0x60 => word [(32, 32, d.spillSent.toNat), (0, 32, d.spillAccepted.toNat)]
  | 0x68 => word [(32, 32, d.spillRejected.toNat), (0, 32, d.refused.toNat)]
  | 0x70 => word [(32, 16, countOf (fun (e : Nat × BitVec 5) => bit e.2 4) d.avail),
                  (16, 16, (d.avail.map fun e => countOf (fun i => bit e.2 i) [0, 1, 2, 3]).sum), (0, 4, bitsWhere 4 fun i => (find? d.banks i).isSome)]
  | 0x78 => word [(32, 32, d.unitsSent.toNat), (16, 16, d.bounces.toNat), (0, 16, d.staleRefused.toNat)]
  | 0x80 => word [(32, 32, d.graceServed.toNat), (0, 32, d.missing.toNat)]
  | 0x88 => word [(48, 16, d.discarded.toNat), (32, 16, d.staleReturns.toNat), (8, 16, bitsWhere 16 fun i => (find? d.slots i).isSome),
                  (0, 8, bitsWhere 8 fun i => (find? d.windows i).isSome)]
  | _ =>
    let x := getD d.arrays (o / 8) {}
    word [(48, 16, x.residueErrs.toNat), (16, 32, x.satEvents.toNat), (2, 1, b2n (s.streaming (o / 8))), (1, 1, b2n x.residueFault), (0, 1, b2n x.satSeen)]

/-- The DVT block: the views of layer entries, plans and layouts after the counters. -/
def readDvt (s : State) (o : Nat) : W64 :=
  if o < 0x2000 then readDvtLow s o
  else if o < 0x4000 then
    match s.layer ((o - 0x2000) / 8) with
    | some r => word [(48, 16, r.tauOverflow), (32, 16, r.tau), (31, 1, 1), (16, 5, r.mCand), (8, 5, r.kMax), (0, 5, r.kMin)]
    | none => 0
  else if o < 0x6000 then
    match find? s.dvt.plans ((o - 0x4000) / 8) with
    | some x => word [(48, 16, x.epoch.toNat), (32, 16, x.spillSlots), (31, 1, 1), (30, 1, b2n x.explicit), (29, 1, b2n x.spillEn), (22, 7, x.nChip),
        (16, 6, x.rChip), (0, 11, x.rCube)]
    | none => 0
  else
    let p := (o - 0x6000) / 8
    let x := s.layout p
    word [(48, 16, x.epoch.toNat), (32, 16, (x.prevEpoch.getD 0).toNat), (16, 16, if x.grace.isEmpty then 0 else (x.graceEnd - s.clk) / 1000),
      (1, 1, b2n (s.prevHeld p)), (0, 1, b2n (!x.staged.isEmpty))]

/-! ### PRL, TRS, TEL -/

/-- The PRL block. -/
def readPrl (s : State) (o : Nat) : W64 :=
  let r := s.prl
  if o = 0 then word [(48, 16, r.satEvents.toNat), (32, 16, r.staleMsgs.toNat), (19, 13, r.early.length), (0, 7, r.colls.length)]
  else if o = 8 then word [(32, 32, r.switchGran.toNat), (0, 32, r.directGran.toNat)]
  else if o = 0x10 then word [(48, 16, r.refused.toNat), (32, 16, r.retries.toNat), (16, 16, r.planeResends.toNat), (0, 16, r.relayed.toNat)]
  else if o < 0x1000 then
    match s.swPlane ((o - 0x100) / 8) with
    | some (ctx, slots, kib) => word [(40, 1, 1), (32, 8, ctx), (24, 8, slots), (0, 24, kib)]
    | none => 0
  else match find? r.groups ((o - 0x1000) / 8) with
    | some g => word [(47, 17, g.rank), (29, 18, g.members.length), (21, 8, g.swCtx.toNat), (1, 1, b2n g.regular), (0, 1, 1)]
    | none => 0

/-- A core port with an endpoint of packets (Table Truss-1). -/
def carriesPackets (c : Nat) : Bool := (decide (40 ≤ c) && decide (c ≤ 43)) || (decide (45 ≤ c) && decide (c ≤ 47))

/-- The TRS block. TRS_EGRESS_STATUS of a core port with memory or host transfers alone is free once the device has booted (log 26); eligible reads 0 while a
shaper is not enabled, as at reset. -/
def readTrs (s : State) (o : Nat) : W64 :=
  if within 0x100 0x27F o then
    let c := (o - 0x100) / 8
    if carriesPackets c then word [(32, 32, (getD s.fab.bpCycles c 0).toNat), (16, 16, (getD s.fab.egressMax c 0).toNat), (0, 16, s.egressUsed c)]
    else if s.host.bootState = 0 then 0 else Config.trussLoad c s.clk
  else if within 0x1000 0x12FF o ∧ o % 16 = 8 then
    let i := (o - 0x1000) / 16
    word [(24, 40, bitsOf 40 (s.shaper i).credit), (0, 1, b2n (bit (s.shaperCfg i) 0 && s.eligible i))]
  else if o ≥ 0x10000 then
    let q := getD s.fab.qsample ((o - 0x10000) / 0x100 * 32 + o % 0x100 / 8) {}
    word [(48, 16, q.maxDelay.toNat), (32, 16, q.delay.toNat), (16, 16, q.maxDepth.toNat), (0, 16, q.depth.toNat)]
  else s.reg (0x08000000 + o)

/-- The TEL block. -/
def readTel (s : State) (o : Nat) : W64 :=
  if o = 0x10 then word [(32, 32, s.fab.telDropped.toNat), (0, 32, s.fab.telProd.toNat)] else s.reg (0x09000000 + o)

/-! ### Links, RTE, REM -/

/-- A register of a fabric port. -/
def readPort (s : State) (f o : Nat) : W64 :=
  let x := s.port f
  match o with
  | 0x08 => word [(60, 4, x.st.code), (56, 4, x.reason), (50, 6, x.lanes), (40, 8, x.version.toNat),
                  (32, 8, x.bound.getD 0), (16, 16, x.peerFeature.toNat), (0, 16, x.peerEpoch.toNat)]
  | 0x10 => word [(60, 4, x.peerKind), (54, 6, x.peerPort), (34, 20, x.peerId.toNat), (23, 11, x.peerCube), (20, 3, x.peerPlane), (0, 1, b2n x.peerFenced)]
  | 0x18 => word [(48, 16, x.crcErrs.toNat), (32, 16, x.replays.toNat), (16, 16, x.authErrs.toNat), (8, 8, x.degrades.toNat), (0, 8, x.linkDowns.toNat)]
  | 0x20 => word [(0, 7, x.event.toNat)]
  | 0x28 => word [(0, 32, x.delay.toNat)]
  | _ => s.reg (portReg f o)

/-- The RTE block: tables read as staged, and their current copies 0x0010_0000 above (R299). -/
def readRte (s : State) (o : Nat) : W64 :=
  let b := s.fab
  if o ≥ 0x100000 then s.cur (0x0D000000 + (o - 0x100000))
  else match o with
  | 0x00 => s.rteSelf ||| word [(0, 4, Config.posId.toNat)]
  | 0x10 => word [(32, 16, s.stagedEpoch), (16, 16, b.epoch.toNat), (0, 4, b.drain)]
  | 0x18 => 0
  | 0x28 => word [(32, 32, b.snap.1.toNat), (0, 32, b.snap.2.toNat)]
  | 0x38 => word [(48, 16, b.noRoute.toNat), (32, 16, b.staleRoute.toNat), (16, 16, b.inDoubt.toNat), (8, 8, b.hopLimit.toNat), (0, 8, b.wiringErr.toNat)]
  | 0x48 => word [(32, 32, b.sweep.status.1.toNat), (15, 17, b.sweep.status.2.1), (8, 7, min 127 b.sweep.status.2.2), (7, 1, b2n b.sweep.overflow),
                  (0, 4, b.sweep.state)]
  | _ => s.reg (0x0D000000 + o)

/-- The REM block. -/
def readRem (s : State) (o : Nat) : W64 :=
  let r := s.rem
  match o with
  | 0x08 => word [(32, 16, r.batches.length), (0, 17, r.tags.length)]
  | 0x10 => word [(32, 32, r.readsCombined.toNat), (0, 32, r.faddsCombined.toNat)]
  | 0x18 => word [(48, 16, r.misrouted.toNat), (32, 16, r.stale.toNat), (16, 16, r.repeats.toNat), (0, 16, r.batchTimeouts.toNat)]
  | _ => s.reg (0x0E000000 + o)

/-! ### WQ, YRD, PAR, DET -/

/-- The WQ block. -/
def readWq (s : State) (o : Nat) : W64 :=
  let q := o % 0x10000 / 0x40
  if o ≥ 0x10000 then
    let x := s.cqOf q
    if o % 0x40 = 8 then s.cqCfg q ||| word [(49, 1, b2n x.recErr), (48, 1, b2n x.cqErr)] else s.cqBase q
  else
    let x := s.queue q
    match o % 0x40 with
    | 0x10 => word [(0, 32, x.head.toNat)]
    | 0x18 => word [(32, 16, x.granted), (2, 1, b2n x.halted), (1, 1, b2n x.fetchErr), (0, 1, b2n x.doorbellErr)]
    | _ => s.reg (0x0F000000 + o)

/-- The YRD block. -/
def readYrd (s : State) (o : Nat) : W64 :=
  if o < 0x400 then
    match s.pool (o / 16) with
    | none => 0
    | some x =>
      if o % 16 = 0 then word [(32, 3, x.owner), (8, 21, x.count), (3, 5, x.log2), (0, 3, x.use)]
      else word [(42, 10, x.cache.length), (21, 21, x.free), (4, 17, x.waiters.length), (0, 4, if x.faulty then 2 else 1)]
  else if o = 0x400 then word [(48, 16, s.yrd.doubleFree.toNat), (32, 16, s.yrd.stale.toNat), (16, 16, s.yrd.refErr.toNat), (0, 16, s.yrd.lost.toNat)]
  else match s.yrd.log with
    | some (k, src, h) => word [(63, 1, b2n s.yrd.logValid), (48, 1, b2n k), (32, 16, src), (0, 32, h.toNat)]
    | none => 0

/-- The PAR block. -/
def readPar (s : State) (o : Nat) : W64 :=
  if within 0x80 0xFF o ∧ o % 16 = 8 then
    let r := getD s.par.rings ((o - 0x80) / 16) {}
    word [(32, 16, r.dropped.toNat), (0, 32, r.prod.toNat)]
  else if o ≥ 0x10000 then
    let q := (o - 0x10000) / 16
    if o % 16 = 0 then word [(48, 16, (getD s.par.preempts q 0).toNat), (0, 48, (getD s.par.completed q 0).toNat)] else getD s.par.waitNs q 0
  else s.reg (0x12000000 + o)

/-- The DET block. -/
def readDet (s : State) (o : Nat) : W64 :=
  if o = 0x1000 then BitVec.ofNat 64 arithId
  else if o ≥ 0x100 then
    let p := (o - 0x100) / 8
    word [(48, 16, (getD s.par.combineBreaches p 0).toNat), (32, 16, (getD s.par.srRefused p 0).toNat), (0, 32, (getD s.par.unbatchedFadd p 0).toNat)]
  else s.reg (0x13000000 + o)

/-! ### FLT, SEC, PWR, CLK, RST, TIM -/

/-- The lease that remains, in µs: the 120 µs of R449 less the time since it was last extended. -/
def State.leaseLeft (s : State) : Nat :=
  match s.flt.leaseFrom with
  | some t => (120000 - (s.hall - t).toNat) / 1000
  | none => 0

/-- The FLT block. -/
def readFlt (s : State) (o : Nat) : W64 :=
  let x := s.flt
  match o with
  | 0x00 => word [(44, 20, ((s.partner s.selfPos).map s.inCube).getD 0), (24, 20, (s.cubeKingpost.map s.inCube).getD 0), (16, 1, b2n x.fenced), (0, 8, s.leaseLeft)]
  | 0x08 => word [(48, 16, x.epoch.toNat), (0, 1, b2n x.leaseEn)]
  | 0x10 => x.mask
  | 0x20 => word [(48, 16, x.staleEpoch.toNat), (32, 16, x.fencedSent.toNat), (16, 16, x.reportsMerged.toNat), (8, 8, x.verdicts.toNat), (0, 1, b2n x.gap)]
  | 0x30 => word [(32, 32, x.evDropped.toNat), (0, 32, x.evProd.toNat)]
  | _ => if o ≥ 0x100 then getD x.hist ((o - 0x100) / 8) 0 else s.reg (0x14000000 + o)

/-- The SEC block. -/
def readSec (s : State) (o : Nat) : W64 :=
  let x := s.sec
  if o = 0 then
    word [(40, 4, x.unlockFails), (32, 4, x.lifecycle.toNat), (20, 4, x.debugLevel.toNat), (8, 5, x.resetCause.toNat), (2, 1, b2n x.storageRoot),
      (1, 1, b2n x.identityOk), (0, 1, b2n x.bootOk)]
  else if o = 8 then
    word [(48, 16, x.selectSeq.toNat), (40, 8, x.imageSvn.toNat), (32, 8, x.fusedSvn.toNat), (24, 8, x.failThis.toNat), (16, 8, x.failOther.toNat), (0, 2, x.slot)]
  else if o = 0x10 then s.keyStatus
  else if within 0x20 0x3F o then word [(0, 64, (Config.nonce x.nonceAt).toNat / 2 ^ (64 * ((o - 0x20) / 8)))]
  else if o = 0x70 then 0
  else s.reg (0x15000000 + o)

/-- The PWR block. Measured quantities are free, one value for each nanosecond (log 3). -/
def readPwr (s : State) (o : Nat) : W64 :=
  let p := s.pwr
  if o = 8 then
    word [(32, 32, (Config.freeWord s.clk).toNat / 2 ^ 32), (24, 8, (Config.freeWord s.clk).toNat), (16, 8, s.clkArr), (7, 1, b2n p.thermtrip),
      (6, 1, b2n p.hotspot), (5, 1, b2n p.vinLow), (4, 1, b2n p.limited), (3, 1, b2n p.braked), (2, 1, b2n (p.brakeN || bit s.pwrCfg 0)),
      (1, 1, b2n p.unmet)]
  else if o = 0x10 then word [(48, 16, p.target * 16 / 100), (32, 16, p.burn * 16 / 6400), (25, 7, p.duty), (0, 16, p.stepsDown.toNat)]
  else s.pwrCfg

/-- The CLK, RST and TIM blocks. -/
def readTime (s : State) (block o : Nat) : W64 :=
  let p := s.pwr
  match block, o with
  | 0x17, _ => word [(32, 5, p.refLost.toNat), (0, 25, p.locked.toNat)]
  | 0x18, 8 => word [(48, 8, bitsWhere 8 p.partBusy.contains), (39, 9, bitsWhere 9 s.host.flr.contains), (8, 4, p.lastReset.toNat), (0, 1, b2n p.fwReady)]
  | 0x18, _ => 0
  | _, 0x10 => word [(36, 4, p.timState.toNat), (0, 32, p.timOffset.toNat)]
  | _, 0x18 => s.hall
  | _, _ => s.reg (0x19000000 + o)

/-! ### Rights and shapes -/

/-- The 64-bit register at an offset, as the PF reads it; zero where there is none (R517). -/
def State.csr64 (s : State) (off : Nat) : W64 :=
  let o := off % 2 ^ 24
  if (regAt off).isNone then 0
  else match off / 2 ^ 24 with
    | 0x00 => readMgt s o | 0x01 => readMxa s o | 0x02 => readSeq s o | 0x03 => readLft s o | 0x04 => readHbm s o | 0x05 => readFls s o
    | 0x06 => readDvt s o | 0x07 => readPrl s o | 0x08 => readTrs s o | 0x09 => readTel s o
    | 0x0A => readPort s (o / 0x100) (o % 0x100) | 0x0B => readPort s (15 + o / 0x100) (o % 0x100) | 0x0C => readPort s (23 + o / 0x100) (o % 0x100)
    | 0x0D => readRte s o | 0x0E => readRem s o | 0x0F => readWq s o | 0x10 => s.pegVal (o / 8) | 0x11 => readYrd s o | 0x12 => readPar s o
    | 0x13 => readDet s o | 0x14 => readFlt s o | 0x15 => readSec s o | 0x16 => readPwr s o | b => readTime s b o

/-- A VF reads the register (R515, Table Host-3): blocks marked "read", and instances of its own partition. -/
def State.vfReads (s : State) (fn off : Nat) : Bool :=
  let o := off % 2 ^ 24
  match s.partOfFn fn with
  | none => off == 0x13001000 || [0x00, 0x03, 0x08, 0x0A, 0x0B, 0x0C, 0x0D, 0x0E, 0x14, 0x16, 0x17, 0x18, 0x19].contains (off / 2 ^ 24) ||
      (off / 2 ^ 24 == 0x05 && decide (o < 0x40)) || (off / 2 ^ 24 == 0x06 && decide (o < 0x2000)) || (off / 2 ^ 24 == 0x07 && decide (o < 0x1000))
  | some p =>
    match off / 2 ^ 24 with
    | 0x01 => if o < 0x100000 then s.ownsArray p (o / 8) else if o < 0x800000 then s.ownsArray p ((o - 0x100000) / 16)
              else if o < 0x900000 then s.ownsArray p ((o - 0x800000) / 8) else false
    | 0x02 => s.ownsArray p (o % 0x10000 / 8)
    | 0x04 => if o < 0x80 then o / 16 == p else if o < 0x200 then (o - 0x100) / 8 == p else false
    | 0x05 => o < 0x40 || (o - 0x100) / 8 == p
    | 0x06 => if o < 0x2000 then true else if o < 0x6000 then s.inRange p 2 (o % 0x2000 / 8) else (o - 0x6000) / 8 == p
    | 0x07 => o < 0x1000 || s.inRange p 8 ((o - 0x1000) / 8)
    | 0x09 => false
    | 0x0F => s.inRange p 0 (o % 0x10000 / 0x40)
    | 0x10 => s.inRange p 1 (o / 8)
    | 0x11 => decide (o < 0x400) && s.inRange p 11 (o / 16)
    | 0x12 => if o < 0x80 then o % 0x40 / 8 == p else if o < 0x100 then (o - 0x80) / 16 == p else if o < 0x140 then (o - 0x100) / 8 == p
              else if o < 0x1000 then (o - 0x400) / 0x80 == p else if o < 0x10000 then (o - 0x1000) / 0x40 == p else s.inRange p 0 ((o - 0x10000) / 16)
    | 0x13 => o == 0x1000 || o % 0x100 / 8 == p
    | 0x15 => false
    | _ => true

/-- After a halt of the boot only MGT and SEC read, and after a halt on fuses only MGT_PART_ID (R529). -/
def State.haltReads (s : State) (off : Nat) : Bool :=
  if s.host.bootState = 4 then off == 0 else s.host.bootState.toNat < 2 || off / 2 ^ 24 == 0 || off / 2 ^ 24 == 0x15

/-- A register as a function reads it. -/
def State.csrFor (s : State) (fn off : Nat) : W64 :=
  if s.haltReads off && (if off / 2 ^ 24 = 0x10 then s.fnOwnsPeg fn (off % 2 ^ 24 / 8) else fn == 0 || s.vfReads fn off) then s.csr64 off else 0

/-- The pegs that a read reaches outside the function's partition are logged, one event for each 64-bit part (R62). -/
def pegReadLog (fn off n : Nat) (s : State) : State :=
  let bad (o : Nat) : Bool := o / 2 ^ 24 == 0x10 && decide (o % 2 ^ 24 < 0x20000) && !s.fnOwnsPeg fn (o % 2 ^ 24 / 8)
  (((List.range ((n + 7) / 8)).map fun i => off / 8 * 8 + 8 * i).filter bad).foldl (fun s o => logErr fn 5 (widthCode (min n 8)) 0 false (max o off) s) s

/-- A BAR0 read of n bytes (Table Host-4): the bytes, and the state with the error log. Successive words are read at once, so every group of Table
Host-5 is a snapshot. -/
def csrRead (fn off n : Nat) (s : State) : List Byte × State :=
  if !s.pwr.ready then (List.replicate n 0xFF, s)
  else if (n ≤ 8 ∧ [1, 2, 4, 8].contains n ∧ off % n = 0) ∨ (n > 8 ∧ off % 8 = 0 ∧ n % 8 = 0) then
    ((List.range n).map fun i => BitVec.ofNat 8 ((s.csrFor fn ((off + i) / 8 * 8)).toNat / 256 ^ ((off + i) % 8)), pegReadLog fn off n s)
  else if n = 0 then ([], s)
  else (List.replicate n 0xFF, logErr fn 3 (widthCode n) 0 false off s)

/-- A read of n bytes at offset o of the doorbell page of queue q (Table Cmd-1): the page of another partition's queue reads zero (R515). -/
def doorbellRead (s : State) (fn q o n : Nat) : List Byte :=
  if !s.pwr.ready then List.replicate n 0xFF
  else if !s.fnOwnsQueue fn q || decide (o ≥ 16) then List.replicate n 0
  else
    let v : Nat := if o < 8 then (s.queue q).producer.toNat else (s.cqOf q).consumer.toNat
    (List.range n).map fun i => BitVec.ofNat 8 (v / 256 ^ (o % 8 + i))

end Sys2Proof.Machine
end

