-- ==== Sys2Proof/Machine/Manage.lean ====
section
/-! DEFINITION. Management over I3C: addresses (R531), sensors and their events (R532), PLDM firmware update (R533), MGT_SENSOR (R535). -/

namespace Sys2Proof.Machine

/-! ### Addresses (R531) -/

/-- ENTDAA (R531): a dynamic address is taken while VAUX3P3 is up; a device that has one does not answer. -/
def execEntdaa (da : BitVec 7) (s : State) : Host.Outcome State Fault Refusal :=
  .next (if s.pwr.aux && s.host.i3cAddr.isNone then s.onHost fun h => { h with i3cAddr := some da } else s)

/-- The MCTP endpoint can be reached. -/
def State.mctpUp (s : State) : Bool := s.pwr.aux && s.host.i3cAddr.isSome

/-- SET_ENDPOINT_ID (R531): the bus owner assigns the EID. -/
def execSetEndpointId (eid : BitVec 8) (s : State) : Host.Outcome State Fault Refusal :=
  .next (if s.mctpUp then s.onHost fun h => { h with eid := eid } else s)

/-! ### Sensors (Table Host-7) -/

/-- The numeric sensors that a free reading stands for. -/
def numericIds : List Nat := [1, 2, 3, 4, 5, 6, 7, 8, 9, 10, 11, 12, 13, 14, 15, 16, 17]
/-- Every sensor of Table Host-7. -/
def sensorIds : List Nat := numericIds ++ [18, 32, 33, 34]

/-- A sensor is available: from its event of Table Power-5. -/
def State.sensorUp (s : State) (i : Nat) : Bool :=
  if i = 1 ∨ i = 2 ∨ i = 32 ∨ i = 33 then s.pwr.aux
  else if i = 3 ∨ i = 4 then s.pwr.aux && s.pwr.rails
  else if i ≤ 9 ∨ i = 18 then s.pwr.aux && s.powered
  else s.pwr.aux && s.powered && s.pwr.fwReady

/-- The state of a state sensor, in the order of Table Host-7. -/
def State.stateOf (s : State) (i : Nat) : Nat :=
  match i with
  | 32 => if s.pwr.thermtrip then 3 else if s.pwr.braked then 2 else if s.pwr.limited then 1 else 0
  | 33 => s.host.bootState.toNat
  | _ => b2n s.flt.fenced

/-- A fresh reading in thousandths, or a state code; measured quantities are free (log 3). -/
def State.reading (s : State) (i draw : Nat) : Int :=
  if i = 18 then (s.clkArr * 50000 : Nat)
  else if i ≥ 32 then Config.stateCode i (s.stateOf i)
  else (Config.freeWord draw).toInt % 2 ^ 31

/-- Warning and critical bounds of a numeric sensor, in thousandths: lower warning, upper warning, lower critical, upper critical (log 75). -/
def State.bounds (s : State) (i : Nat) : Option Int × Option Int × Option Int × Option Int :=
  let w (n : Nat) : Option Int := some ((n * 1000 : Nat) : Int)
  match i with
  | 1 => (some 3135, some 3465, none, none)
  | 2 => (some 11400, none, some 11200, none)
  | 3 => (none, w (if Config.grade1800 then 158 else 193), none, none)
  | 4 => (none, w (fld s.pwrCfg 51 40), none, none)
  | _ => if i ≤ 9 then (none, w (fld s.pwrCfg 11 4), none, w 125) else if i ≤ 17 then (none, w 95, none, w 105) else (none, none, none, none)

/-- A reading lies beyond a bound. -/
def outside (lo hi : Option Int) (x : Int) : Bool :=
  (match lo with
   | some b => decide (x < b)
   | none => false) ||
  (match hi with
   | some b => decide (x > b)
   | none => false)

/-- The threshold state of a numeric sensor: 0 normal, 1 warning, 2 critical; a state sensor's state. -/
def State.levelOf (s : State) (i : Nat) (x : Int) : Nat :=
  if i ≥ 32 then s.stateOf i
  else
    let b := s.bounds i
    if outside b.2.2.1 b.2.2.2 x then 2 else if outside b.1 b.2.1 x then 1 else 0

/-- One sensor is refreshed: a threshold crossed or a state changed is sent as PlatformEventMessage (R532). -/
def refreshSensor (s : State) (i : Nat) : State :=
  if !s.sensorUp i then s.onHost fun h => { h with sensors := del h.sensors i, sensorState := del h.sensorState i }
  else
    let d := s.draw
    let x := s.reading i d.1
    let n := s.levelOf i x
    let changed := match find? s.host.sensorState i with
      | some o => o != n
      | none => decide (i < 32) && n != 0
    let s := (if i < 18 then d.2 else s).onHost fun h => { h with sensors := put h.sensors i x, sensorState := put h.sensorState i n }
    if changed && s.mctpUp then s.emit (.platformEvent i n) else s

/-- PLDM_SENSOR_REFRESH (R532). -/
def execPldmSensorRefresh (s : State) : Host.Outcome State Fault Refusal := .next (sensorIds.foldl refreshSensor s)

/-- MGT_SENSOR (R535): the last reading, or a free value where the sensor has none. -/
def execMgtSensor (c : CmdRef) (s : State) : Host.Outcome State Fault Refusal :=
  .next <| mgtOnly c 0x0F00 (wholeCmd c 0x0F00 fun k _ s =>
    let d := s.draw
    match find? s.host.sensors (op k 32 2) with
    | some x => .ok { s := s, result := bitsOf 64 x }
    | none => .ok { s := d.2, result := (Config.freeWord d.1).toNat }) s

/-! ### PLDM -/

/-- A PLDM response (DSP0240, log 76): instance, type, command, completion code, and what follows. -/
def pldmAnswer (bs : List Byte) (code : Nat) (more : List Byte) (s : State) : State :=
  s.emit (.response ([bs.getD 0 0 &&& 0x1F#8, bs.getD 1 0, bs.getD 2 0, BitVec.ofNat 8 code] ++ more))

/-- PLDM_REQUEST (R532): types 0, 2 and 5 are supported; what a standard says of a response's contents is left free, and any other type is answered
with an error code, free too (log 3). -/
def execPldmRequest (bs : List Byte) (s : State) : Host.Outcome State Fault Refusal :=
  .next <|
    if !s.mctpUp then s
    else
      let d := s.draw
      if [0, 2, 5].contains ((bs.getD 1 0).toNat % 64) then
        let m := d.2.freeBytes ((Config.freeWord d.1).toNat % 1024)
        pldmAnswer bs 0 m.1 m.2
      else pldmAnswer bs (1 + (Config.freeWord d.1).toNat % 255) [] d.2

/-- Verig runs: firmware serves the update. -/
def State.fwRuns (s : State) : Bool := s.powered && s.pwr.ready && s.host.bootState == 1

/-- The PLDM update makes progress. -/
def pldmProgress (step : UpdateStep) (s : State) : State := s.onHost fun h => { h with updater := some (.pldm, s.clk), pldm := step }

/-- The whole image has come: it is verified under R467, and applied when it passes (R533). -/
def pldmVerify (s : State) : State :=
  let r := verifySlot s.otherSlot s
  if r.1 = 0 then pldmProgress .apply (writeSelect s.otherSlot r.2).2 else pldmProgress .verify r.2

/-- Firmware data arrive, 32 to 1,024 bytes at a time (R533): they go into the slot that did not boot. -/
def pldmData (data : List Byte) (s : State) : State :=
  let n := min data.length (s.host.fwLen - s.host.fwAt)
  if data.length < 32 ∨ data.length > 1024 then s
  else
    let s := xspiWrite (slotBase s.otherSlot + s.host.fwAt) (data.take n) (pldmProgress .download s)
    let s := s.onHost fun h => { h with fwAt := h.fwAt + n, verified := false }
    if s.host.fwAt = s.host.fwLen then pldmVerify s else s

/-- The PLDM update ends and releases the device. -/
def pldmEnd (s : State) : State := s.onHost fun h => { h with updater := none, pldm := .idle }

/-- PLDM_FW_UPDATE (R533, R534), by the command codes of DSP0267 (log 76): RequestUpdate holds the device, or meets ALREADY_IN_UPDATE_MODE;
UpdateComponent names the component 0x0001 and its size; the answers to RequestFirmwareData bring the image; ActivateFirmware ends the update, and
CancelUpdateComponent and CancelUpdate give it up. Other commands are answered as PLDM_REQUEST. -/
def execPldmFwUpdate (bs : List Byte) (s : State) : Host.Outcome State Fault Refusal :=
  .next <|
    let mine := s.host.pldm != .idle
    if !s.mctpUp || !s.fwRuns then s
    else match (bs.getD 2 0).toNat with
      | 0x10 => if s.host.updater.isSome then pldmAnswer bs 0x81 [] s
                else pldmAnswer bs 0 [] ((pldmProgress .download s).onHost fun h => { h with fwAt := 0, fwLen := 0 })
      | 0x14 => if mine && le bs 5 2 == 1 && decide (le bs 12 4 ≤ 2 ^ 24) then
                  pldmAnswer bs 0 [0] ((pldmProgress .download s).onHost fun h => { h with fwAt := 0, fwLen := le bs 12 4 })
                else pldmAnswer bs 1 [] s
      | 0x15 => if s.host.pldm = .download then pldmData (bs.drop 4) s else s
      | 0x1A => if s.host.pldm = .apply then pldmAnswer bs 0 [] (pldmEnd s) else pldmAnswer bs 1 [] s
      | 0x1C => if mine then pldmAnswer bs 0 [] (pldmEnd s) else pldmAnswer bs 1 [] s
      | 0x1D => if mine then pldmAnswer bs 0 [] (pldmEnd s) else pldmAnswer bs 1 [] s
      | _ =>
        let d := s.draw
        let m := d.2.freeBytes ((Config.freeWord d.1).toNat % 1024)
        pldmAnswer bs 0 m.1 m.2

end Sys2Proof.Machine
end

