-- ==== Sys2Proof/Machine/Grid.lean ====
section
/-! DEFINITION. FILL: one pass of vectors through one weight tile, dense or compressed (R91 to R99, R121 to R123, R139 to R147). -/

namespace Sys2Proof.Machine

/-! ### Operands -/

/-- The activation blocks of one vector at a byte address, with their scales (R123, R147). -/
def readAct (s : State) (a mode aw at_ scaleAt : Nat) : Except (State × Err) (List Blk) := do
  let n := tileBlocks mode
  let el ← benchIn s a at_ (n * blockBytesOf aw)
  let sc ← benchIn s a scaleAt n
  .ok ((List.range n).map fun k => readBlk aw (slice el (k * blockBytesOf aw) (blockBytesOf aw)) (le sc k 1))

/-- The four elements of a 2:4 group: two values at two positions (R140). -/
def expandGroup (p q : Nat) (v0 v1 : Int) : List Int :=
  (List.range 4).map fun i => if i = p then v0 else if i = q then v1 else 0

/-- Kept value and position of row r for output n of a mode 0x4 tile image without its descriptor (R144, R145). -/
def tileCell (ww : Nat) (im : List Byte) (n r : Nat) : Int × Nat :=
  if ww = 4 then
    let c := n / 2
    let v := signed 4 (le im (64 * c + r) 1 >>> (4 * (n % 2)))
    let i := le im (4096 + 64 * (c / 2) + 32 * (c % 2) + r / 2) 1 >>> (4 * (r % 2))
    (v, (i >>> (2 * (n % 2))) % 4)
  else (signed 8 (le im (64 * n + r) 1), (le im (4096 + 64 * (n / 4) + 16 * (n % 4) + r / 4) 1 >>> (2 * (r % 4))) % 4)

/-- Group g of output n of a tile image holds an invalid index code (R141). -/
def tileBadCode (ww : Nat) (im : List Byte) (n g : Nat) : Bool :=
  decide ((tileCell ww im n (2 * g)).2 ≥ (tileCell ww im n (2 * g + 1)).2)

/-- The elements of contraction block k of output n of a tile image. -/
def tileBlk (ww : Nat) (im : List Byte) (n k : Nat) : List Int :=
  (List.range 8).flatMap fun i =>
    let x := tileCell ww im n (2 * (8 * k + i))
    let y := tileCell ww im n (2 * (8 * k + i) + 1)
    expandGroup x.2 y.2 x.1 y.1

/-- The check of a tile descriptor line (Table Sparse-4, R146); `at_` locates the wfmt field that must agree with it (R122). -/
def checkDescriptor (d : List Byte) (ww : Nat) (at_ : Err) : Except Err Unit := do
  guardE (le d 0 1 % 16 != 1) (badGen 6 0)
  match fieldFault (ofBytes d) [rbits 0 7 5, rb 1 63] [] with
  | some o => .error (badRsv 2 o)
  | none => guardE ((le d 0 1).testBit 4 != (ww == 8)) at_

/-- The weight blocks of a compressed tile, by output column (R144 to R147). -/
def readTile4 (s : State) (a ww w wsc : Nat) (at_ : Err) : Except (State × Err) (List (List Blk)) := do
  let d ← benchIn s a w 64
  orStop s (checkDescriptor d ww at_)
  let n := tileCols 4 ww
  let im ← benchIn s a (w + 64) (if ww = 4 then 96 * 64 else 80 * 64)
  let sc ← benchIn s a wsc (4 * n)
  let any := sc.any (· != 0x80)
  if any && (List.range n).any (fun c => (List.range 32).any (tileBadCode ww im c)) then .error (s, integrity 1 7 a)
  else .ok ((List.range n).map fun c => (List.range 4).map fun k => match scale8 (le sc (4 * c + k) 1) with
    | none => Blk.zero
    | some e => ⟨tileBlk ww im c k, some e⟩)

/-- The weight blocks of a dense tile, by output column: two blocks a column, in the order of R65 (log 16). -/
def readTileDense (s : State) (a mode ww w wsc : Nat) : Except (State × Err) (List (List Blk)) := do
  let n := tileCols mode ww
  let b := blockBytesOf ww
  let el ← benchIn s a w (n * 2 * b)
  let sc ← benchIn s a wsc (2 * n)
  .ok ((List.range n).map fun c => (List.range 2).map fun k => readBlk ww (slice el ((2 * c + k) * b) b) (le sc (2 * c + k) 1))

/-- The weight blocks of a FILL's tile. -/
def readTile (s : State) (a : Nat) (f : FillOp) : Except (State × Err) (List (List Blk)) :=
  if f.mode = 4 then readTile4 s a f.ww f.w f.wsc (badRsv 1 (instrAt (s.arr a) 30)) else readTileDense s a f.mode f.ww f.w f.wsc

/-! ### The scale pass of AUTO (R73, R562) -/

/-- The largest weight exponent of each contraction block over 32 adjacent columns. -/
def colMax (blocks : Nat) (scales : List (Option Int)) (j : Nat) : List (Option Int) :=
  (List.range blocks).map fun k => maxExp ((List.range 32).map fun c => (scales[(32 * j + c) * blocks + k]?).join)

/-- The sum of two exponents, where both blocks contribute. -/
def addExp (a b : Option Int) : Option Int := match a, b with
  | some x, some y => some (x + y)
  | _, _ => none

/-- Takes the exponents of one FILL into the chain's largest: vector × 4 + output block. -/
def scanFill (s : State) (a : Nat) (f : FillOp) (m : Map Int) : Except (State × Err) (Map Int) := do
  let nb := tileBlocks f.mode
  let cols := tileCols f.mode f.ww
  let sc ← benchIn s a f.wsc (nb * cols)
  let ws := sc.map fun b => scale8 b.toNat
  let top := (List.range (cols / 32)).map (colMax nb ws)
  (List.range f.n).foldlM (fun m v => do
    let asc ← benchIn s a (f.asc + v * f.ascStride) nb
    let es := asc.map fun b => scale8 b.toNat
    .ok (top.zipIdx.foldl (fun m t => match maxExp (List.zipWith addExp es t.1) with
      | none => m
      | some e => put m (v * 4 + t.2) (match find? m (v * 4 + t.2) with
        | some o => max o e
        | none => e)) m)) m

/-- The FILLs of a chain from the one array x stands at to the one with last set. -/
def chainFills (x : Arr) : List (BitVec 256) → List FillOp
  | [] => []
  | k :: r =>
    if byteFld k 0 1 ≠ 0x10 then []
    else
      let f := fillOp x k
      if f.last then [f] else f :: chainFills x r

/-- The target exponents of an AUTO chain (R73). -/
def chainExps (s : State) (a : Nat) (f : FillOp) : Except (State × Err) (Map Int) := do
  let x := s.arr a
  let fs := match x.image with
    | some im => chainFills x (im.code.drop x.pc)
    | none => []
  let m ← fs.foldlM (fun m g => scanFill s a g m) []
  .ok (m.map fun e => (e.1, e.2 - guardShift f.aw f.ww))

/-! ### The drain (R97) -/

/-- The working sums of a vector, one for each column. -/
def readSums (s : State) (a f_sum step cols v : Nat) : Except (State × Err) (List Int) := do
  let bs ← benchIn s a ((f_sum + step * v) * 64) (8 * cols)
  .ok (unpack 64 cols bs)

/-- Adds the block products of one vector to the working sums of the columns; et gives each output block's exponent. An EXPLICIT chain counts its contributing
pairs and is split where R76 bounds it. -/
def addVector (x : Arr) (v : Nat) (act : List Blk) (tile : List (List Blk)) (et : Nat → Option Int) (sums : List Int) : List Chained :=
  (List.zip tile sums).zipIdx.map fun e =>
    let c : Chained := { sum := e.1.2, pairs := getD x.pairs (v * 128 + e.2) 0, carry := find? x.carry (v * 128 + e.2) }
    match et (e.2 / 32) with
    | none => c
    | some t => c.addTile x.upset t (List.zip act e.1.1)

/-- The outputs of a FILL for one vector: an output block each, with the checks that failed for it; `dup` stands for those of the vector's slot. -/
def outVector (x : Arr) (w : Nat) (rs : List Chained) (dup : Checks) (exps : Nat → Option Int) (m : Nat → Rounding) : List OutBlk :=
  (List.range (rs.length / 32)).map fun j =>
    let cs := (rs.drop (32 * j)).take 32
    outChecked x.upset ((badOf cs).add dup) w (cs.map (·.total.1)) (exps j) (m j)

/-- The array freezes for at least n cycles; how many more is free (R98, log 18). -/
def freeze (a n : Nat) (s : State) : State :=
  let d := s.draw
  d.2.onArr a fun x => { x with frozen := x.frozen + BitVec.ofNat 32 (n + (Config.freeWord d.1).toNat % (2 ^ 32 - n)) }

/-- Sends bytes of a FILL's output to its destination: bench, Loft or the VLU input queue of 8 slots (R107). While that queue is full the drain stalls, until the
VLU has taken a slot; which work of the VLU takes it the manual does not say (log 17). -/
def drainOut (a : Nat) (l : ArrLaunch) (dst addr : Nat) (bs : List Byte) (s : State) : Except (State × Err) State :=
  match dst with
  | 0 => .ok (s.writeBench a (addr % 2 ^ 18) bs)
  | 1 => loftOut s l addr bs
  | _ =>
    let s := if (s.arr a).vluQueue.length < 8 then s else freeze a 1 s
    .ok (s.onArr a fun x => { x with vluQueue := (x.vluQueue ++ [bs]).drop (x.vluQueue.length + 1 - 8) })

/-- Some block pair of output block j contributes. -/
def contributes (act : List Blk) (tile : List (List Blk)) (j : Nat) : Bool :=
  ((tile.drop (32 * j)).take 32).any fun col => (List.zip act col).any fun p => (pairExp p.1 p.2).isSome

/-- Every block of a vector within the tile carries the zero-block code (R96). -/
def skipped (act : List Blk) : Bool := act.all fun b => b.e.isNone

/-- Notes which output blocks of an EXPLICIT chain have had a contribution. -/
def noteContrib (a v cols : Nat) (act : List Blk) (tile : List (List Blk)) (e : Int) (s : State) : State :=
  s.onArr a fun x => { x with chain := (List.range (cols / 32)).foldl (fun m j => if contributes act tile j then put m (v * 4 + j) e else m) x.chain }

/-- The target exponent of an output block while a FILL adds to it. -/
def fillExp (x : Arr) (f : FillOp) (v j : Nat) : Option Int := if f.explicit then some f.exp else find? x.chain (v * 4 + j)

/-- The exponent of an output block when it is written: under EXPLICIT the last FILL's acc_exp, where the FILLs of a chain carry different ones (log 128). -/
def lastExp (x : Arr) (f : FillOp) (v j : Nat) : Option Int := (find? x.chain (v * 4 + j)).map fun e => if f.explicit then f.exp else e

/-- Keeps what an EXPLICIT chain needs to be split under R76. -/
def noteChain (a v : Nat) (rs : List Chained) (s : State) : State :=
  s.onArr a fun x => rs.zipIdx.foldl (fun x r => { x with
    pairs := put x.pairs (v * 128 + r.2) r.1.pairs,
    carry := match r.1.carry with
      | none => x.carry
      | some c => put x.carry (v * 128 + r.2) c }) x

/-- Writes the output blocks of vector v whose checks passed (R84, R97, R123): elements together and scales together where all passed. -/
def writeBlocks (a : Nat) (l : ArrLaunch) (f : FillOp) (v : Nat) (os : List OutBlk) (s : State) : Except (State × Err) State :=
  let el := (f.outAt + v * f.outStride) * 64
  let sc := (f.outAt + f.n * f.outStride) * 64 + v * (os.length * scaleBytesOf f.out)
  if os.any (·.bad.any) then
    if f.dst = 2 then .ok s
    else os.zipIdx.foldlM (fun s e => if e.1.bad.any then .ok s else do
      let s ← drainOut a l f.dst (el + e.2 * blockBytesOf f.out) e.1.bytes s
      drainOut a l f.dst (sc + e.2 * scaleBytesOf f.out) e.1.scale s) s
  else if f.dst = 2 then drainOut a l 2 0 (os.flatMap (·.bytes) ++ os.flatMap (·.scale)) s
  else do
    let s ← drainOut a l f.dst el (os.flatMap (·.bytes)) s
    drainOut a l f.dst sc (os.flatMap (·.scale)) s

/-- The outputs of vector v (R97, R123), with the checks that failed. -/
def writeVector (a : Nat) (l : ArrLaunch) (f : FillOp) (v : Nat) (rs : List Chained) (dup : Checks) (s : State) : Except (State × Err) (State × Checks) := do
  let x := s.arr a
  let os := outVector x f.out rs dup (lastExp x f v) fun j => x.rounding f.sr (x.key.base.toNat + v * x.key.stride.toNat + 32 * j)
  let s := noteArrSat a (os.any (·.sat) || rs.any (·.total.2)) s
  let s ← writeBlocks a l f v os s
  .ok (s, os.foldl (fun b o => b.add o.bad) {})

/-- One vector of a FILL, with the checks that failed. The last FILL of a chain leaves the sum region as the FILL before it did (log 128). -/
def fillVector (a : Nat) (l : ArrLaunch) (f : FillOp) (tile : List (List Blk)) (v : Nat) (s : State) : Except (State × Err) (State × Checks) := do
  let cols := tileCols f.mode f.ww
  let step := cols / 8
  let act ← readAct s a f.mode f.aw ((f.act + v * f.actStride) * 64) (f.asc + v * f.ascStride)
  let old ← if f.first then .ok (List.replicate cols 0) else readSums s a f.sum step cols v
  let live := !skipped act && !(tile.all skipped)
  let dup : Checks := ⟨0, b2n (f.mode == 4 && live && (s.arr a).upset.index)⟩
  let rs := addVector (s.arr a) v act tile (fillExp (s.arr a) f v) old
  let s := noteArrSat a (rs.any (·.sat)) s
  let s := if f.explicit then noteContrib a v cols act tile f.exp s else s
  let s := if f.mode = 3 && live then
      let fb := s.freeBytes 1024
      fb.2.writeBench a ((f.sum + 8 * f.n + 16 * v) * 64) fb.1
    else s
  if f.last then writeVector a l f v rs dup s
  else
    let s := if f.explicit then noteChain a v rs s else s
    .ok (s.writeBench a ((f.sum + step * v) * 64) (pack 64 (rs.map (·.sum))), (badOf rs).add dup)

/-- The vectors of a FILL, from v on. -/
def fillVectors (a : Nat) (l : ArrLaunch) (f : FillOp) (tile : List (List Blk)) : (left v : Nat) → Checks → State → Except (State × Err) (State × Checks)
  | 0, _, b, s => .ok (s, b)
  | n + 1, v, b, s => do
    let r ← fillVector a l f tile v s
    fillVectors a l f tile n (v + 1) (b.add r.2) r.1

/-! ### Slots (R93, R95, R96, R98) -/

/-- The slots of each segment of a pass of n vectors: mode 0x3 makes four passes, two to a weight plane. -/
def segmentsOf (mode n : Nat) : List Nat := if n = 0 then [] else if mode = 3 then [2 * n, 2 * n] else [n]

/-- Enters segments into the run of an array: a segment short of 64 slots is padded when another follows it (R93). FILLs are back to back while only SET, ADD,
BNZ, SETKEY and VLU instructions, which the grid does not wait for, stand between them; a wait, a signal, a mark, a GATHER, an LMATMUL, END or a stop ends the
run (log 128). -/
def enterSegments (xs : List Nat) (x : Arr) : Arr :=
  xs.foldl (fun x n =>
    let pad := match x.segment with
      | some m => 64 - m
      | none => 0
    { x with bubbles := x.bubbles + BitVec.ofNat 32 pad, validSlots := x.validSlots + BitVec.ofNat 64 n, segment := some n }) x

/-- The cycles for which direct Loft writes of n vectors freeze an array at least: outputs and scales beyond 128 bytes a cycle (R98). -/
def loftStall (f : FillOp) (n : Nat) : Nat := n * (tileCols f.mode f.ww / 32 * (blockBytesOf f.out + scaleBytesOf f.out) / 128 - 1)

/-- A copy into the bench of array a is in progress. -/
def State.benchFilling (s : State) (a : Nat) : Bool :=
  s.allInflight.any fun e => e.2.stage == .running && opcode e.2.pkt == 0x0200 && (match addr378 (op e.2.pkt 40 8) with
    | .bench b _ => b == a
    | _ => false)

/-- The slots, bubbles and frozen cycles of a FILL that issues n vectors (R93, R95, R98). While a copy into the bench is in progress the feeder may run dry, for a
free number of bubbles. -/
def countFill (a : Nat) (f : FillOp) (n : Nat) (s : State) : State :=
  let s := s.onArr a fun x => enterSegments (segmentsOf f.mode n) { x with mode := f.mode }
  let s := if n != 0 && s.benchFilling a then
      let d := s.draw
      d.2.onArr a fun x => { x with bubbles := x.bubbles + (Config.freeWord d.1).truncate 32 }
    else s
  if f.last && f.dst == 1 && n != 0 then freeze a (loftStall f n) s else s

/-- How many vectors of a FILL are issued (R96). -/
def issued (s : State) (a : Nat) (f : FillOp) (tile : List (List Blk)) : Nat :=
  if tile.all skipped then 0
  else ((List.range f.n).filter fun v => match benchIn s a (f.asc + v * f.ascStride) (tileBlocks f.mode) with
    | .ok sc => sc.any (· != 0x80)
    | .error _ => false).length

/-- Opens the chain of a FILL: AUTO fixes its target exponents (R562). A FILL outside a chain opens one (log 19). -/
def openChain (a : Nat) (f : FillOp) (s : State) : Except (State × Err) State :=
  if f.first || !(s.arr a).chainOpen then do
    let m ← if f.explicit then .ok [] else chainExps s a f
    .ok (s.onArr a ({ · with chainOpen := true, chain := m, pairs := [], carry := [] }))
  else .ok s

/-- Counts a FILL refused under determinism (R439). -/
def refuseSr (l : ArrLaunch) (s : State) : State :=
  s.onPar fun r => { r with srRefused := upd r.srRefused (s.cmdPart l.cmd) 0 (satAdd · 1) }

/-- The chain of a FILL with last set ends. -/
def closeChain (a : Nat) (f : FillOp) (s : State) : State := s.onArr a fun x => { x with chainOpen := x.chainOpen && !f.last }

/-- The work of a FILL. A FILL of a gathered batch with stochastic rounding stops its array under determinism (R439). A FILL some of whose checks failed
writes the output blocks whose checks passed, and stops its array (R84). -/
def fillWork (a : Nat) (l : ArrLaunch) (k : BitVec 256) (s : State) : Except (State × Err) State := do
  let f := fillOp (s.arr a) k
  if l.det && bit k 124 && f.sr then .error (refuseSr l s, badRsv 1 (instrAt (s.arr a) 15))
  else if f.n = 0 then .ok (closeChain a f s)
  else do
    let s ← openChain a f s
    let tile ← readTile s a f
    let n := issued s a f tile
    let r ← fillVectors a l f tile f.n 0 {} s
    settleChecks a r.2 (closeChain a f (countFill a f n r.1))

/-- FILL (R121 to R123). -/
def execFill (a : ArrayIx) (s : State) : Host.Outcome State Fault Refusal :=
  .next <| instrStep a 0x10 (fillWork a) s

end Sys2Proof.Machine
end

