-- ==== Sys2Proof/Machine/Matmul.lean ====
section
/-! DEFINITION. LMATMUL: a product of any shape, folded into fills (R124 to R126, R149). -/

namespace Sys2Proof.Machine

/-- The staging need in lines (R126, R149). -/
def MatOp.stageNeed (o : MatOp) : Nat :=
  let w := if o.mode = 4 then (if o.ww = 4 then 195 else 163)
    else if o.wEl.loft || o.wSc.loft then
      2 * ((if o.wEl.loft then o.cols * 2 * blockBytesOf o.ww / 64 else 0) + (if o.wSc.loft then ceilDiv (2 * o.cols) 64 else 0))
    else 0
  let a := 2 * ((if o.aEl.loft then o.g * (if o.aw = 16 then 2 else 1) else 0) + (if o.aSc.loft then ceilDiv (tileBlocks o.mode * o.g) 64 else 0))
  w + a

/-- Reserved runs of the parameter block. -/
def matRsv : List Rsv :=
  [rbits 0 15 15, rbits 4 31 24, rbits 10 15 10, rbits 12 30 23, rbits 16 30 23, rbits 20 30 23, rbits 24 30 23, rbits 28 30 23, rbits 32 30 23,
   rbits 36 15 12, rbits 38 15 12, rbits 40 15 12, rbits 42 15 12, rbits 44 7 4, rb 45 19]

/-- Values and combinations the parameter block may not have (R124, R126, R555). The staging need exists only for a legal mode and formats (log 7). -/
def matVals (bs : List Byte) : List (Nat × Bool) :=
  let o := matOp bs
  let pair := pairOk o.mode (le bs 44 1 % 4) (le bs 44 1 / 4 % 4)
  let fmt := nfld (le bs 0 2) 12 10
  [(0, decide (o.mode = 0) || decide (o.mode > 4)), (1, fmt == 0 || decide (fmt > 4)), (1, decide (o.dst > 1)),
   (1, o.oEl.loft != (o.dst == 1) || o.oSc.loft != (o.dst == 1)),
   (2, o.m == 0), (4, o.k == 0), (8, o.n == 0), (38, pair && decide (o.stageLen < o.stageNeed)),
   (44, decide (1 ≤ o.mode ∧ o.mode ≤ 4) && !pair)]

/-- Checks the parameter block in the order of R114. -/
def checkMat (s : State) (p : Nat) (bs : List Byte) : Except Err MatOp := do
  guardE (le bs 0 1 % 16 != 1) (badGen 4 0)
  match fieldFault (ofBytes bs) matRsv (matVals bs) with
  | some o => .error (badRsv 2 o)
  | none =>
    match lowest ((List.range 6).map fun i => (12 + 4 * i, (tensorAt bs (12 + 4 * i)).loft && decide ((tensorAt bs (12 + 4 * i)).a / 64 ≥ s.loftGranules p))) with
    | some o => .error (accessErr (2 ^ 31 + o))
    | none => .ok (matOp bs)

/-- Reads n bytes of a tensor from byte off. -/
def tensorIn (s : State) (a : Nat) (l : ArrLaunch) (t : TensorAt) (off n : Nat) : Except (State × Err) (List Byte) :=
  if t.loft then loftIn s l (t.a + off) n else benchIn s a (t.a + off) n

/-- Writes bytes of a tensor at byte off. -/
def tensorOut (a : Nat) (l : ArrLaunch) (t : TensorAt) (off : Nat) (bs : List Byte) (s : State) : Except (State × Err) State :=
  if t.loft then loftOut s l (t.a + off) bs else .ok (s.writeBench a ((t.a + off) % 2 ^ 18) bs)

/-- The kept values and index codes of a compressed block (Table Sparse-1): group g's two values and code. -/
def packedGroup (w : Nat) (bs : List Byte) (g : Nat) : Int × Int × Nat :=
  if w = 4 then (signed 4 (le bs g 1), signed 4 (le bs g 1 / 16), le bs (8 + g / 2) 1 >>> (4 * (g % 2)) % 16)
  else (signed 8 (le bs (2 * g) 1), signed 8 (le bs (2 * g + 1) 1), le bs (16 + g / 2) 1 >>> (4 * (g % 2)) % 16)

/-- An index code that names no pair of positions (Table Sparse-2). -/
def badCode (c : Nat) : Bool := decide (c % 4 ≥ c / 4 % 4)

/-- The 32 elements of a compressed block (R140). -/
def unpackSparse (w : Nat) (bs : List Byte) : List Int :=
  (List.range 8).flatMap fun g =>
    let x := packedGroup w bs g
    expandGroup (x.2.2 % 4) (x.2.2 / 4 % 4) x.1 x.2.1

/-- A compressed block holds an invalid index code. -/
def sparseBad (w : Nat) (bs : List Byte) : Bool := (List.range 8).any fun g => badCode (packedGroup w bs g).2.2

/-- The blocks of one row of a tensor: positions at or beyond K read as zero (R65, R66, R141). -/
def rowBlocks (s : State) (a : Nat) (l : ArrLaunch) (el sc : TensorAt) (w b : Nat) (sparse : Bool) (k row : Nat) : Except (State × Err) (List Blk) := do
  let j := ceilDiv k 32
  let es ← tensorIn s a l el (row * j * b) (j * b)
  let ss ← tensorIn s a l sc (row * j) j
  (List.range j).mapM fun i =>
    let bs := slice es (i * b) b
    match scale8 (le ss i 1) with
    | none => .ok Blk.zero
    | some e =>
      if sparse && sparseBad w bs then .error (s, integrity 1 7 a)
      else .ok (Blk.keep (k - 32 * i) ⟨if sparse then unpackSparse w bs else unpack w 32 bs, some e⟩)

/-- Splits a list into runs of n. -/
def chunks {α : Type} (n : Nat) : (fuel : Nat) → List α → List (List α)
  | 0, _ => []
  | f + 1, xs => if xs.isEmpty then [] else xs.take n :: chunks n f (xs.drop n)

/-- One output element, tile by tile: a chain of at most 65,535 contributing pairs is one sum; a longer one is split and its ACC48 results added
(R76, R87, log 20). -/
def matSum (u : Upset) (mode : Nat) (et : Int) (ps : List (Blk × Blk)) : Chained :=
  (chunks (tileBlocks mode) (ps.length + 1) ps).foldl (fun c t => c.addTile u et t) { sum := 0 }

/-- The target exponent of an output block (R73): none when no pair contributes. -/
def matExp (o : MatOp) (row : List Blk) (ws : List (List Blk)) : Option Int :=
  match maxExp (ws.flatMap fun w => (List.zip row w).map fun p => pairExp p.1 p.2) with
  | none => none
  | some e => some (if o.explicit then o.exp else e - guardShift o.aw o.ww)

/-- Some block of the contraction tile t of these rows is not a zero block. -/
def tileLive (o : MatOp) (rows : List (List Blk)) (t : Nat) : Bool :=
  rows.any fun r => ((r.drop (t * tileBlocks o.mode)).take (tileBlocks o.mode)).any fun b => b.e.isSome

/-- The contraction tiles of a column tile and vector group that are not skipped (R96, R125). -/
def liveTiles (o : MatOp) (rows ws : List (List Blk)) : List Nat :=
  (List.range (ceilDiv o.blocks (tileBlocks o.mode))).filter fun t => tileLive o rows t && tileLive o ws t

/-- The working sums that the fills before the last one of a chain leave behind for one vector (R97). -/
def partialSums (o : MatOp) (tiles : List Nat) (row : List Blk) (ws : List (List Blk)) : List Int :=
  let keep := tiles.dropLast
  let ps := ws.zipIdx.map fun w =>
    match matExp o row ((ws.drop (w.2 / 32 * 32)).take 32) with
    | none => 0
    | some e => (addPairs e ((List.zip row w.1).zipIdx.filterMap fun p => if keep.contains (p.2 / tileBlocks o.mode) then some p.1 else none) 0).1
  ps ++ List.replicate (o.cols - ps.length) 0

/-- Writes the output blocks of one row in one column tile (R125, rules 5 and 7), but those of which a check failed (R84). -/
def matRow (a : Nat) (l : ArrLaunch) (o : MatOp) (col0 r : Nat) (row : List Blk) (ws : List (List Blk)) (b : Checks) (s : State) :
    Except (State × Err) (State × Checks) :=
  (List.range (ceilDiv ws.length 32)).foldlM (fun (acc : State × Checks) j => do
    let s := acc.1
    let wj := (ws.drop (32 * j)).take 32
    let e := matExp o row wj
    let x := s.arr a
    let sums : List Chained := match e with
      | none => wj.map fun _ => { sum := 0 }
      | some e => wj.map fun w => matSum x.upset o.mode e (List.zip row w)
    let bad := (badOf sums).add ⟨0, b2n (o.mode == 4 && e.isSome && x.upset.index)⟩
    let y := outChecked x.upset bad o.out (sums.map (·.total.1) ++ List.replicate (32 - wj.length) 0) e (x.rounding o.sr (r * o.n + col0 + 32 * j))
    let s := noteArrSat a (y.sat || sums.any fun c => c.sat || c.total.2) s
    if y.bad.any then .ok (s, acc.2.add y.bad)
    else do
      let i := r * ceilDiv o.n 32 + col0 / 32 + j
      let s ← tensorOut a l o.oEl (i * blockBytesOf o.out) y.bytes s
      let s ← tensorOut a l o.oSc (i * y.scale.length) y.scale s
      .ok (s, acc.2)) (s, b)

/-- The cycles for which direct Loft writes of n vectors of one column tile freeze an array at least (R98). -/
def matStall (o : MatOp) (n : Nat) : Nat := n * (o.cols / 32 * (blockBytesOf o.out + scaleBytesOf o.out) / 128 - 1)

/-- Leaves the working sums of a group behind, and in mode 0x3 undefined pass sums (R97, R561). -/
def matSums (a : Nat) (o : MatOp) (tiles : List Nat) (rows ws : List (List Blk)) (s : State) : State :=
  rows.zipIdx.foldl (fun s r =>
    let s := if o.mode = 3 && !tiles.isEmpty then
        let fb := s.freeBytes 1024
        fb.2.writeBench a ((o.sum + 8 * rows.length + 16 * r.2) * 64 % 2 ^ 18) fb.1
      else s
    if tiles.length ≥ 2 then s.writeBench a ((o.sum + o.cols / 8 * r.2) * 64 % 2 ^ 18) (pack 64 (partialSums o tiles r.1 ws)) else s) s

/-- One column tile for one vector group: its fills, then its outputs. -/
def matTile (a : Nat) (l : ArrLaunch) (o : MatOp) (nt mg : Nat) (b : Checks) (s : State) : Except (State × Err) (State × Checks) := do
  let col0 := nt * o.cols
  let r0 := mg * o.g
  let ws ← (List.range (min o.cols (o.n - col0))).mapM fun c => rowBlocks s a l o.wEl o.wSc o.ww o.wBlock (o.mode == 4) o.k (col0 + c)
  let rows ← (List.range (min o.g (o.m - r0))).mapM fun r => rowBlocks s a l o.aEl o.aSc o.aw (blockBytesOf o.aw) false o.k (r0 + r)
  let tiles := liveTiles o rows ws
  let s := matSums a o tiles rows ws s
  let s := s.onArr a fun x => tiles.foldl (fun x t => enterSegments (segmentsOf o.mode (rows.filter fun r => tileLive o [r] t).length) x) { x with mode := o.mode }
  let last := (rows.filter fun r => tiles.getLast?.any fun t => tileLive o [r] t).length
  let s := if o.dst == 1 && last != 0 then freeze a (matStall o last) s else s
  rows.zipIdx.foldlM (fun acc r => matRow a l o col0 (r0 + r.2) r.1 ws acc.2 acc.1) (s, b)

/-- The column tiles of an LMATMUL, each over its vector groups (R125, rule 2). -/
def matTiles (a : Nat) (l : ArrLaunch) (o : MatOp) (s : State) : Except (State × Err) (State × Checks) :=
  ((List.range (ceilDiv o.n o.cols)).flatMap fun nt => (List.range (ceilDiv o.m o.g)).map fun mg => (nt, mg)).foldlM
    (fun acc t => matTile a l o t.1 t.2 acc.2 acc.1) (s, {})

/-- Leaves undefined values in the staging region, beside a mode 0x4 descriptor line, when an operand is staged (R126, R149, R561). -/
def stageFree (a : Nat) (o : MatOp) (s : State) : State :=
  if o.stageNeed = 0 then s
  else
    let skip := if o.mode = 4 then 1 else 0
    let fb := s.freeBytes ((o.stageLen - skip) * 64)
    fb.2.writeBench a ((o.stage + skip) * 64 % 2 ^ 18) fb.1

/-- The work of an LMATMUL: loop order n, then m, with k innermost (R125). -/
def matWork (a : Nat) (l : ArrLaunch) (k : BitVec 256) (s : State) : Except (State × Err) State := do
  let x := s.arr a
  let bs ← benchIn s a (matParamAt x k) 64
  let o ← orStop s (checkMat s (s.cmdPart l.cmd) bs)
  if o.mode = 4 then
    let d ← benchIn s a (o.stage * 64) 64
    orStop s (checkDescriptor d o.ww (badRsv 2 44))
  let r ← matTiles a l o (stageFree a o (s.onArr a endRun))
  settleChecks a r.2 ((stageFree a o r.1).onArr a endRun)

/-- LMATMUL (R124 to R126). -/
def execLmatmul (a : ArrayIx) (s : State) : Host.Outcome State Fault Refusal :=
  .next <| instrStep a 0x11 (matWork a) s

end Sys2Proof.Machine
end

