-- ==== Sys2Proof/Machine/Plane.lean ====
section
/-! DEFINITION. The Planes: compressing and expanding tensors in 2:4 form (R152 to R157). -/

namespace Sys2Proof.Machine

/-- The position of the largest magnitude among the listed positions, the lowest among equals (R152). -/
def largestAt (v : List Int) : List Nat → Option Nat
  | [] => none
  | i :: r => some (r.foldl (fun b j => if ((v[j]?).getD 0).natAbs > ((v[b]?).getD 0).natAbs then j else b) i)

/-- The two kept positions of a group, ascending (R152). -/
def pruneGroup (v : List Int) : Nat × Nat :=
  let p := (largestAt v [0, 1, 2, 3]).getD 0
  let q := (largestAt v ([0, 1, 2, 3].filter (· != p))).getD 0
  if p > q then (q, p) else (p, q)

/-- The bytes of a compressed block: per group two values and a code (Table Sparse-1). -/
def packSparse (w : Nat) (gs : List (Int × Int × Nat)) : List Byte :=
  let codes := toBytes 4 (gs.foldr (fun g acc => g.2.2 + acc * 16) 0)
  pack w (gs.flatMap fun g => [g.1, g.2.1]) ++ codes

/-- A compressed zero block: zero values and code 0x4 in every group (R141). -/
def sparseZero (w : Nat) : List Byte := packSparse w (List.replicate 8 (0, 0, 4))

/-- Compresses 32 elements at the kept positions of each group. -/
def compress (v : List Int) (kept : Nat → Nat × Nat) : List (Int × Int × Nat) :=
  (List.range 8).map fun g =>
    let x := kept g
    ((v[4 * g + x.1]?).getD 0, (v[4 * g + x.2]?).getD 0, x.1 + 4 * x.2)

/-- What a Plane command does. -/
inductive PlaneKind where
  | prune | apply | expand
deriving DecidableEq, Repr

/-- The Plane parameter block (Table Sparse-6). -/
structure PlaneOp where
  kind : PlaneKind
  w : Nat
  k : Nat
  rows : Nat
  srcEl : Addr
  srcSc : Addr
  dstEl : Addr
  dstSc : Addr
  mask : Addr

/-- Bytes of a compressed block. -/
def sparseBytes (w : Nat) : Nat := if w = 4 then 12 else 20
/-- Bytes of a source block. -/
def PlaneOp.srcBlock (o : PlaneOp) : Nat := if o.kind = .expand then sparseBytes o.w else blockBytesOf o.w
/-- Bytes of a destination block. -/
def PlaneOp.dstBlock (o : PlaneOp) : Nat := if o.kind = .expand then blockBytesOf o.w else sparseBytes o.w
/-- Blocks of the whole tensor. -/
def PlaneOp.total (o : PlaneOp) : Nat := o.rows * ceilDiv o.k 32

/-- Two regions share a byte. -/
def overlap (a : Addr) (n : Nat) (b : Addr) (m : Nat) : Bool := a.tiered == b.tiered && decide (a.a < b.a + m) && decide (b.a < a.a + n)

/-- A destination region overlaps a source or mask region in a way R155 does not except. -/
def PlaneOp.clash (o : PlaneOp) : Bool :=
  let t := o.total
  let srcs := [(o.srcEl, t * o.srcBlock), (o.srcSc, t)]
  let useMask := o.kind == .apply
  let m := t * sparseBytes o.w
  let de := t * o.dstBlock
  srcs.any (fun r => overlap o.dstEl de r.1 r.2) || overlap o.dstSc t o.srcEl (t * o.srcBlock) ||
  (overlap o.dstSc t o.srcSc t && o.dstSc != o.srcSc) ||
  (useMask && ((overlap o.dstEl de o.mask m && o.dstEl != o.mask) || overlap o.dstSc t o.mask m))

/-- Reads and checks the parameter block. -/
def planeOp (c : CmdRef) (p : Nat) (kind : PlaneKind) (k : Block) (s : State) : Except Err PlaneOp := do
  let bs ← cmdBlock c p (addr154 (op k 32 8)) 64 7 0
    ([rbits 0 15 5, rb 2 2, rbits 4 31 24, rbits 8 31 24, rb 12 4, rbits 16 5 1, rbits 24 5 1, rbits 32 5 1, rbits 40 5 1, rb 56 8] ++
      (if kind = .apply then [rbits 48 5 1] else [rb 48 8]))
    (fun bs => [(4, le bs 4 3 == 0), (8, le bs 8 3 == 0)]) s
  let o : PlaneOp := { kind := kind, w := if (le bs 0 1).testBit 4 then 8 else 4, k := le bs 4 3, rows := le bs 8 3, srcEl := addr154 (le bs 16 8),
                       srcSc := addr154 (le bs 24 8), dstEl := addr154 (le bs 32 8), dstSc := addr154 (le bs 40 8), mask := addr154 (le bs 48 8) }
  guardE o.clash (badRsv 1 0x20)
  .ok o

/-- An address moved by bytes. -/
def Addr.plus (a : Addr) (n : Nat) : Addr := { a with a := a.a + n }

/-- The bytes and scale of block i at the destination (R141, R152, R153, R154); an invalid index code answers none. -/
def planeBlock (o : PlaneOp) (i : Nat) (src mask : List Byte) (scale : Nat) : Option (List Byte × Byte) :=
  let keep := o.k - 32 * (i % ceilDiv o.k 32)
  let zero := if o.kind = .expand then List.replicate (blockBytesOf o.w) 0 else sparseZero o.w
  if scale = 0x80 then some (zero, 0x80)
  else
    let cut (v : List Int) : List Int := (Blk.keep keep ⟨v, none⟩).q
    let finish (gs : List (Int × Int × Nat)) : List Byte × Byte :=
      if gs.all fun g => g.1 == 0 && g.2.1 == 0 then (zero, 0x80) else (packSparse o.w gs, BitVec.ofNat 8 scale)
    match o.kind with
    | .prune =>
      let v := cut (unpack o.w 32 src)
      some (finish (compress v fun g => pruneGroup ((v.drop (4 * g)).take 4)))
    | .apply =>
      if sparseBad o.w mask then none
      else some (finish (compress (cut (unpack o.w 32 src)) fun g =>
        let c := (packedGroup o.w mask g).2.2
        (c % 4, c / 4 % 4)))
    | .expand =>
      if sparseBad o.w src then none else some (pack o.w (cut (unpackSparse o.w src)), BitVec.ofNat 8 scale)

/-- Changes the status of the Plane of a compute tile. -/
def onPlane (t : Nat) (f : PlaneStatus → PlaneStatus) (s : State) : State := { s with planes := upd s.planes t {} f }

/-- One block of a Plane command on Plane t. A torn plank among what it reads is noted (R388); the copies of the index decoder are compared (Table Fault-4). -/
def planeOne (c : CmdRef) (p t : Nat) (o : PlaneOp) (i : Nat) (s : State) : State × Option Err :=
  let rd : Except Err (List Byte × List Byte × Nat) := do
    let src ← cmdRead c p (o.srcEl.plus (i * o.srcBlock)) o.srcBlock s
    let sc ← cmdRead c p (o.srcSc.plus i) 1 s
    let mask ← if o.kind = .apply then cmdRead c p (o.mask.plus (i * sparseBytes o.w)) (sparseBytes o.w) s else .ok []
    .ok (src, mask, le sc 0 1)
  match rd with
  | .error e => (s, some e)
  | .ok (src, mask, sc) =>
    let s := noteTorn c (s.rangeTorn p o.srcEl.tiered (o.srcEl.a + i * o.srcBlock) o.srcBlock || s.rangeTorn p o.srcSc.tiered (o.srcSc.a + i) 1 ||
      (o.kind == .apply && s.rangeTorn p o.mask.tiered (o.mask.a + i * sparseBytes o.w) (sparseBytes o.w))) s
    let s := chargeCmd c p (o.srcEl.plus (i * o.srcBlock)) o.srcBlock (chargeCmd c p (o.srcSc.plus i) 1
      (if o.kind = .apply then chargeCmd c p (o.mask.plus (i * sparseBytes o.w)) (sparseBytes o.w) s else s))
    if o.kind != .prune && (getD s.planes t {}).upset.index then (s, some (integrity 0x0C 3 t))
    else match planeBlock o i src mask sc with
    | none => (onPlane t (fun x => { x with indexErrs := satAdd x.indexErrs 1 }) s, some (integrity 0x0C 7 t))
    | some (bs, e8) =>
      match cmdWrite c p (o.dstEl.plus (i * o.dstBlock)) bs s with
      | (s, _, some e) => (s, some e)
      | (s, _, none) =>
        match cmdWrite c p (o.dstSc.plus i) [e8] s with
        | (s, _, some e) => (s, some e)
        | (s, _, none) => (onPlane t (fun x => { x with blocks := x.blocks + 1 }) s, none)

/-- The blocks of one row on a Plane; the first failure ends it. Answers the state, the blocks written and the failure. -/
def planeRow (c : CmdRef) (p t : Nat) (o : PlaneOp) : (left i : Nat) → State → State × Nat × Option Err
  | 0, _, s => (s, 0, none)
  | n + 1, i, s => match planeOne c p t o i s with
    | (s, some e) => (s, 0, some e)
    | (s, none) =>
      let r := planeRow c p t o n (i + 1) s
      (r.1, r.2.1 + 1, r.2.2)

/-- The rows of a Plane command. Which of the four Planes takes a row is not given: a free choice for each row (log 4). -/
def planeRows (c : CmdRef) (p : Nat) (o : PlaneOp) : (left row done : Nat) → State → Done
  | 0, _, n, s => { s := s, result := n }
  | k + 1, r, n, s =>
    let t := Config.allocHint s.draws % 4
    let j := ceilDiv o.k 32
    match planeRow c p t o j (r * j) { s with draws := s.draws + 1 } with
    | (s, m, some e) => { s := s, st := e.st, det := e.det, result := n + m }
    | (s, m, none) => planeRows c p o k (r + 1) (n + m) s

/-- A Plane command (R154). -/
def planeCmd (c : CmdRef) (o : Nat) (kind : PlaneKind) (s : State) : State :=
  wholeCmd c o (fun k p s => do
    let o ← planeOp c p kind k s
    .ok (planeRows c p o o.rows 0 0 s)) s

/-- PLANE_PRUNE (R152). -/
def execPlanePrune (c : CmdRef) (s : State) : Host.Outcome State Fault Refusal := .next (planeCmd c 0x02F0 .prune s)
/-- PLANE_APPLY (R155). -/
def execPlaneApply (c : CmdRef) (s : State) : Host.Outcome State Fault Refusal := .next (planeCmd c 0x02F1 .apply s)
/-- PLANE_EXPAND (R154). -/
def execPlaneExpand (c : CmdRef) (s : State) : Host.Outcome State Fault Refusal := .next (planeCmd c 0x02F2 .expand s)

end Sys2Proof.Machine
end

