-- ==== Sys2Proof/Machine/Vector.lean ====
section
/-! DEFINITION. The vector lane unit: registers, lane pairs, tables and the operations of Table Prog-11 (R104 to R106, R132 to R134). -/

namespace Sys2Proof.Machine

/-- Lane i of register r. -/
def Arr.lane (x : Arr) (r i : Nat) : W32 := getD x.vregs (r * 64 + i) 0
/-- Lane i of register r as a signed number. -/
def Arr.laneI (x : Arr) (r i : Nat) : Int := (x.lane r i).toInt
/-- Value i of the register pair from r, as a signed 64-bit number (R104). -/
def Arr.pairI (x : Arr) (r i : Nat) : Int := signed 64 ((x.lane r i).toNat + 2 ^ 32 * (x.lane (r + 1) i).toNat)

/-- Sets the 64 lanes of register r. -/
def Arr.setLanes (x : Arr) (r : Nat) (f : Nat → Int) : Arr :=
  { x with vregs := (List.range 64).foldl (fun m i => put m (r * 64 + i) (BitVec.ofInt 32 (f i))) x.vregs }

/-- Sets the 64 values of the register pair from r. -/
def Arr.setPairs (x : Arr) (r : Nat) (f : Nat → Int) : Arr :=
  (x.setLanes r f).setLanes (r + 1) fun i => f i / 2 ^ 32

/-- Decoded fields of a VLU instruction (Table Prog-10). -/
structure VecOp where
  vd : Nat
  va : Nat
  vb : Nat
  vc : Nat
  bimm : Bool
  shv : Bool
  w64 : Bool
  sr : Bool
  sub : Nat
  sh : Nat
  table : Nat
  imm : Int
  /-- byte of the bench line, with s[areg] -/
  line : Nat
  /-- scale byte address, with s[areg] -/
  scale : Nat
  /-- s[areg] -/
  reg : Nat

/-- Decodes a VLU instruction as it stands at array x. -/
def vecOp (x : Arr) (k : BitVec 256) : VecOp :=
  let r := x.areg (ifld k 14 1 3 0)
  { vd := byteFld k 1 1 % 32, va := byteFld k 2 1 % 32, vb := byteFld k 3 1 % 32, vc := byteFld k 4 1 % 32
    bimm := bit k 40, shv := bit k 41, w64 := bit k 42, sr := bit k 43, sub := ifld k 5 1 6 4, sh := byteFld k 6 1 % 64
    table := byteFld k 7 1 % 4, imm := signed 32 (byteFld k 8 4)
    line := (iline k 12 + r) % 4096 * 64, scale := (byteFld k 16 4 % 2 ^ 18 + r) % 2 ^ 18, reg := r }

/-- Lane i of operand b: the immediate when bimm is set. -/
def VecOp.b (o : VecOp) (x : Arr) (i : Nat) : Int := if o.bimm then o.imm else x.laneI o.vb i
/-- Value i of operand b as a lane pair; an immediate is sign-extended (log 21). -/
def VecOp.b64 (o : VecOp) (x : Arr) (i : Nat) : Int := if o.bimm then o.imm else x.pairI o.vb i
/-- sh' of lane i: sh, plus the shv term, clamped to 0 to 63 (R133). -/
def VecOp.shift (o : VecOp) (x : Arr) (i : Nat) : Nat :=
  if o.shv then (max 0 (min 63 ((o.sh : Int) + x.laneI o.vb i))).toNat else o.sh
/-- The rounding of a VLU instruction (R132). -/
def VecOp.rounding (o : VecOp) (x : Arr) : Rounding := x.rounding o.sr (x.key.base.toNat + o.reg)

/-- A VLU instruction: what it does to the state. -/
def vecStep (a o : Nat) (f : VecOp → Arr → State → Except (State × Err) State) (s : State) : State :=
  instrStep a o (fun _ k s => f (vecOp (s.arr a) k) (s.arr a) s) s

/-- A lane operation that cannot saturate: vd is set lane by lane. An operation without a 64-bit class ignores w64 and works on 32-bit lanes (log 128). -/
def laneStep (a o : Nat) (f : VecOp → Arr → Nat → Int) (s : State) : State :=
  vecStep a o (fun v x s => .ok (s.onArr a fun y => y.setLanes v.vd (f v x))) s

/-- A lane operation that saturates, with its mark (R105); like laneStep it ignores w64 (log 128). -/
def satStep (a o : Nat) (f : VecOp → Arr → Nat → Int × Bool) (s : State) : State :=
  vecStep a o (fun v x s =>
    .ok (noteArrSat a ((List.range 64).any fun i => (f v x i).2) (s.onArr a fun y => y.setLanes v.vd fun i => (f v x i).1))) s

/-- An operation on lane pairs that saturates. -/
def pairStep (a : Nat) (v : VecOp) (f : Nat → Int × Bool) (s : State) : State :=
  noteArrSat a ((List.range 64).any fun i => (f i).2) (s.onArr a fun y => y.setPairs v.vd fun i => (f i).1)

/-- VLD (Table Prog-11): bench to register, sign-extending SSI elements. -/
def execVld (a : ArrayIx) (s : State) : Host.Outcome State Fault Refusal :=
  .next <| vecStep a 0x20 (fun v _ s => do
    let w := match v.sub with
      | 0 => 32 | 1 => 4 | 2 => 8 | 3 => 16 | _ => 64
    let bs ← benchIn s a v.line (8 * w)
    let q := unpack w 64 bs
    let f (i : Nat) : Int := (q[i]?).getD 0
    .ok (s.onArr a fun y => if w = 64 then y.setPairs v.vd f else y.setLanes v.vd f)) s

/-- VST (Table Prog-11): register to bench. -/
def execVst (a : ArrayIx) (s : State) : Host.Outcome State Fault Refusal :=
  .next <| vecStep a 0x21 (fun v x s =>
    .ok (s.writeBench a v.line (if v.sub = 4 then pack 64 ((List.range 64).map (x.pairI v.va)) else pack 32 ((List.range 64).map (x.laneI v.va))))) s

/-- An add or subtract: 32-bit lanes, or lane pairs under w64 (sub 0 in 64 bits, sub 1 in 48). -/
def addStep (a o : Nat) (f : Int → Int → Int) (s : State) : State :=
  vecStep a o (fun v x s =>
    let clamp := if v.sub = 1 then clamp48 else clamp64
    .ok (if v.w64 then pairStep a v (fun i => clamp (f (x.pairI v.va i) (v.b64 x i))) s
      else noteArrSat a ((List.range 64).any fun i => (clamp32 (f (x.laneI v.va i) (v.b x i))).2)
        (s.onArr a fun y => y.setLanes v.vd fun i => (clamp32 (f (x.laneI v.va i) (v.b x i))).1))) s

/-- VADD. -/
def execVadd (a : ArrayIx) (s : State) : Host.Outcome State Fault Refusal := .next (addStep a 0x22 (· + ·) s)
/-- VSUB. -/
def execVsub (a : ArrayIx) (s : State) : Host.Outcome State Fault Refusal := .next (addStep a 0x23 (· - ·) s)
/-- VMIN: signed. -/
def execVmin (a : ArrayIx) (s : State) : Host.Outcome State Fault Refusal :=
  .next (laneStep a 0x24 (fun v x i => min (x.laneI v.va i) (v.b x i)) s)
/-- VMAX: signed. -/
def execVmax (a : ArrayIx) (s : State) : Host.Outcome State Fault Refusal :=
  .next (laneStep a 0x25 (fun v x i => max (x.laneI v.va i) (v.b x i)) s)

/-- The conditions of VCMP: EQ, NE, LT, LE, GT, GE. -/
def compareBy (sub : Nat) (x y : Int) : Bool :=
  match sub with
  | 0 => x == y
  | 1 => x != y
  | 2 => decide (x < y)
  | 3 => decide (x ≤ y)
  | 4 => decide (x > y)
  | _ => decide (x ≥ y)

/-- VCMP: 1 or 0. -/
def execVcmp (a : ArrayIx) (s : State) : Host.Outcome State Fault Refusal :=
  .next (laneStep a 0x26 (fun v x i => (b2n (compareBy v.sub (x.laneI v.va i) (v.b x i)) : Nat)) s)
/-- VSEL: va where vc is not 0, otherwise vb. -/
def execVsel (a : ArrayIx) (s : State) : Host.Outcome State Fault Refusal :=
  .next (laneStep a 0x27 (fun v x i => if x.lane v.vc i ≠ 0 then x.laneI v.va i else v.b x i) s)

/-- A bitwise operation of two lanes. -/
def bitStep (a o : Nat) (f : W32 → W32 → W32) (s : State) : State :=
  laneStep a o (fun v x i => (f (x.lane v.va i) (BitVec.ofInt 32 (v.b x i))).toInt) s

/-- VAND. -/
def execVand (a : ArrayIx) (s : State) : Host.Outcome State Fault Refusal := .next (bitStep a 0x28 (· &&& ·) s)
/-- VOR. -/
def execVor (a : ArrayIx) (s : State) : Host.Outcome State Fault Refusal := .next (bitStep a 0x29 (· ||| ·) s)
/-- VXOR. -/
def execVxor (a : ArrayIx) (s : State) : Host.Outcome State Fault Refusal := .next (bitStep a 0x2A (· ^^^ ·) s)
/-- VMUL16: the product of the low 16 bits, signed and exact. -/
def execVmul16 (a : ArrayIx) (s : State) : Host.Outcome State Fault Refusal :=
  .next (laneStep a 0x2B (fun v x i => signed 16 (bitsOf 32 (x.laneI v.va i)) * signed 16 (bitsOf 32 (v.b x i))) s)
/-- VMUL32: the product, saturated to 32 bits. -/
def execVmul32 (a : ArrayIx) (s : State) : Host.Outcome State Fault Refusal :=
  .next (satStep a 0x2C (fun v x i => clamp32 (x.laneI v.va i * v.b x i)) s)
/-- VSHL: va × 2^sh', saturated. -/
def execVshl (a : ArrayIx) (s : State) : Host.Outcome State Fault Refusal :=
  .next (satStep a 0x2D (fun v x i => clamp32 (x.laneI v.va i * 2 ^ v.shift x i)) s)
/-- VSHR: rounding right shift by sh'. -/
def execVshr (a : ArrayIx) (s : State) : Host.Outcome State Fault Refusal :=
  .next (laneStep a 0x2E (fun v x i => shiftIn (v.rounding x) (x.laneI v.va i) (v.shift x i) i) s)
/-- VALIGN: align(va, imm, vb lane 0) on pairs (R74). The copies of the alignment shifter are compared (R83). -/
def execValign (a : ArrayIx) (s : State) : Host.Outcome State Fault Refusal :=
  .next (vecStep a 0x2F (fun v x s => if x.upset.align then settleChecks a ⟨0, 1⟩ s
    else .ok (pairStep a v (fun i => align (x.pairI v.va i) v.imm (v.b x 0)) s)) s)
/-- VBLEN: bitlen of the magnitude. -/
def execVblen (a : ArrayIx) (s : State) : Host.Outcome State Fault Refusal :=
  .next (laneStep a 0x30 (fun v x i => (bitlen (x.laneI v.va i).natAbs : Nat)) s)
/-- VLUT (R133): a clamped index into a table. -/
def execVlut (a : ArrayIx) (s : State) : Host.Outcome State Fault Refusal :=
  .next (satStep a 0x31 (fun v x i =>
    let j := clampTo 0 1023 ((x.laneI v.va i - v.imm) / 2 ^ v.shift x i)
    ((getD x.tables (v.table * 1024 + j.1.toNat) 0).toInt, j.2)) s)

/-- The lanes of the 32-lane block that holds lane i. -/
def blockLanes (x : Arr) (r i : Nat) : List Int := (List.range 32).map fun j => x.laneI r (i / 32 * 32 + j)

/-- VBSUM: the sum of each 32-lane block, saturated, in every lane of it. -/
def execVbsum (a : ArrayIx) (s : State) : Host.Outcome State Fault Refusal :=
  .next (satStep a 0x32 (fun v x i => clamp32 ((blockLanes x v.va i).foldl (· + ·) 0)) s)
/-- VBMAX: the maximum of each 32-lane block, in every lane of it. -/
def execVbmax (a : ArrayIx) (s : State) : Host.Outcome State Fault Refusal :=
  .next (laneStep a 0x33 (fun v x i => (blockLanes x v.va i).foldl max (x.laneI v.va (i / 32 * 32))) s)

/-- VREQ (R77): requantizes a block; the elements go to the line, the E8 scale to the scale byte address. The copies of the requantizer are compared (R83). -/
def execVreq (a : ArrayIx) (s : State) : Host.Outcome State Fault Refusal :=
  .next (vecStep a 0x34 (fun v x s => if x.upset.requant then settleChecks a ⟨0, 1⟩ s else
    let w := elemBits v.sub
    let r := requantize ((List.range 32).map fun i => if v.w64 then x.pairI v.va i else x.laneI v.va i) v.imm w (v.rounding x)
    let s := (s.writeBench a v.line (pack w r.q)).writeBench a v.scale [scale8Byte r.e]
    .ok (noteArrSat a r.sat s)) s)
/-- VMOV. -/
def execVmov (a : ArrayIx) (s : State) : Host.Outcome State Fault Refusal := .next (laneStep a 0x35 (fun v x i => x.laneI v.va i) s)

/-- TLOAD (R134): 64 lines into a table. -/
def execTload (a : ArrayIx) (s : State) : Host.Outcome State Fault Refusal :=
  .next (instrStep a 0x09 (fun _ k s => do
    let bs ← benchIn s a (iline k 12 * 64) 4096
    let t := byteFld k 7 1 % 4
    .ok (s.onArr a fun x => { x with tables := (unpack 32 1024 bs).zipIdx.foldl (fun m e => put m (t * 1024 + e.2) (BitVec.ofInt 32 e.1)) x.tables })) s)

end Sys2Proof.Machine
end

