-- ==== Sys2Proof/Machine/Dispatch.lean ====
section
/-! DEFINITION. The dispatch of the block's commands: one arm per constructor of `Instr`, each a single call of that command's meaning. -/

namespace Sys2Proof.Machine

/-- The effect of a command on everything but the queue of waiting commands. -/
def exec (i : Instr) (s : State) : Host.Outcome State Fault Refusal :=
  match i with
  | .wqProducerIndex fn q v => Sys2Proof.Machine.execWqProducerIndex fn q v s
  | .cqConsumerIndex fn q v => Sys2Proof.Machine.execCqConsumerIndex fn q v s
  | .commandFetch q => Sys2Proof.Machine.execCommandFetch q s
  | .commandGrant q => Sys2Proof.Machine.execCommandGrant q s
  | .waitTimeout q => Sys2Proof.Machine.execWaitTimeout q s
  | .commandComplete c => Sys2Proof.Machine.execCommandComplete c s
  | .cqIrqTime q => Sys2Proof.Machine.execCqIrqTime q s
  | .nop c => Sys2Proof.Machine.execNop c s
  | .pegAdd c => Sys2Proof.Machine.execPegAdd c s
  | .pegSet c => Sys2Proof.Machine.execPegSet c s
  | .pegRead c => Sys2Proof.Machine.execPegRead c s
  | .cancel c => Sys2Proof.Machine.execCancel c s
  | .wqCfgWrite fn q v => Sys2Proof.Machine.execWqCfgWrite fn q v s
  | .cqCfgWrite fn q v => Sys2Proof.Machine.execCqCfgWrite fn q v s
  | .pegValueWrite fn p v => Sys2Proof.Machine.execPegValueWrite fn p v s
  | .copy c => Sys2Proof.Machine.execCopy c s
  | .plankAlloc c => Sys2Proof.Machine.execPlankAlloc c s
  | .plankFree c => Sys2Proof.Machine.execPlankFree c s
  | .tierMove c => Sys2Proof.Machine.execTierMove c s
  | .plankFlashWriteDone p plank => Sys2Proof.Machine.execPlankFlashWriteDone p plank s
  | .plankStat c => Sys2Proof.Machine.execPlankStat c s
  | .plankDigest c => Sys2Proof.Machine.execPlankDigest c s
  | .seqJoin c => Sys2Proof.Machine.execSeqJoin c s
  | .seqLeave c => Sys2Proof.Machine.execSeqLeave c s
  | .seqStep c => Sys2Proof.Machine.execSeqStep c s
  | .planePrune c => Sys2Proof.Machine.execPlanePrune c s
  | .planeApply c => Sys2Proof.Machine.execPlaneApply c s
  | .planeExpand c => Sys2Proof.Machine.execPlaneExpand c s
  | .klaunch c => Sys2Proof.Machine.execKlaunch c s
  | .kpreload c => Sys2Proof.Machine.execKpreload c s
  | .seqEnd a => Sys2Proof.Machine.execSeqEnd a s
  | .seqSet a => Sys2Proof.Machine.execSeqSet a s
  | .seqAdd a => Sys2Proof.Machine.execSeqAdd a s
  | .bnz a => Sys2Proof.Machine.execBnz a s
  | .waitpeg a => Sys2Proof.Machine.execWaitpeg a s
  | .waitpegTimeout a => Sys2Proof.Machine.execWaitpegTimeout a s
  | .sigpeg a => Sys2Proof.Machine.execSigpeg a s
  | .setkey a => Sys2Proof.Machine.execSetkey a s
  | .scribe a => Sys2Proof.Machine.execScribe a s
  | .gather a => Sys2Proof.Machine.execGather a s
  | .gatherDeadline a => Sys2Proof.Machine.execGatherDeadline a s
  | .tload a => Sys2Proof.Machine.execTload a s
  | .fill a => Sys2Proof.Machine.execFill a s
  | .lmatmul a => Sys2Proof.Machine.execLmatmul a s
  | .vld a => Sys2Proof.Machine.execVld a s
  | .vst a => Sys2Proof.Machine.execVst a s
  | .vadd a => Sys2Proof.Machine.execVadd a s
  | .vsub a => Sys2Proof.Machine.execVsub a s
  | .vmin a => Sys2Proof.Machine.execVmin a s
  | .vmax a => Sys2Proof.Machine.execVmax a s
  | .vcmp a => Sys2Proof.Machine.execVcmp a s
  | .vsel a => Sys2Proof.Machine.execVsel a s
  | .vand a => Sys2Proof.Machine.execVand a s
  | .vor a => Sys2Proof.Machine.execVor a s
  | .vxor a => Sys2Proof.Machine.execVxor a s
  | .vmul16 a => Sys2Proof.Machine.execVmul16 a s
  | .vmul32 a => Sys2Proof.Machine.execVmul32 a s
  | .vshl a => Sys2Proof.Machine.execVshl a s
  | .vshr a => Sys2Proof.Machine.execVshr a s
  | .valign a => Sys2Proof.Machine.execValign a s
  | .vblen a => Sys2Proof.Machine.execVblen a s
  | .vlut a => Sys2Proof.Machine.execVlut a s
  | .vbsum a => Sys2Proof.Machine.execVbsum a s
  | .vbmax a => Sys2Proof.Machine.execVbmax a s
  | .vreq a => Sys2Proof.Machine.execVreq a s
  | .vmov a => Sys2Proof.Machine.execVmov a s
  | .dvtLayerLoad c => Sys2Proof.Machine.execDvtLayerLoad c s
  | .dvtTableLoad c => Sys2Proof.Machine.execDvtTableLoad c s
  | .dvtScore c => Sys2Proof.Machine.execDvtScore c s
  | .dvtPlanLoad c => Sys2Proof.Machine.execDvtPlanLoad c s
  | .dvtAvailSet c => Sys2Proof.Machine.execDvtAvailSet c s
  | .dvtAdmit c => Sys2Proof.Machine.execDvtAdmit c s
  | .dvtLayoutLoad c => Sys2Proof.Machine.execDvtLayoutLoad c s
  | .dvtLayoutSwitch c => Sys2Proof.Machine.execDvtLayoutSwitch c s
  | .graceExpiry p => Sys2Proof.Machine.execGraceExpiry p s
  | .dvtRecvOpen c => Sys2Proof.Machine.execDvtRecvOpen c s
  | .dvtRoute c => Sys2Proof.Machine.execDvtRoute c s
  | .dispatchUnit u => Sys2Proof.Machine.execDispatchUnit u s
  | .returnUnit u => Sys2Proof.Machine.execReturnUnit u s
  | .unitPacket k => Sys2Proof.Machine.execUnitPacket k s
  | .dvtReturn c => Sys2Proof.Machine.execDvtReturn c s
  | .dvtCombine c => Sys2Proof.Machine.execDvtCombine c s
  | .combineTimeout c => Sys2Proof.Machine.execCombineTimeout c s
  | .prlGroupLoad c => Sys2Proof.Machine.execPrlGroupLoad c s
  | .prlGroupDrop c => Sys2Proof.Machine.execPrlGroupDrop c s
  | .prlAlltoall c => Sys2Proof.Machine.execPrlAlltoall c s
  | .prlAlltoallv c => Sys2Proof.Machine.execPrlAlltoallv c s
  | .prlAllreduce c => Sys2Proof.Machine.execPrlAllreduce c s
  | .prlReduceScatter c => Sys2Proof.Machine.execPrlReduceScatter c s
  | .prlAllgather c => Sys2Proof.Machine.execPrlAllgather c s
  | .prlBroadcast c => Sys2Proof.Machine.execPrlBroadcast c s
  | .post k => Sys2Proof.Machine.execPost k s
  | .data k => Sys2Proof.Machine.execData k s
  | .partialSums k => Sys2Proof.Machine.execPartialSums k s
  | .exponents k => Sys2Proof.Machine.execExponents k s
  | .refuse k => Sys2Proof.Machine.execRefuse k s
  | .retry k => Sys2Proof.Machine.execRetry k s
  | .postRetryInterval c => Sys2Proof.Machine.execPostRetryInterval c s
  | .result k => Sys2Proof.Machine.execResult k s
  | .done k => Sys2Proof.Machine.execDone k s
  | .collectiveTimeout c => Sys2Proof.Machine.execCollectiveTimeout c s
  | .remPut c => Sys2Proof.Machine.execRemPut c s
  | .remGet c => Sys2Proof.Machine.execRemGet c s
  | .remFadd c => Sys2Proof.Machine.execRemFadd c s
  | .remCas c => Sys2Proof.Machine.execRemCas c s
  | .remPeg c => Sys2Proof.Machine.execRemPeg c s
  | .remWinInstall c => Sys2Proof.Machine.execRemWinInstall c s
  | .remWinRemove c => Sys2Proof.Machine.execRemWinRemove c s
  | .put k => Sys2Proof.Machine.execPut k s
  | .get k => Sys2Proof.Machine.execGet k s
  | .fadd k => Sys2Proof.Machine.execFadd k s
  | .cas k => Sys2Proof.Machine.execCas k s
  | .peg k => Sys2Proof.Machine.execPeg k s
  | .mget k => Sys2Proof.Machine.execMget k s
  | .mfadd k => Sys2Proof.Machine.execMfadd k s
  | .ack k => Sys2Proof.Machine.execAck k s
  | .getData k => Sys2Proof.Machine.execGetData k s
  | .atomicUpdateDone addr => Sys2Proof.Machine.execAtomicUpdateDone addr s
  | .clampWindowExpiry addr => Sys2Proof.Machine.execClampWindowExpiry addr s
  | .batchTimeout addr => Sys2Proof.Machine.execBatchTimeout addr s
  | .e2eTimeout tag => Sys2Proof.Machine.execE2eTimeout tag s
  | .parPreempt c => Sys2Proof.Machine.execParPreempt c s
  | .parResume c => Sys2Proof.Machine.execParResume c s
  | .parDiscard c => Sys2Proof.Machine.execParDiscard c s
  | .yardPoolCreate c => Sys2Proof.Machine.execYardPoolCreate c s
  | .yardPoolDestroy c => Sys2Proof.Machine.execYardPoolDestroy c s
  | .yardAlloc c => Sys2Proof.Machine.execYardAlloc c s
  | .yardRetain c => Sys2Proof.Machine.execYardRetain c s
  | .yardRelease c => Sys2Proof.Machine.execYardRelease c s
  | .ledgerOpen c => Sys2Proof.Machine.execLedgerOpen c s
  | .ckptCommit c => Sys2Proof.Machine.execCkptCommit c s
  | .ckptRestore c => Sys2Proof.Machine.execCkptRestore c s
  | .ckptSet c => Sys2Proof.Machine.execCkptSet c s
  | .mgtSensor c => Sys2Proof.Machine.execMgtSensor c s
  | .fwWrite c => Sys2Proof.Machine.execFwWrite c s
  | .fwVerify c => Sys2Proof.Machine.execFwVerify c s
  | .fwSelect c => Sys2Proof.Machine.execFwSelect c s
  | .fltCopyCheck c => Sys2Proof.Machine.execFltCopyCheck c s
  | .fltSelftest c => Sys2Proof.Machine.execFltSelftest c s
  | .lftBayCfgWrite fn b v => Sys2Proof.Machine.execLftBayCfgWrite fn b v s
  | .bayReconfigDone b => Sys2Proof.Machine.execBayReconfigDone b s
  | .scrubVisit => Sys2Proof.Machine.execScrubVisit s
  | .ssdCompletion tag ok => Sys2Proof.Machine.execSsdCompletion tag ok s
  | .ssdRemoval ssd => Sys2Proof.Machine.execSsdRemoval ssd s
  | .hostReadCompletion tag data => Sys2Proof.Machine.execHostReadCompletion tag data s
  | .parCfgWrite fn p v => Sys2Proof.Machine.execParCfgWrite fn p v s
  | .parBreachRingWrite fn p v => Sys2Proof.Machine.execParBreachRingWrite fn p v s
  | .drainBegin => Sys2Proof.Machine.execDrainBegin s
  | .drainEnd => Sys2Proof.Machine.execDrainEnd s
  | .switch => Sys2Proof.Machine.execSwitch s
  | .switchTimeReached => Sys2Proof.Machine.execSwitchTimeReached s
  | .snap => Sys2Proof.Machine.execSnap s
  | .transitPacket port k => Sys2Proof.Machine.execTransitPacket port k s
  | .loss k => Sys2Proof.Machine.execLoss k s
  | .planeState k => Sys2Proof.Machine.execPlaneState k s
  | .sweepStart => Sys2Proof.Machine.execSweepStart s
  | .sweep port k => Sys2Proof.Machine.execSweep port k s
  | .sweepAck port k => Sys2Proof.Machine.execSweepAck port k s
  | .sweepReport port k => Sys2Proof.Machine.execSweepReport port k s
  | .sweepAlive port k => Sys2Proof.Machine.execSweepAlive port k s
  | .sweepDone port k => Sys2Proof.Machine.execSweepDone port k s
  | .sweepProbeTimeout port => Sys2Proof.Machine.execSweepProbeTimeout port s
  | .sweepAliveTimer => Sys2Proof.Machine.execSweepAliveTimer s
  | .sweepChildLost port => Sys2Proof.Machine.execSweepChildLost port s
  | .sweepFollowup => Sys2Proof.Machine.execSweepFollowup s
  | .shaperEligible sh => Sys2Proof.Machine.execShaperEligible sh s
  | .qsamplePeriod => Sys2Proof.Machine.execQsamplePeriod s
  | .qsampleClear => Sys2Proof.Machine.execQsampleClear s
  | .telHdrCfgWrite fn v => Sys2Proof.Machine.execTelHdrCfgWrite fn v s
  | .linkBlock port b => Sys2Proof.Machine.execLinkBlock port b s
  | .credit port f => Sys2Proof.Machine.execCredit port f s
  | .retryReq port f => Sys2Proof.Machine.execRetryReq port f s
  | .retryReqRepeat port => Sys2Proof.Machine.execRetryReqRepeat port s
  | .heartbeat port f => Sys2Proof.Machine.execHeartbeat port f s
  | .heartbeatTimer port => Sys2Proof.Machine.execHeartbeatTimer port s
  | .creditRepeatTimer port => Sys2Proof.Machine.execCreditRepeatTimer port s
  | .card port f0 f1 => Sys2Proof.Machine.execCard port f0 f1 s
  | .cardAck port f => Sys2Proof.Machine.execCardAck port f s
  | .cardResendTimer port => Sys2Proof.Machine.execCardResendTimer port s
  | .width port f => Sys2Proof.Machine.execWidth port f s
  | .tag port f => Sys2Proof.Machine.execTag port f s
  | .time port f => Sys2Proof.Machine.execTime port f s
  | .sync port f => Sys2Proof.Machine.execSync port f s
  | .linkDelayTimer port => Sys2Proof.Machine.execLinkDelayTimer port s
  | .segmentCloseTimeout port => Sys2Proof.Machine.execSegmentCloseTimeout port s
  | .keyRollover port => Sys2Proof.Machine.execKeyRollover port s
  | .linkSilenceTimeout port => Sys2Proof.Machine.execLinkSilenceTimeout port s
  | .laneFault port lane => Sys2Proof.Machine.execLaneFault port lane s
  | .trainingTimeout port => Sys2Proof.Machine.execTrainingTimeout port s
  | .portEnable port on => Sys2Proof.Machine.execPortEnable port on s
  | .retrain port => Sys2Proof.Machine.execRetrain port s
  | .widen port => Sys2Proof.Machine.execWiden port s
  | .expectedPeerWrite fn port v => Sys2Proof.Machine.execExpectedPeerWrite fn port v s
  | .hallDataFrame port f => Sys2Proof.Machine.execHallDataFrame port f s
  | .hallAckFrame port f => Sys2Proof.Machine.execHallAckFrame port f s
  | .hallNakFrame port f => Sys2Proof.Machine.execHallNakFrame port f s
  | .hallTrainFrame port f => Sys2Proof.Machine.execHallTrainFrame port f s
  | .hallRto port => Sys2Proof.Machine.execHallRto port s
  | .mkaFrame port f => Sys2Proof.Machine.execMkaFrame port f s
  | .sakTimeout port => Sys2Proof.Machine.execSakTimeout port s
  | .ptpMessage port f => Sys2Proof.Machine.execPtpMessage port f s
  | .leaseReq port k => Sys2Proof.Machine.execLeaseReq port k s
  | .leaseReqTimer => Sys2Proof.Machine.execLeaseReqTimer s
  | .leaseGrant k => Sys2Proof.Machine.execLeaseGrant k s
  | .leaseExpiry => Sys2Proof.Machine.execLeaseExpiry s
  | .leaseSilence pos => Sys2Proof.Machine.execLeaseSilence pos s
  | .report k => Sys2Proof.Machine.execReport k s
  | .reportMergeClose suspect => Sys2Proof.Machine.execReportMergeClose suspect s
  | .verdict k => Sys2Proof.Machine.execVerdict k s
  | .verdictIssue fn v => Sys2Proof.Machine.execVerdictIssue fn v s
  | .fenced k => Sys2Proof.Machine.execFenced k s
  | .rejoin fn v => Sys2Proof.Machine.execRejoin fn v s
  | .csrWrite fn addr bytes v => Sys2Proof.Machine.execCsrWrite fn addr bytes v s
  | .bar4Access fn off a => Sys2Proof.Machine.execBar4Access fn off a s
  | .configRequest fn reg w => Sys2Proof.Machine.execConfigRequest fn reg w s
  | .atomicop fn bar off => Sys2Proof.Machine.execAtomicop fn bar off s
  | .msixUnmask fn vec => Sys2Proof.Machine.execMsixUnmask fn vec s
  | .flr fn => Sys2Proof.Machine.execFlr fn s
  | .spdmRequest k => Sys2Proof.Machine.execSpdmRequest k s
  | .setFabricKey k => Sys2Proof.Machine.execSetFabricKey k s
  | .setHallCak k => Sys2Proof.Machine.execSetHallCak k s
  | .getKeyStatus => Sys2Proof.Machine.execGetKeyStatus s
  | .dbgUnlock cert => Sys2Proof.Machine.execDbgUnlock cert s
  | .zeroize fn => Sys2Proof.Machine.execZeroize fn s
  | .svnCommit fn => Sys2Proof.Machine.execSvnCommit fn s
  | .glitchDetect => Sys2Proof.Machine.execGlitchDetect s
  | .secureBoot => Sys2Proof.Machine.execSecureBoot s
  | .recoveryGo fn v => Sys2Proof.Machine.execRecoveryGo fn v s
  | .warm fn => Sys2Proof.Machine.execWarm fn s
  | .partReset fn p => Sys2Proof.Machine.execPartReset fn p s
  | .watchdogExpiry => Sys2Proof.Machine.execWatchdogExpiry s
  | .vauxUp => Sys2Proof.Machine.execVauxUp s
  | .vin12Up => Sys2Proof.Machine.execVin12Up s
  | .perstRelease => Sys2Proof.Machine.execPerstRelease s
  | .perstAssert => Sys2Proof.Machine.execPerstAssert s
  | .fwReady => Sys2Proof.Machine.execFwReady s
  | .brakeN on => Sys2Proof.Machine.execBrakeN on s
  | .brakeLevelReached => Sys2Proof.Machine.execBrakeLevelReached s
  | .hotspotN on => Sys2Proof.Machine.execHotspotN on s
  | .clockStepDown => Sys2Proof.Machine.execClockStepDown s
  | .clockStepUp => Sys2Proof.Machine.execClockStepUp s
  | .dutyCapStep up => Sys2Proof.Machine.execDutyCapStep up s
  | .thermtrip => Sys2Proof.Machine.execThermtrip s
  | .vinLow => Sys2Proof.Machine.execVinLow s
  | .brownout => Sys2Proof.Machine.execBrownout s
  | .refclkLost clk => Sys2Proof.Machine.execRefclkLost clk s
  | .time1ppsEdge => Sys2Proof.Machine.execTime1ppsEdge s
  | .timeSourceLost => Sys2Proof.Machine.execTimeSourceLost s
  | .setEndpointId eid => Sys2Proof.Machine.execSetEndpointId eid s
  | .entdaa da => Sys2Proof.Machine.execEntdaa da s
  | .pldmRequest k => Sys2Proof.Machine.execPldmRequest k s
  | .pldmSensorRefresh => Sys2Proof.Machine.execPldmSensorRefresh s
  | .pldmFwUpdate k => Sys2Proof.Machine.execPldmFwUpdate k s
  | .updateHoldTimeout => Sys2Proof.Machine.execUpdateHoldTimeout s
  | .braceUpdate => Sys2Proof.Machine.execBraceUpdate s
  | .signalDetect port => Sys2Proof.Machine.execSignalDetect port s
  | .blockLock port => Sys2Proof.Machine.execBlockLock port s
  | .widenTimeout port => Sys2Proof.Machine.execWidenTimeout port s
  | .ppsOutEdge => Sys2Proof.Machine.execPpsOutEdge s
  | .vaux3p3Loss => Sys2Proof.Machine.execVaux3p3Loss s
  | .partitionResetDone p => Sys2Proof.Machine.execPartitionResetDone p s
  | .sakRekey port => Sys2Proof.Machine.execSakRekey port s

end Sys2Proof.Machine
end

