-- ==== Sys2Proof/Machine/LinkTick.lean ====
section
/-! DEFINITION. What the links and the Truss do in a nanosecond: flit slots, blocks (R257, R258, R289, R296), hall frames (R294), and what the firmware
sends on hall ports by itself (R295, R479). -/

namespace Sys2Proof.Machine

/-! ### Blocks -/

/-- A TIME flit. -/
def isTime (b : Block) : Bool := byteFld b 0 1 == 0x09

/-- The first n flits that may go now, and the rest, each in order. -/
def pickCtl (can : Block → Bool) : (n : Nat) → List Block → List Block × List Block
  | 0, l => ([], l)
  | _, [] => ([], [])
  | n + 1, b :: r =>
    if can b then let o := pickCtl can n r; (b :: o.1, o.2) else let o := pickCtl can (n + 1) r; (o.1, b :: o.2)

/-- A TIME flit gets its timestamp as its block leaves (R296): t1 of a request, t3 of a response. -/
def stampTime (now : W64) (b : Block) : Block :=
  if isTime b then (if bit b 16 then setFld b 255 192 now.toNat else setFld b 127 64 now.toNat) else b

/-- A response that leaves in CHECK completes the exchange that the peer began (R476). -/
def noteExchange (f : Nat) (s : State) (b : Block) : State :=
  if isTime b && bit b 16 && (s.port f).st == .check then
    settleKeys f (s.onPort f fun x =>
      { x with exPeer := some (BitVec.ofNat 64 (byteFld b 8 8), BitVec.ofNat 64 (byteFld b 16 8), BitVec.ofNat 64 (byteFld b 24 8)) })
  else s

/-- The WIDTH ack that a block on a half carries, if one is due: it goes on a half that remains, where the peer still takes blocks (R289). -/
def Port.widthAck (x : Port) (half : Nat) : Option Nat :=
  match x.txNext with
  | some m => if m.testBit half || Nat.land m x.txHalves == 0 then some m else none
  | none => none

/-- A block leaves when something waits to go out (R257, R258, R267, R268). TIME flits go on the lowest active half only (R296). After the block with a
WIDTH ack the new mapping begins at its lowest half (R289). -/
def sendBlock (f : Nat) (s : State) : State :=
  let x := s.port f
  let halves := halvesOf x.txHalves
  let half := halves.getD (x.blocks % halves.length) 0
  let ack := x.widthAck half
  let c := pickCtl (fun b => !isTime b || half == halves.getD 0 0) (16 - b2n ack.isSome) x.ctl
  let ctl := (match ack with | some m => [widthFlit true m] | none => []) ++ c.1.map (stampTime s.hall16)
  let from_ := x.replay.length - (x.txSeq - x.sendAt).toNat
  let seqd := (x.replay.drop from_).take (16 - ctl.length)
  if halves.isEmpty || (x.ctl.isEmpty && seqd.isEmpty && !x.ackDue && x.txNext.isNone) then s
  else
    let bs := blockOf x.sendAt x.rxSeq (ctl.map (1, ·) ++ seqd)
    let s := s.onPort f fun x => { x with
      ctl := c.2, sendAt := x.sendAt + BitVec.ofNat 16 seqd.length, ackDue := false
      blocks := if ack.isSome then 0 else x.blocks + 1, txHalves := ack.getD x.txHalves, txNext := if ack.isSome then none else x.txNext }
    ctl.foldl (noteExchange f) (s.emit (.block f half bs))

/-! ### Hall ports -/

/-- What waits on a hall port goes out in one DATA frame, link-control flits first; an acknowledgement alone in an ACK frame (R294). -/
def sendHall (f : Nat) (s : State) : State :=
  let x := s.port f
  let m := max 1 (fld (s.udpCfg f) 21 14)
  if !s.isLive f then s
  else if x.ctl.isEmpty && x.txFlits.isEmpty then (if x.ackDue then sendFrame f 1 0 [] s else s)
  else sendData f ((x.ctl.take m).map (1, ·) ++ x.txFlits) (s.onPort f fun x => { x with ctl := x.ctl.drop m, txFlits := [] })

/-- What the firmware sends on a hall port by itself: MKA every 2 s where the port has a CAK (R479, log 37), and as a boundary clock the messages of
IEEE 1588 (R295, log 38). -/
def hallFirmware (f : Nat) (s : State) : State :=
  let x := s.port f
  let s := match find? s.sec.cak (portIx f) with
    | some cak => if s.clk != x.sakAt && (s.clk - x.sakAt) % 2000000000 == 0 then s.emit (.frame f (Config.mkaFrame cak none s.clk)) else s
    | none => s
  if s.isLive f && Config.ptpDue f s.clk then s.emit (.frame f (Config.ptpFrame f s.clk)) else s

/-! ### One nanosecond -/

/-- What one port does in one nanosecond. A port that adapts its equalizers may go on to ALIGN (R280, log 34). -/
def portTick (f : Nat) (s : State) : State :=
  let x := s.port f
  if x.st = .equalize then
    let d := s.draw
    if Config.freeBit d.1 then enter f .align d.2 else d.2
  else if !x.linked then s
  else
    let s := sendCredits f (flitSlots f (s.slots f) s)
    if portClass f = 2 then hallFirmware f (sendHall f s) else sendBlock f s

/-- What the fabric does in one nanosecond: two slots of the Truss, then every port. -/
def fabricTick (s : State) : State := allPorts.foldl (fun s f => portTick f s) (trussTick s)

end Sys2Proof.Machine
end

