-- ==== Sys2Proof/Machine/Tick.lean ====
section
/-! DEFINITION. What happens in one nanosecond whatever is commanded: the model's clock, hall time, the pulse output, the accounting buffer and the ports. -/

namespace Sys2Proof.Machine

/-- One nanosecond (log 2): hall time advances while CLK_TIME runs, the pulse ends in its time, accounts settle, and ports start what is due. -/
def tick (s : State) : State :=
  let s := { s with clk := s.clk + 1 }
  if s.pwr.rails && !s.pwr.perst then fabricTick (acctTick (ppsTick (hallTick s))) else s

end Sys2Proof.Machine
end

