-- ==== Sys2Proof/Safety.lean ====
section
/-! DEFINITION. The terms statements are written in: how a command ended, what stayed the same, and the invariant of the memories. -/

namespace Sys2Proof.Machine

/-- The command that c names has ended with this status, result and detail, and waits for its record (R49). -/
def State.Ended (t : State) (c : CmdRef) (st : Status) (result det : Nat) : Prop :=
  (t.inflight c).map (·.stage) = some (.ended ⟨st, BitVec.ofNat 64 result, BitVec.ofNat 32 det, false⟩)

/-- The command that c names is running: it ends by a later event. -/
def State.Running (t : State) (c : CmdRef) : Prop := (t.inflight c).map (·.stage) = some .running

/-- No update of peg p has come in this nanosecond yet: the next one begins a CLK_CTL cycle of its own (R39). -/
def State.PegFresh (s : State) (p : Nat) : Prop := ∀ y, find? s.cmd.cycles p = some y → y.at_ ≠ s.clk

/-- Every byte of the Loft, HBM, the benches and flash is as it was. -/
def State.SameMemory (s t : State) : Prop := t.loft = s.loft ∧ t.hbm = s.hbm ∧ t.bench = s.bench ∧ t.flash = s.flash

/-- Array a runs an instruction of opcode o that is not the last of its image: its launch is l and its bits are k. -/
def State.AtInstr (s : State) (a o : Nat) (l : ArrLaunch) (k : BitVec 256) : Prop :=
  s.currentOp a o = some (l, k) ∧ ∃ im, (s.arr a).image = some im ∧ (s.arr a).pc + 1 < im.code.length

/-- No granule of the bench of array a is poisoned (R446). -/
def State.BenchSound (s : State) (a : Nat) : Prop := ∀ off, s.poisoned .bench (benchAt a off) = none

/-- Every byte of the benches outside the given runs of the bench of array a is as it was. -/
def State.BenchKept (s t : State) (a : Nat) (xs : List Span) : Prop :=
  ∀ j, (∀ x ∈ xs, ∀ i, i < x.2 → j ≠ benchAt a (x.1 + i)) → memGet t.bench j = memGet s.bench j

/-- Some other array of the launch that holds array a runs on. -/
def State.OthersRun (s : State) (a : Nat) (l : ArrLaunch) : Prop := ∃ e ∈ s.arraysOf l.cmd, e.1 ≠ a ∧ e.2.ended = false

/-- Every other array of the launch that holds array a has ended, and the launch is a command in flight that no preemption request stands for. -/
def State.LastArray (s : State) (a : Nat) (l : ArrLaunch) : Prop :=
  (∀ e ∈ s.arraysOf l.cmd, e.1 ≠ a → e.2.ended = true) ∧ (s.inflight l.cmd).isSome = true ∧ ∀ q ∈ s.par.requests, q.cmd ≠ l.cmd

/-- Every array that the launch held in s is free in t. -/
def State.Freed (s t : State) (l : ArrLaunch) : Prop := ∀ e ∈ s.arraysOf l.cmd, (t.arr e.1).launch = none ∧ (t.arr e.1).phase = .idle

/-- How many entries a GATHER takes when it fires by its count or its close peg (R128, conditions 1 and 3); none where neither holds. -/
def State.takes (s : State) (a : Nat) (l : ArrLaunch) (k : BitVec 256) : Option Nat :=
  if count12 (iline k 2) ≤ arrivals a k s then some (count12 (iline k 2))
  else if l.det = false ∧ bit k 8 = true ∧ byteFld k 28 4 ≤ (s.pegVal (byteFld k 10 2 % 2 ^ 14)).toNat then some (arrivals a k s)
  else none

/-- The first n entries of a GATHER's ring are es: each is well formed, and it and what it names can be read (R131). -/
def State.Entries (s : State) (a : Nat) (l : ArrLaunch) (k : BitVec 256) (n : Nat) (es : Nat → GatherEntry) : Prop :=
  ∀ v, v < n → gatherEntry l k (getD (s.arr a).consumed (ringOf k) 0).toNat v s = .ok (es v)

/-- What a GATHER that fires with the n entries es leaves (R131): vectors, scales and tags in the bench, the count in s15 and gcount, the entries consumed.
Other registers of the array, other arrays, the Loft, HBM and flash stay. -/
def State.Gathered (s t : State) (a : Nat) (k : BitVec 256) (n : Nat) (es : Nat → GatherEntry) : Prop :=
  t.bench = ((List.range n).foldl (fun u v => placeEntry a k v (es v) u) s).bench ∧
  (t.arr a).sreg 15 = BitVec.ofNat 32 n ∧ (∀ r, r ≠ 15 → (t.arr a).sreg r = (s.arr a).sreg r) ∧ (t.arr a).gcount = BitVec.ofNat 16 n ∧
  getD (t.arr a).consumed (ringOf k) 0 = getD (s.arr a).consumed (ringOf k) 0 + BitVec.ofNat 64 n ∧ (t.arr a).gather = none ∧
  (t.arr a).vregs = (s.arr a).vregs ∧ (∀ b, b ≠ a → t.arr b = s.arr b) ∧ t = { s with arrs := t.arrs, bench := t.bench, tier := t.tier } ∧
  t.tier = { s.tier with benchPoison := t.tier.benchPoison }

/-- Array a has gone on to its next instruction, and every other array is as it was. -/
def State.Advanced (s t : State) (a : Nat) : Prop :=
  (t.arr a).pc = (s.arr a).pc + 1 ∧ (t.arr a).phase = .running ∧ (t.arr a).image = (s.arr a).image ∧ ∀ b, b ≠ a → t.arr b = s.arr b

/-- A waiting packet of this type and class is one the engine takes: well-formed, next of its source and class, whole, and of an accepted member epoch
(R264, R265, R328, R453). -/
def State.Takes (s : State) (ty cls : Nat) (k : Packet) : Prop :=
  k.ty = ty ∧ k.cls = cls ∧ malformed k = false ∧ s.inTurn k = true ∧ (cls ≠ 0 → crcOk k = true ∧ epochCheck s k = none)

/-- A waiting request of this type is one the target takes: it comes from the own cube and is no older than its lifetime (R354). -/
def State.TakesRequest (s : State) (ty : Nat) (k : Packet) : Prop :=
  s.Takes ty 2 k ∧ k.src / 64 = s.selfCube ∧ (s.hallUs - BitVec.ofNat 32 (k.f 40 4)).toNat ≤ fld s.remCfg 49 36

/-- A request of partition p that the target takes goes on at once: no earlier one of its flow has yet to execute, no bay of the partition is busy, and no group of
a word in its granules, nor for a CAS an update of its word, is to come first (R357, R361, R371). -/
def State.GoesOn (s : State) (p : Nat) (k : Packet) : Prop := s.isWaiting k = false ∧ (closeFor p k (takeIn k s)).reqWaits p k = false

/-- A link-control flit of this subtype is one the port takes: its link runs, and the flit is well formed (R266). -/
def State.TakesCtl (s : State) (f sub : Nat) (b : BitVec 512) : Prop := (s.port f).linked = true ∧ ctlOk b = true ∧ byteFld b 0 1 = sub

/-- Nothing but port f has changed. -/
def State.OnlyPort (s t : State) (f : Nat) : Prop :=
  t = { s with fab := { s.fab with ports := t.fab.ports } } ∧ ∀ g, g ≠ f → t.port g = s.port g

/-- The link of port f has gone down: the port trains again from ALIGN, and the event is counted (R271). -/
def State.WentDown (s t : State) (f : Nat) : Prop :=
  (t.port f).st = .align ∧ (t.port f).linkDowns = satAdd (s.port f).linkDowns 1 ∧ (t.port f).event = (s.port f).event ||| 2

/-- A register write of the PF reaches its block: configuration is ready, no FLR runs, and the boot has not halted (R525, R528, R529). -/
def State.PfWrites (s : State) : Prop := s.pwr.ready = true ∧ s.host.flr.contains 0 = false ∧ s.host.bootState.toNat < 2

/-- What every reset of the device leaves (R464, R509, Table Fault-10): the cause is noted and configuration is not ready; queues, pegs, engines and fabric are as after power-up; the Loft, HBM and the benches
hold nothing written; every key is gone; registers hold their reset values, but for PWR_CFG's brake_sw. Flash and boot flash stay. -/
def State.WasReset (s t : State) (cause : Nat) : Prop :=
  t.pwr.lastReset = BitVec.ofNat 4 cause ∧ t.pwr.ready = false ∧ t.pwr.fwReady = false ∧
  t.cmd = { nextRead := s.cmd.nextRead } ∧ t.arrs = [] ∧ t.dvt = {} ∧ t.prl = {} ∧ t.rem = {} ∧ t.yrd = {} ∧ t.par = {} ∧ t.flt = {} ∧ t.fab = {} ∧
  t.loft = [] ∧ t.hbm = [] ∧ t.bench = [] ∧ t.flash = s.flash ∧ t.sec.xspi = s.sec.xspi ∧
  t.sec.fabricKey = none ∧ t.sec.cak = [] ∧ t.sec.partKeys = 0 ∧ t.sec.sessions = [] ∧
  (∀ off, off ≠ 0x16000000 → t.reg off = regReset off) ∧ fld t.pwrCfg 63 1 = fld (regReset 0x16000000) 63 1

/-- Every memory is in canonical form. -/
def State.Canon (s : State) : Prop :=
  Memory.wf s.loft = true ∧ Memory.wf s.hbm = true ∧ Memory.wf s.bench = true ∧ Memory.wf s.flash = true ∧ Memory.wf s.sec.xspi = true

end Sys2Proof.Machine
end

