-- ==== Sys2Proof/WellFormed.lean ====
section
/-! DEFINITION. Well-formed commands: the operands that a row of the opcode table can carry, beyond the ranges their types give. -/

namespace Sys2Proof

/-- A packet or frame that a link can carry: at most 4,096 payload bytes (Table Link-4). -/
def Packet.wellFormed (k : Packet) : Bool := decide (k.payload.length ≤ 4096)

/-- Bytes a PCIe request can carry: 1 to 4,096. -/
def tlpBytes (n : Nat) : Bool := decide (1 ≤ n) && decide (n ≤ 4096)

/-- A BAR4 access carries at least one byte and at most 4,096. -/
def HostAccess.wellFormed : HostAccess → Bool
  | .read n => tlpBytes n
  | .write bs => tlpBytes bs.length

/-- A completion brings at most 4,096 bytes. -/
def HostData.wellFormed : HostData → Bool
  | .bytes bs => tlpBytes bs.length
  | .failed => true

/-- A command's operands are data of its row. -/
def Instr.wellFormed : Instr → Bool
  | .wqProducerIndex _ _ _ => true
  | .cqConsumerIndex _ _ _ => true
  | .commandFetch _ => true
  | .commandGrant _ => true
  | .waitTimeout _ => true
  | .commandComplete _ => true
  | .cqIrqTime _ => true
  | .nop _ => true
  | .pegAdd _ => true
  | .pegSet _ => true
  | .pegRead _ => true
  | .cancel _ => true
  | .wqCfgWrite _ _ _ => true
  | .cqCfgWrite _ _ _ => true
  | .pegValueWrite _ _ _ => true
  | .copy _ => true
  | .plankAlloc _ => true
  | .plankFree _ => true
  | .tierMove _ => true
  | .plankFlashWriteDone _ _ => true
  | .plankStat _ => true
  | .plankDigest _ => true
  | .seqJoin _ => true
  | .seqLeave _ => true
  | .seqStep _ => true
  | .planePrune _ => true
  | .planeApply _ => true
  | .planeExpand _ => true
  | .klaunch _ => true
  | .kpreload _ => true
  | .seqEnd _ => true
  | .seqSet _ => true
  | .seqAdd _ => true
  | .bnz _ => true
  | .waitpeg _ => true
  | .waitpegTimeout _ => true
  | .sigpeg _ => true
  | .setkey _ => true
  | .scribe _ => true
  | .gather _ => true
  | .gatherDeadline _ => true
  | .tload _ => true
  | .fill _ => true
  | .lmatmul _ => true
  | .vld _ => true
  | .vst _ => true
  | .vadd _ => true
  | .vsub _ => true
  | .vmin _ => true
  | .vmax _ => true
  | .vcmp _ => true
  | .vsel _ => true
  | .vand _ => true
  | .vor _ => true
  | .vxor _ => true
  | .vmul16 _ => true
  | .vmul32 _ => true
  | .vshl _ => true
  | .vshr _ => true
  | .valign _ => true
  | .vblen _ => true
  | .vlut _ => true
  | .vbsum _ => true
  | .vbmax _ => true
  | .vreq _ => true
  | .vmov _ => true
  | .dvtLayerLoad _ => true
  | .dvtTableLoad _ => true
  | .dvtScore _ => true
  | .dvtPlanLoad _ => true
  | .dvtAvailSet _ => true
  | .dvtAdmit _ => true
  | .dvtLayoutLoad _ => true
  | .dvtLayoutSwitch _ => true
  | .graceExpiry _ => true
  | .dvtRecvOpen _ => true
  | .dvtRoute _ => true
  | .dispatchUnit u => u.wellFormed
  | .returnUnit u => u.wellFormed
  | .unitPacket k => k.wellFormed
  | .dvtReturn _ => true
  | .dvtCombine _ => true
  | .combineTimeout _ => true
  | .prlGroupLoad _ => true
  | .prlGroupDrop _ => true
  | .prlAlltoall _ => true
  | .prlAlltoallv _ => true
  | .prlAllreduce _ => true
  | .prlReduceScatter _ => true
  | .prlAllgather _ => true
  | .prlBroadcast _ => true
  | .post k => k.wellFormed
  | .data k => k.wellFormed
  | .partialSums k => k.wellFormed
  | .exponents k => k.wellFormed
  | .refuse k => k.wellFormed
  | .retry k => k.wellFormed
  | .postRetryInterval _ => true
  | .result k => k.wellFormed
  | .done k => k.wellFormed
  | .collectiveTimeout _ => true
  | .remPut _ => true
  | .remGet _ => true
  | .remFadd _ => true
  | .remCas _ => true
  | .remPeg _ => true
  | .remWinInstall _ => true
  | .remWinRemove _ => true
  | .put k => k.wellFormed
  | .get k => k.wellFormed
  | .fadd k => k.wellFormed
  | .cas k => k.wellFormed
  | .peg k => k.wellFormed
  | .mget k => k.wellFormed
  | .mfadd k => k.wellFormed
  | .ack k => k.wellFormed
  | .getData k => k.wellFormed
  | .atomicUpdateDone _ => true
  | .clampWindowExpiry _ => true
  | .batchTimeout _ => true
  | .e2eTimeout _ => true
  | .parPreempt _ => true
  | .parResume _ => true
  | .parDiscard _ => true
  | .yardPoolCreate _ => true
  | .yardPoolDestroy _ => true
  | .yardAlloc _ => true
  | .yardRetain _ => true
  | .yardRelease _ => true
  | .ledgerOpen _ => true
  | .ckptCommit _ => true
  | .ckptRestore _ => true
  | .ckptSet _ => true
  | .mgtSensor _ => true
  | .fwWrite _ => true
  | .fwVerify _ => true
  | .fwSelect _ => true
  | .fltCopyCheck _ => true
  | .fltSelftest _ => true
  | .lftBayCfgWrite _ _ _ => true
  | .bayReconfigDone _ => true
  | .scrubVisit => true
  | .ssdCompletion _ _ => true
  | .ssdRemoval _ => true
  | .hostReadCompletion _ d => d.wellFormed
  | .parCfgWrite _ _ _ => true
  | .parBreachRingWrite _ _ _ => true
  | .drainBegin => true
  | .drainEnd => true
  | .switch => true
  | .switchTimeReached => true
  | .snap => true
  | .transitPacket _ k => k.wellFormed
  | .loss k => k.wellFormed
  | .planeState k => k.wellFormed
  | .sweepStart => true
  | .sweep _ k => k.wellFormed
  | .sweepAck _ k => k.wellFormed
  | .sweepReport _ k => k.wellFormed
  | .sweepAlive _ k => k.wellFormed
  | .sweepDone _ k => k.wellFormed
  | .sweepProbeTimeout _ => true
  | .sweepAliveTimer => true
  | .sweepChildLost _ => true
  | .sweepFollowup => true
  | .shaperEligible _ => true
  | .qsamplePeriod => true
  | .qsampleClear => true
  | .telHdrCfgWrite _ _ => true
  | .linkBlock _ b => decide (b.length = 1056)
  | .credit _ _ => true
  | .retryReq _ _ => true
  | .retryReqRepeat _ => true
  | .heartbeat _ _ => true
  | .heartbeatTimer _ => true
  | .creditRepeatTimer _ => true
  | .card _ _ _ => true
  | .cardAck _ _ => true
  | .cardResendTimer _ => true
  | .width _ _ => true
  | .tag _ _ => true
  | .time _ _ => true
  | .sync _ _ => true
  | .linkDelayTimer _ => true
  | .segmentCloseTimeout _ => true
  | .keyRollover _ => true
  | .linkSilenceTimeout _ => true
  | .laneFault _ _ => true
  | .trainingTimeout _ => true
  | .portEnable _ _ => true
  | .retrain _ => true
  | .widen _ => true
  | .expectedPeerWrite _ _ _ => true
  | .hallDataFrame _ _ => true
  | .hallAckFrame _ _ => true
  | .hallNakFrame _ _ => true
  | .hallTrainFrame _ _ => true
  | .hallRto _ => true
  | .mkaFrame _ _ => true
  | .sakTimeout _ => true
  | .ptpMessage _ _ => true
  | .leaseReq _ k => k.wellFormed
  | .leaseReqTimer => true
  | .leaseGrant k => k.wellFormed
  | .leaseExpiry => true
  | .leaseSilence _ => true
  | .report k => k.wellFormed
  | .reportMergeClose _ => true
  | .verdict k => k.wellFormed
  | .verdictIssue _ _ => true
  | .fenced k => k.wellFormed
  | .rejoin _ _ => true
  | .csrWrite _ _ bytes v => tlpBytes bytes && decide (v < 256 ^ bytes)
  | .bar4Access _ _ a => a.wellFormed
  | .configRequest _ _ _ => true
  | .atomicop _ _ _ => true
  | .msixUnmask _ _ => true
  | .flr _ => true
  | .spdmRequest _ => true
  | .setFabricKey _ => true
  | .setHallCak _ => true
  | .getKeyStatus => true
  | .dbgUnlock _ => true
  | .zeroize _ => true
  | .svnCommit _ => true
  | .glitchDetect => true
  | .secureBoot => true
  | .recoveryGo _ _ => true
  | .warm _ => true
  | .partReset _ _ => true
  | .watchdogExpiry => true
  | .vauxUp => true
  | .vin12Up => true
  | .perstRelease => true
  | .perstAssert => true
  | .fwReady => true
  | .brakeN _ => true
  | .brakeLevelReached => true
  | .hotspotN _ => true
  | .clockStepDown => true
  | .clockStepUp => true
  | .dutyCapStep _ => true
  | .thermtrip => true
  | .vinLow => true
  | .brownout => true
  | .refclkLost _ => true
  | .time1ppsEdge => true
  | .timeSourceLost => true
  | .setEndpointId _ => true
  | .entdaa _ => true
  | .pldmRequest _ => true
  | .pldmSensorRefresh => true
  | .pldmFwUpdate _ => true
  | .updateHoldTimeout => true
  | .braceUpdate => true
  | .signalDetect _ => true
  | .blockLock _ => true
  | .widenTimeout _ => true
  | .ppsOutEdge => true
  | .vaux3p3Loss => true
  | .partitionResetDone _ => true
  | .sakRekey _ => true

end Sys2Proof
end

