-- ==== Sys2Proof/Certificates/Slice0/Obligations.lean ====
section
/-! DEFINITION. The statements: what each command does to the state, what it leaves, and what every step keeps. -/

open Sys2Proof Sys2Proof.Machine

/-! ### The step and the state after reset -/

/-- A step takes the command at the front of the queue and runs it with the queue's rest, whatever the command and the state. On an empty queue a step passes
one nanosecond: the model's clock advances by one (the model's choice, log 2). -/
def Obligations.StepRunsFrontCommand : Prop :=
  (∀ (c : Instr) (rest : List Instr) (s : State), step { s with pending := c :: rest } = exec c { s with pending := rest }) ∧
  (∀ s : State, s.pending = [] → ∃ t, step s = .next t ∧ t.clk = s.clk + 1 ∧ t.pending = [])

/-! ### Pegs and the peg commands (chapter 2) -/

/-- R39: of the updates that reach one peg in one cycle, the adds come first, as one update by their sum, then each set in the order given;
other pegs keep their values. An update that is the first of its nanosecond has a cycle of its own; a later one joins the cycle in progress, in source order,
or begins another (which of the two is free, log 6). -/
def Obligations.PegCycleAddsThenSets : Prop :=
  (∀ (p : Nat) (us : List PegUpd) (s : State),
    (applyCycle p us s).pegVal p = us.foldl PegUpd.setOver (s.pegVal p + (us.map PegUpd.addend).sum) ∧
    ∀ q, q ≠ p → (applyCycle p us s).pegVal q = s.pegVal q) ∧
  (∀ (p : Nat) (k : PegSource) (u : PegUpd) (s : State),
    (s.PegFresh p → (pegUpdate p k u s).pegVal p = u.value (s.pegVal p)) ∧
    (∀ y, find? s.cmd.cycles p = some y → y.at_ = s.clk →
      let us := (insertUpd (k.rank, u) y.ups).map (·.2)
      (pegUpdate p k u s).pegVal p =
        if y.joins s.draws s then us.foldl PegUpd.setOver (y.base + (us.map PegUpd.addend).sum) else u.value (s.pegVal p)) ∧
    (∀ q, q ≠ p → (pegUpdate p k u s).pegVal q = s.pegVal q)) ∧
  (∀ (x : Nat × PegUpd) (us : List (Nat × PegUpd)), (us.map (·.1)).Pairwise (· ≤ ·) →
    ((insertUpd x us).map (·.1)).Pairwise (· ≤ ·) ∧ (insertUpd x us).Perm (x :: us))

/-- R40: a wait condition compares the peg's value with the zero-extended threshold as unsigned integers: GE, EQ and NE; the fourth code is none and always holds. -/
def Obligations.WaitConditionsCompareUnsigned : Prop :=
  ∀ (w : Nat) (v : BitVec 64),
    let thr := w / 2 ^ 18 % 2 ^ 46
    (w / 2 ^ 16 % 4 = 0 → (condHolds w v = true ↔ thr ≤ v.toNat)) ∧ (w / 2 ^ 16 % 4 = 1 → (condHolds w v = true ↔ v.toNat = thr)) ∧
    (w / 2 ^ 16 % 4 = 2 → (condHolds w v = true ↔ v.toNat ≠ thr)) ∧ (w / 2 ^ 16 % 4 = 3 → condHolds w v = true)

/-- NOP, PEG_ADD, PEG_SET and PEG_READ run in every state in which the command is granted and has not begun: they end OK, with the old value of the
peg (for PEG_READ the value at grant) as the result; the peg holds the sum modulo 2^64, or the new value, and every other peg its own. Where another update of
the peg has come in the same nanosecond, its value and the old value are those of R39 (`pegUpdate`, `pegBefore`).
Frame of NOP, PEG_ADD, PEG_SET, PEG_READ and PEG_VALUE_WRITE: beside the queues and pegs, what arrays wait for and the error log, only torn marks
of planks that the command itself had written may change; every memory, register and fabric state stays. -/
def Obligations.PegCommandsCompleteAndFrame : Prop :=
  (∀ (c : CmdRef) (s : State) (i : InFlight),
    (s.ready c 0x0100 = some i → ∃ t, exec (.nop c) s = .next t ∧ t.Ended c .ok 0 0 ∧ t.cmd.pegs = s.cmd.pegs) ∧
    (s.ready c 0x0101 = some i →
      let p := op i.pkt 32 2 % 2 ^ 14
      let u := PegUpd.add (BitVec.ofNat 64 (op i.pkt 40 8))
      ∃ t, exec (.pegAdd c) s = .next t ∧ t.Ended c .ok (s.pegBefore p (.queue c.q) u).toNat 0 ∧
        t.cmd.pegs = (pegUpdate p (.queue c.q) u s).cmd.pegs ∧ (∀ q, q ≠ p → t.pegVal q = s.pegVal q) ∧
        (s.PegFresh p → s.pegBefore p (.queue c.q) u = s.pegVal p ∧ t.pegVal p = s.pegVal p + BitVec.ofNat 64 (op i.pkt 40 8))) ∧
    (s.ready c 0x0102 = some i →
      let p := op i.pkt 32 2 % 2 ^ 14
      let u := PegUpd.set (BitVec.ofNat 64 (op i.pkt 40 8))
      ∃ t, exec (.pegSet c) s = .next t ∧ t.Ended c .ok (s.pegBefore p (.queue c.q) u).toNat 0 ∧
        t.cmd.pegs = (pegUpdate p (.queue c.q) u s).cmd.pegs ∧ (∀ q, q ≠ p → t.pegVal q = s.pegVal q) ∧
        (s.PegFresh p → s.pegBefore p (.queue c.q) u = s.pegVal p ∧ t.pegVal p = BitVec.ofNat 64 (op i.pkt 40 8))) ∧
    (s.ready c 0x0103 = some i → ∃ t, exec (.pegRead c) s = .next t ∧ t.Ended c .ok i.atGrant.toNat 0 ∧ t.cmd.pegs = s.cmd.pegs)) ∧
  (∀ (c : CmdRef) (fn : Fn) (p : PegIx) (v : BitVec 64) (s t : State),
    (∀ x ∈ [Instr.nop c, .pegAdd c, .pegSet c, .pegRead c], exec x s = .next t →
      t = { s with cmd := t.cmd, arrs := t.arrs, tier := t.tier, draws := t.draws } ∧ t.cmd.cq = s.cmd.cq ∧ t.cmd.reads = s.cmd.reads ∧
      ((∀ i, s.inflight c = some i → i.wrote = []) → t.tier = s.tier)) ∧
    (exec (.pegValueWrite fn p v) s = .next t → t = { s with cmd := t.cmd, arrs := t.arrs, host := t.host, draws := t.draws } ∧
      t.cmd.cq = s.cmd.cq ∧ ∀ q, q ≠ p.val → t.pegVal q = s.pegVal q))

/-! ### Doorbells -/

/-- R29: a producer index of an enabled interface from the queue's own function is accepted, has no effect, or is dropped with doorbell_err and a halt.
R33: a consumer index is accepted when (tail − c) mod 2^32 is at most the ring's size; otherwise it is dropped and cq_err is set.
A doorbell write is dropped before the device is ready and during an FLR of its function, and is dropped and logged for a queue outside the
function's partition. Table Cmd-1: an index takes a write of 32 or 64 bits, and a write to the rest of the page is dropped and logged. -/
def Obligations.DoorbellRules : Prop :=
  (∀ (fn : Fn) (q : QueueIx) (v : BitVec 32) (s : State),
    s.pwr.ready = true → s.host.flr.contains fn.val = false → s.fnOwnsQueue fn q = true →
    (diff32 v (s.queue q).producer = 0 → exec (.wqProducerIndex fn q v) s = .next s) ∧
    (1 ≤ diff32 v (s.queue q).producer → diff32 v (s.queue q).producer ≤ s.wqSize q → diff32 v (s.queue q).head ≤ s.wqSize q →
      exec (.wqProducerIndex fn q v) s = .next (s.setQueue q { s.queue q with producer := v })) ∧
    (diff32 v (s.queue q).producer ≠ 0 → s.wqSize q < diff32 v (s.queue q).producer ∨ s.wqSize q < diff32 v (s.queue q).head →
      exec (.wqProducerIndex fn q v) s = .next (s.setQueue q { s.queue q with doorbellErr := true, halted := true }))) ∧
  (∀ (fn : Fn) (q : QueueIx) (v : BitVec 32) (s : State),
    s.pwr.ready = true → s.host.flr.contains fn.val = false → s.fnOwnsQueue fn q = true →
    ∃ t, exec (.cqConsumerIndex fn q v) s = .next t ∧
      (t.cqOf q).consumer = (if diff32 (s.cqOf q).tail v ≤ s.cqSize q then v else (s.cqOf q).consumer) ∧
      (t.cqOf q).cqErr = ((s.cqOf q).cqErr || !decide (diff32 (s.cqOf q).tail v ≤ s.cqSize q)) ∧
      (t.cqOf q).tail = (s.cqOf q).tail ∧ t.cmd.wq = s.cmd.wq ∧ t.cmd.pegs = s.cmd.pegs ∧ t = { s with cmd := t.cmd }) ∧
  (∀ (fn : Fn) (q : QueueIx) (v : BitVec 32) (s : State),
    ((s.pwr.ready = false ∨ s.host.flr.contains fn.val = true) →
      exec (.wqProducerIndex fn q v) s = .next s ∧ exec (.cqConsumerIndex fn q v) s = .next s) ∧
    (s.pwr.ready = true → s.host.flr.contains fn.val = false → s.fnOwnsQueue fn q = false →
      ∃ t u, exec (.wqProducerIndex fn q v) s = .next t ∧ exec (.cqConsumerIndex fn q v) s = .next u ∧
        t = { s with host := t.host } ∧ u = { s with host := u.host } ∧
        (getD t.host.errLog fn {}).valid = true ∧ (getD u.host.errLog fn {}).valid = true)) ∧
  (∀ (fn : Fn) (q : QueueIx) (o : Fin 4096) (n v : Nat) (s : State),
    s.pwr.ready = true → s.host.flr.contains fn.val = false → s.fnOwnsQueue fn q = true →
    let off : BitVec 29 := BitVec.ofNat 29 (q.val * 4096 + o.val)
    ((n = 4 ∨ n = 8) → o.val = 0 → exec (.csrWrite fn (.bar2 off) n v) s = exec (.wqProducerIndex fn q (BitVec.ofNat 32 v)) s) ∧
    ((n = 4 ∨ n = 8) → o.val = 8 → exec (.csrWrite fn (.bar2 off) n v) s = exec (.cqConsumerIndex fn q (BitVec.ofNat 32 v)) s) ∧
    ((n = 4 ∨ n = 8) → o.val ≠ 0 → o.val ≠ 8 →
      exec (.csrWrite fn (.bar2 off) n v) s = .next (logErr fn 8 (widthCode n) 1 true (q.val * 4096 + o.val) s)))

/-! ### Fetch, grant, time-out, completion -/

/-- R30, R31: a slot that may be fetched from an HBM ring is copied on chip and the head moves past it; where the ring cannot be read, fetch_err is set and the
queue halts at the slot; for a ring in host memory a read request for the slot leaves. A slot at most 64 ahead of the issue point may be fetched. R46: a CANCEL
that has been fetched acts before anything else is fetched. -/
def Obligations.FetchRule : Prop :=
  (∀ (q : QueueIx) (s : State), exec (.commandFetch q) s = exec (.commandFetch q) (settleCancels s)) ∧
  (∀ (q : Nat) (s : State) (f : Fetched) (r : List Fetched), (s.queue q).fetched = f :: r → s.wqOn q = true → (s.queue q).halted = false →
    (s.queue q).fetching = none → (s.queue q).head ≠ (s.queue q).producer → s.host.flr.contains (s.parFn ((s.partOfQueue q).getD 0)) = false →
    (s.mayFetch q = true ↔ diff32 (s.queue q).head f.slot ≤ 64)) ∧
  ∀ (q : QueueIx) (s : State), s.mayFetch q = true → s.dueCancels = [] →
    let a := fld (s.wqBase q) 63 12 * 4096 + 64 * ((s.queue q).head.toNat % s.wqSize q)
    let p := (s.partOfQueue q).getD 0
    (∀ bs, bit (s.wqBase q) 0 = true → s.read p true a 64 true = .ok bs → opcode (toBlock bs) ≠ 0x0104 →
      ∃ t, exec (.commandFetch q) s = .next t ∧ (t.queue q).head = (s.queue q).head + 1 ∧
        (t.queue q).fetched.map (fun f => (f.slot, f.pkt)) =
          (s.queue q).fetched.map (fun f => (f.slot, f.pkt)) ++ [((s.queue q).head, toBlock bs)] ∧
        (t.queue q).inflight = (s.queue q).inflight ∧ t = { s with cmd := t.cmd }) ∧
    (∀ bs, bit (s.wqBase q) 0 = true → s.read p true a 64 true = .ok bs → opcode (toBlock bs) = 0x0104 →
      ∃ t, exec (.commandFetch q) s = .next t ∧ (t.queue q).head = (s.queue q).head + 1 ∧ (t.queue q).fetched = (s.queue q).fetched ∧
        (t.queue q).inflight.map (fun i => (i.slot, i.pkt, i.stage, i.counted)) =
          (s.queue q).inflight.map (fun i => (i.slot, i.pkt, i.stage, i.counted)) ++ [((s.queue q).head, toBlock bs, .granted, false)]) ∧
    (∀ e, bit (s.wqBase q) 0 = true → s.read p true a 64 true = .error e →
      exec (.commandFetch q) s = .next (s.setQueue q { s.queue q with fetchErr := true, halted := true, fetching := none })) ∧
    (bit (s.wqBase q) 0 = false → ∃ t, exec (.commandFetch q) s = .next t ∧ t.out = s.out ++ [.hostRead s.cmd.nextRead (s.parFn p) a 64] ∧
      (t.queue q).fetching = some s.cmd.nextRead ∧ (t.queue q).head = (s.queue q).head ∧ t = { s with cmd := t.cmd, out := t.out })

/-- R44: when its conditions hold, the command at the issue point is granted, with a completion entry reserved, and the next one reaches the
issue point; R36: a command that fails its checks ends there with that status and is not granted.
R46: a CANCEL that has been fetched acts before anything else is granted or timed out.
R43: a command that has stood at the issue point for wait_timeout µs without its waits met ends TIMEOUT, detail bits 0 and 1 naming the waits not
latched; with wait_timeout 0 nothing happens. -/
def Obligations.GrantAndWaitRules : Prop :=
  (∀ (q : QueueIx) (s : State), exec (.commandGrant q) s = exec (.commandGrant q) (settleCancels s) ∧
    exec (.waitTimeout q) s = exec (.waitTimeout q) (settleCancels s)) ∧
  (∀ (q : QueueIx) (s : State) (f : Fetched) (r : List Fetched), s.dueCancels = [] →
    (s.queue q).fetched = f :: r → s.wqOn q = true → (s.cqOf (s.cqOfQueue q)).recErr = false →
    diff32 (s.cqOf (s.cqOfQueue q)).tail (s.cqOf (s.cqOfQueue q)).consumer + (s.cqOf (s.cqOfQueue q)).reserved < s.cqSize (s.cqOfQueue q) →
    let p := (s.partOfQueue q).getD 0
    (checkPkt s p f.pkt = none → s.grantable q p f = true →
      ∃ t, exec (.commandGrant q) s = .next t ∧ (t.queue q).fetched.map (·.slot) = r.map (·.slot) ∧
        (t.queue q).inflight.map (fun i => (i.slot, i.pkt, i.stage, i.counted, i.cq)) =
          (s.queue q).inflight.map (fun i => (i.slot, i.pkt, i.stage, i.counted, i.cq)) ++ [(f.slot, f.pkt, .granted, true, some (s.cqOfQueue q))] ∧
        (t.cqOf (s.cqOfQueue q)).reserved = (s.cqOf (s.cqOfQueue q)).reserved + 1 ∧ t.cmd.pegs = s.cmd.pegs ∧
        t = { s with cmd := t.cmd, par := t.par, dvt := t.dvt, hbm := t.hbm, tier := t.tier, rem := t.rem } ∧
        (s.par.acctBuffer.length < 256 → s.SameMemory t ∧ t.tier = s.tier ∧ t.rem = s.rem ∧
          (∀ t0, f.reached = some t0 → f.acct = true → t.par.acctBuffer = s.par.acctBuffer ++ [(q.val, some (s.clk - t0))]))) ∧
    (checkPkt s p f.pkt = none → s.grantable q p f = false → exec (.commandGrant q) s = .next s) ∧
    (∀ e, checkPkt s p f.pkt = some e →
      ∃ t, exec (.commandGrant q) s = .next t ∧ (t.queue q).fetched.map (·.slot) = r.map (·.slot) ∧
        (t.queue q).inflight.map (fun i => (i.slot, i.pkt, i.stage, i.counted)) =
          (s.queue q).inflight.map (fun i => (i.slot, i.pkt, i.stage, i.counted)) ++
            [(f.slot, f.pkt, .ended ⟨e.st, 0, BitVec.ofNat 32 e.det, true⟩, false)] ∧
        t = { s with cmd := t.cmd, par := t.par, hbm := t.hbm, tier := t.tier, rem := t.rem } ∧
        (s.par.acctBuffer.length < 256 → s.SameMemory t ∧ t.tier = s.tier ∧ t.rem = s.rem))) ∧
  (∀ (q : QueueIx) (s : State) (f : Fetched) (r : List Fetched) (t0 : Nat), s.dueCancels = [] →
    (s.queue q).fetched = f :: r → f.reached = some t0 → checkPkt s ((s.partOfQueue q).getD 0) f.pkt = none →
    ((fld (s.wqCfg q) 31 16 = 0 ∨ f.met = true ∨ s.clk - t0 < fld (s.wqCfg q) 31 16 * 1000) → exec (.waitTimeout q) s = .next s) ∧
    (fld (s.wqCfg q) 31 16 ≠ 0 → f.met = false → fld (s.wqCfg q) 31 16 * 1000 ≤ s.clk - t0 →
      ∃ t, exec (.waitTimeout q) s = .next t ∧ (t.queue q).fetched.map (·.slot) = r.map (·.slot) ∧
        (t.queue q).inflight.map (fun i => (i.slot, i.pkt, i.stage, i.counted)) =
          (s.queue q).inflight.map (fun i => (i.slot, i.pkt, i.stage, i.counted)) ++
            [(f.slot, f.pkt, .ended ⟨.timeout, 0, BitVec.ofNat 32 (b2n (!f.latched0) + 2 * b2n (!f.latched1)), false⟩, false)] ∧
        t = { s with cmd := t.cmd }))
/-- R49 to R53: a command that has ended, on a ring in host memory, leaves: its signal is applied as its status says, its record, with the hall time of that moment,
is written to the next slot of the ring in which its entry was reserved, and the count of records advances. R558: while rec_err is set, the record is held as it
stands, with the signal applied.
R54: of several completed statuses the record carries the highest-ranked, in the order BREACH, OVERFLOW_SAT, LATE_CANCEL, OK; a status that is not
completed stays. Detail bits 31 to 28 of a completed status say what occurred.
R59: when irq_time µs have passed since the oldest unsignalled record of a completion queue with irq_en, one MSI-X message covers every record written;
earlier, or with irq_en 0, nothing happens. -/
def Obligations.CompletionRules : Prop :=
  (∀ (c : CmdRef) (s : State) (i : InFlight) (f : Fin'),
    ∀ n, s.inflight c = some i → i.stage = .ended f → i.cq = some n → bit (s.cqCfg n) 8 = true → s.PegFresh (wordPeg (signalWord i.pkt)) →
    let x := s.cqOf n
    let j : InFlight := { i with breach := i.breach.or (s.openIndex (s.cmdPart c)) }
    let st := finalStatus f.st j.sat j.breach.isSome
    let w := signalWord i.pkt
    (x.recErr = true → ∃ t, exec (.commandComplete c) s = .next t ∧ (t.inflight c).map (·.stage) = some (.held ⟨st, f.result, finalDetail f j, s.hall⟩) ∧
      (t.cqOf n).kept = x.kept ++ [⟨c.q, c.slot⟩] ∧ (t.cqOf n).tail = x.tail ∧ t.out = s.out) ∧
    (x.recErr = false → bit (s.cqBase n) 0 = false → ∃ t, exec (.commandComplete c) s = .next t ∧ t.inflight c = none ∧
      (t.cqOf n).tail = x.tail + 1 ∧ (t.cqOf n).reserved = x.reserved - 1 ∧
      .hostWrite (s.fnOfQueue c.q) (fld (s.cqBase n) 63 12 * 4096 + 32 * (x.tail.toNat % s.cqSize n))
        (recordBytes c.q i.pkt ⟨st, f.result, finalDetail f j, s.hall⟩ (x.tail.toNat / s.cqSize n % 2 == 0)) ∈ t.out ∧
      (∀ p, t.pegVal p =
        if signals st f.r36 (flagSoe i.pkt) ∧ p = wordPeg w ∧ signalMode w = 0 then s.pegVal p + BitVec.ofNat 64 (w / 2 ^ 16)
        else if signals st f.r36 (flagSoe i.pkt) ∧ p = wordPeg w ∧ signalMode w = 1 then BitVec.ofNat 64 (w / 2 ^ 16)
        else s.pegVal p) ∧
      s.SameMemory t)) ∧
  (∀ (f : Fin') (i : InFlight),
    (f.st.completed = true ↔ f.st ∈ [.ok, .lateCancel, .overflowSat, .breach]) ∧
    (f.st.completed = true →
      (i.breach.isSome = true → finalStatus f.st i.sat i.breach.isSome = .breach) ∧
      (i.breach = none → i.sat = true → finalStatus f.st i.sat i.breach.isSome = .overflowSat) ∧
      (i.breach = none → i.sat = false → finalStatus f.st i.sat i.breach.isSome = f.st) ∧
      bit (finalDetail f i) 28 = i.sat ∧ bit (finalDetail f i) 29 = i.breach.isSome ∧
      bit (finalDetail f i) 30 = i.late ∧ bit (finalDetail f i) 31 = i.tornRead ∧
      (i.breach = none → fld (finalDetail f i) 27 0 = fld f.det 27 0)) ∧
    (f.st.completed = false → finalStatus f.st i.sat i.breach.isSome = f.st ∧ finalDetail f i = f.det)) ∧
  (∀ (q : QueueIx) (s : State) (t0 : Nat), (s.cqOf q).oldest = some t0 →
    (bit (s.cqCfg q) 9 = true → fld (s.cqCfg q) 47 32 ≠ 0 → fld (s.cqCfg q) 47 32 * 1000 ≤ s.clk - t0 →
      ∃ t, exec (.cqIrqTime q) s = .next t ∧ (t.cqOf q).unsignalled = 0 ∧ (t.cqOf q).oldest = none ∧
        (let v := s.fnOfQueue q * 2048 + fld (s.cqCfg q) 20 10
         t.out = s.out ++ [.msix (s.fnOfQueue q) (fld (s.cqCfg q) 20 10)] ∨ v ∈ t.host.pendingBits) ∧
        t = { s with cmd := t.cmd, out := t.out, host := t.host }) ∧
    ((bit (s.cqCfg q) 9 = false ∨ fld (s.cqCfg q) 47 32 = 0 ∨ s.clk - t0 < fld (s.cqCfg q) 47 32 * 1000) → exec (.cqIrqTime q) s = .next s))
/-- R46, R47: a CANCEL that passes its checks takes every fetched command of the target queue with its tag away, each ending CANCELLED, names the granted ones
late, and ends OK, or LATE_CANCEL when it cancelled none. One that fails them ends with that status and acts on no command; a condition other than none fails them. -/
def Obligations.CancelRule : Prop :=
  (∀ (c : CmdRef) (s : State) (i : InFlight) (e : Err), s.ready c 0x0104 = some i → checkPkt s (s.cmdPart c) i.pkt = some e →
    exec (.cancel c) s = .next (s.updIn c ({ · with stage := .ended ⟨e.st, 0, BitVec.ofNat 32 e.det, true⟩ }))) ∧
  (∀ (p : Nat) (s : State) (k : Block), opcode k = 0x0104 → checkPkt s p k = none → condNone (wait0 k) = true ∧ condNone (wait1 k) = true) ∧
  ∀ (c : CmdRef) (s : State) (i : InFlight), s.ready c 0x0104 = some i → checkPkt s (s.cmdPart c) i.pkt = none →
    let q := op i.pkt 32 2 % 2 ^ 10
    let tag := op i.pkt 36 4
    let hit := (s.queue q).fetched.filter fun f => pktTag f.pkt == tag
    let late := (s.queue q).inflight.filter fun g => g.counted && pktTag g.pkt == tag
    ∃ t, exec (.cancel c) s = .next t ∧
      t.Ended c (if hit = [] then .lateCancel else .ok) (hit.length + late.length * 2 ^ 32) 0 ∧
      (t.queue q).fetched.map (fun f => (f.slot, f.pkt)) =
        ((s.queue q).fetched.filter fun f => pktTag f.pkt != tag).map (fun f => (f.slot, f.pkt)) ∧
      (∀ f ∈ hit, ∃ g ∈ (t.queue q).inflight, g.slot = f.slot ∧ g.pkt = f.pkt ∧ (g.slot = c.slot ∨ g.stage = .ended ⟨.cancelled, 0, 0, false⟩)) ∧
      (∀ g ∈ (t.queue q).inflight, g.counted = true → pktTag g.pkt = tag → g.late = true) ∧ t.cmd.pegs = s.cmd.pegs

/-! ### Queue registers and PEG_VALUE -/

/-- R58, R61: a write of WQ_CFG by the PF or the queue's function. While enable is 1 only enable may change; enable rises only with a legal ring size and an
enabled completion queue of the same partition.
R60, R61: a write of CQ_CFG that changes log2_entries while enable is 1, or clears enable while the completion queue is in use, is dropped and logged;
another write by the PF or the queue's function takes effect, and clears cq_err where it writes 1 to it.
R62: a PEG_VALUE write to a peg of the function's partition sets it; a write to another peg is dropped and logged. -/
def Obligations.QueueRegisterRules : Prop :=
  (∀ (fn : Fn) (q : QueueIx) (v : BitVec 64) (s : State),
    s.pwr.ready = true → s.host.flr.contains fn.val = false → s.host.bootState.toNat < 2 → s.mayWriteQueue fn q = true → v.toNat < 2 ^ 40 →
    ∃ t, exec (.wqCfgWrite fn q v) s = .next t ∧
      (bit (s.wqCfg q) 5 = true → setFld v 5 5 1 = s.wqCfg q → t.wqCfg q = v) ∧
      (bit (s.wqCfg q) 5 = true → setFld v 5 5 1 ≠ s.wqCfg q → t.wqCfg q = s.wqCfg q ∧ (getD t.host.errLog fn {}).valid = true) ∧
      (bit (s.wqCfg q) 5 = false → bit v 5 = false → t.wqCfg q = v) ∧
      (bit (s.wqCfg q) 5 = false → bit v 5 = true → 4 ≤ fld v 4 0 → fld v 4 0 ≤ 16 → s.cqUsable q v = true →
        t.wqCfg q = v ∧ (t.queue q).halted = false) ∧
      (bit (s.wqCfg q) 5 = false → bit v 5 = true → (fld v 4 0 < 4 ∨ 16 < fld v 4 0 ∨ s.cqUsable q v = false) →
        t.wqCfg q = setFld v 5 5 0 ∧ (getD t.host.errLog fn {}).valid = true) ∧
      (∀ off, off ≠ 0x0F000008 + 0x40 * q.val → t.reg off = s.reg off) ∧ t = { s with csr := t.csr, cmd := t.cmd, host := t.host }) ∧
  (∀ (fn : Fn) (q : QueueIx) (v : BitVec 64) (s : State),
    s.pwr.ready = true → s.host.flr.contains fn.val = false → s.host.bootState.toNat < 2 → s.mayWriteQueue fn q = true →
    (bit (s.cqCfg q) 8 = true → (fld v 4 0 ≠ fld (s.cqCfg q) 4 0 ∨ (bit v 8 = false ∧ s.cqInUse q = true)) →
      ∃ t, exec (.cqCfgWrite fn q v) s = .next t ∧ t = { s with host := t.host } ∧ (getD t.host.errLog fn {}).valid = true) ∧
    (bit (s.cqCfg q) 8 = true → fld v 4 0 = fld (s.cqCfg q) 4 0 → bit v 8 = true → bit v 49 = false →
      ∃ t, exec (.cqCfgWrite fn q v) s = .next t ∧ fld (t.cqCfg q) 47 32 = fld v 47 32 ∧ fld (t.cqCfg q) 31 24 = fld v 31 24 ∧
        fld (t.cqCfg q) 20 10 = fld v 20 10 ∧ bit (t.cqCfg q) 9 = bit v 9 ∧ bit (t.cqCfg q) 8 = bit v 8 ∧ fld (t.cqCfg q) 4 0 = fld v 4 0 ∧
        (t.cqOf q).cqErr = ((s.cqOf q).cqErr && !bit v 48) ∧ t.cmd.wq = s.cmd.wq ∧ t = { s with csr := t.csr, cmd := t.cmd })) ∧
  (∀ (fn : Fn) (p : PegIx) (v : BitVec 64) (s : State),
    s.pwr.ready = true → s.host.flr.contains fn.val = false → s.host.bootState.toNat < 2 →
    (s.fnOwnsPeg fn p = true → ∃ t, exec (.pegValueWrite fn p v) s = .next t ∧ (s.PegFresh p → t.pegVal p = v) ∧ ∀ q, q ≠ p.val → t.pegVal q = s.pegVal q) ∧
    (s.fnOwnsPeg fn p = false → ∃ t, exec (.pegValueWrite fn p v) s = .next t ∧ t = { s with host := t.host } ∧
      (getD t.host.errLog fn {}).valid = true))

/-! ### Shared-scale arithmetic (chapter 3) -/

/-- R74, R80: a right shift by less than 64 rounds to the nearest integer, a tie to the even one; a stochastic shift by 1 to 63 answers one of the two neighbours,
the upper one exactly when remainder plus draw reaches 2^s; an alignment is clamped to 48 bits and says when it was. -/
def Obligations.RoundingRules : Prop :=
  (∀ (x : Int) (n : Nat), n < 64 → 2 * (x - rshiftRne x n * 2 ^ n).natAbs ≤ 2 ^ n ∧
    (2 * (x - rshiftRne x n * 2 ^ n).natAbs = 2 ^ n → 0 < n → rshiftRne x n % 2 = 0)) ∧
  (∀ (x : Int) (n : Nat) (r : W64), 1 ≤ n → n < 64 →
    (rshiftSr x n r = x / 2 ^ n ∨ rshiftSr x n r = x / 2 ^ n + 1) ∧
    (rshiftSr x n r = x / 2 ^ n + 1 ↔ 2 ^ n ≤ x % 2 ^ n + ((r.toNat >>> (64 - n) : Nat) : Int)) ∧ (x % 2 ^ n = 0 → rshiftSr x n r = x / 2 ^ n)) ∧
  (∀ x e et : Int, -2 ^ 47 ≤ (align x e et).1 ∧ (align x e et).1 ≤ 2 ^ 47 - 1 ∧
    (et ≤ e → e - et ≤ 64 → ((align x e et).2 = false ↔ -2 ^ 47 ≤ x * 2 ^ (e - et).toNat ∧ x * 2 ^ (e - et).toNat ≤ 2 ^ 47 - 1)) ∧
    (et ≤ e → e - et ≤ 64 → (align x e et).2 = false → (align x e et).1 = x * 2 ^ (e - et).toNat))

/-! ### Matrix arrays and their programs (chapters 4 and 5) -/

/-- R120: SET, ADD, BNZ, SETKEY, WAITPEG and SIGPEG at an array that runs them: what each writes, and where the array goes on; the other scalar registers, the
VLU registers and everything outside the array stay, but for the peg that SIGPEG updates. A WAITPEG whose condition does not hold waits, and goes on once the
condition has held at an update of its peg. A SET that is the last instruction of its image stops its array, and the last array of a launch ends it BAD_RSV.
R117, R120: END on an array whose launch others still run ends its part; on the last one it ends the KLAUNCH: OK where no array failed or was preempted, with the
failure of the lowest failing array where one failed; the launch's arrays are free. A WAITPEG that times out stops its array, and ends the launch TIMEOUT where
every other array has ended without a failure.
R135: SCRIBE without a preemption request notes the mark and goes on, as it does where the save area has no room for the array. With a request that has room, and
a resume entry, the array's state is saved and, while others of its launch run, it stops at the mark. -/
def Obligations.SequencerAndMarks : Prop :=
  (∀ (a : ArrayIx) (s : State) (o : Nat) (l : ArrLaunch) (k : BitVec 256), s.AtInstr a o l k →
    (o = 0x01 → ∃ t, exec (.seqSet a) s = .next t ∧ s.Advanced t a ∧ (t.arr a).sreg (regOf k) = BitVec.ofNat 32 (byteFld k 4 4) ∧
      (∀ r, r ≠ regOf k → (t.arr a).sreg r = (s.arr a).sreg r) ∧ (t.arr a).vregs = (s.arr a).vregs ∧ t = { s with arrs := t.arrs }) ∧
    (o = 0x02 → ∃ t, exec (.seqAdd a) s = .next t ∧ s.Advanced t a ∧
      (t.arr a).sreg (regOf k) = (s.arr a).sreg (regOf k) + BitVec.ofNat 32 (byteFld k 4 4) ∧
      (∀ r, r ≠ regOf k → (t.arr a).sreg r = (s.arr a).sreg r) ∧ (t.arr a).vregs = (s.arr a).vregs ∧ t = { s with arrs := t.arrs }) ∧
    (o = 0x03 → (s.arr a).sreg (regOf k) = 0 → ∃ t, exec (.bnz a) s = .next t ∧ s.Advanced t a ∧ (t.arr a).s = (s.arr a).s ∧
      (t.arr a).vregs = (s.arr a).vregs ∧ t = { s with arrs := t.arrs }) ∧
    (o = 0x03 → (s.arr a).sreg (regOf k) ≠ 0 → (∀ im, (s.arr a).image = some im → byteFld k 2 2 % 1024 < im.code.length) →
      ∃ t, exec (.bnz a) s = .next t ∧ (t.arr a).pc = byteFld k 2 2 % 1024 ∧ (t.arr a).sreg (regOf k) = (s.arr a).sreg (regOf k) - 1 ∧
        (∀ r, r ≠ regOf k → (t.arr a).sreg r = (s.arr a).sreg r) ∧ (t.arr a).vregs = (s.arr a).vregs ∧ t = { s with arrs := t.arrs }) ∧
    (o = 0x06 → ∃ t, exec (.setkey a) s = .next t ∧ s.Advanced t a ∧
      (t.arr a).key = { seed := BitVec.ofNat 64 (byteFld k 8 8), tensor := BitVec.ofNat 32 (byteFld k 4 4),
                        base := BitVec.ofNat 48 (byteFld k 16 6), stride := BitVec.ofNat 48 (byteFld k 22 6) } ∧
      (t.arr a).s = (s.arr a).s ∧ (t.arr a).vregs = (s.arr a).vregs ∧ t = { s with arrs := t.arrs }) ∧
    (o = 0x04 → (s.arr a).wait = none → condHolds (byteFld k 8 8) (s.pegVal (wordPeg (byteFld k 8 8))) = true →
      ∃ t, exec (.waitpeg a) s = .next t ∧ s.Advanced t a ∧ (t.arr a).s = (s.arr a).s ∧ t = { s with arrs := t.arrs }) ∧
    (o = 0x04 → (s.arr a).wait = none → condHolds (byteFld k 8 8) (s.pegVal (wordPeg (byteFld k 8 8))) = false →
      ∃ t, exec (.waitpeg a) s = .next t ∧ (t.arr a).wait = some (byteFld k 8 8, false) ∧ (t.arr a).pc = (s.arr a).pc ∧ (t.arr a).phase = .waiting ∧
        (t.arr a).s = (s.arr a).s ∧ t = { s with arrs := t.arrs }) ∧
    (o = 0x04 → ∀ w, (s.arr a).wait = some (w, true) → ∃ t, exec (.waitpeg a) s = .next t ∧ s.Advanced t a ∧ (t.arr a).s = (s.arr a).s ∧
      t = { s with arrs := t.arrs }) ∧
    (o = 0x04 → ∀ w, (s.arr a).wait = some (w, false) → exec (.waitpeg a) s = .next s) ∧
    (o = 0x05 → ∃ t, exec (.sigpeg a) s = .next t ∧ (t.arr a).pc = (s.arr a).pc + 1 ∧ (t.arr a).s = (s.arr a).s ∧ s.SameMemory t ∧
      (let w := byteFld k 8 8
       let v := BitVec.ofNat 64 (w / 2 ^ 16 + (s.arr a).areg (regOf k))
       (signalMode w = 0 → s.PegFresh (wordPeg w) → t.pegVal (wordPeg w) = s.pegVal (wordPeg w) + v) ∧
       (signalMode w = 1 → s.PegFresh (wordPeg w) → t.pegVal (wordPeg w) = v) ∧
       (signalMode w = 0 → t.cmd = (pegUpdate (wordPeg w) (.array l.cmd.q a) (.add v) (s.onArr a endRun)).cmd) ∧
       (signalMode w = 1 → t.cmd = (pegUpdate (wordPeg w) (.array l.cmd.q a) (.set v) (s.onArr a endRun)).cmd) ∧
       (1 < signalMode w → t.cmd = s.cmd) ∧ (∀ p, p ≠ wordPeg w → t.pegVal p = s.pegVal p)))) ∧
  (∀ (a : ArrayIx) (s : State) (o : Nat) (l : ArrLaunch) (k : BitVec 256), s.currentOp a o = some (l, k) →
    (o = 0x01 → ∀ im, (s.arr a).image = some im → (s.arr a).pc + 1 = im.code.length → s.LastArray a l →
      (∀ e ∈ s.arraysOf l.cmd, e.1 ≠ a → e.2.err = none) →
      ∃ t, exec (.seqSet a) s = .next t ∧ t.Ended l.cmd .badRsv 0 0x40000002 ∧ (t.arr a).faultInstr = BitVec.ofNat 10 (im.code.length - 1) ∧ s.Freed t l) ∧
    (o = 0x00 → s.OthersRun a l →
      ∃ t, exec (.seqEnd a) s = .next t ∧ (t.arr a).launch = some { l with ended := true } ∧ (t.arr a).phase = .idle ∧
        (∀ b, b ≠ a.val → t.arr b = s.arr b) ∧ t = { s with arrs := t.arrs }) ∧
    (o = 0x00 → s.LastArray a l → (∀ e ∈ s.arraysOf l.cmd, e.2.err = none ∧ e.2.mark = none) →
      ∃ t n, exec (.seqEnd a) s = .next t ∧ t.Ended l.cmd .ok n 0 ∧ s.Freed t l) ∧
    (o = 0x00 → s.LastArray a l → ∀ e es, (s.arraysOf l.cmd).filterMap (·.2.err) = e :: es →
      ∃ t, exec (.seqEnd a) s = .next t ∧ t.Ended l.cmd e.st 0 e.det ∧ s.Freed t l) ∧
    (o = 0x04 → ∀ w, (s.arr a).wait = some (w, false) → byteFld k 4 2 ≠ 0 → byteFld k 4 2 * 1000 ≤ s.clk - (s.arr a).since → s.LastArray a l →
      (∀ e ∈ s.arraysOf l.cmd, e.1 ≠ a → e.2.err = none) →
      ∃ t, exec (.waitpegTimeout a) s = .next t ∧ t.Ended l.cmd .timeout 0 0 ∧ s.Freed t l) ∧
    (o = 0x04 → ∀ w, (s.arr a).wait = some (w, false) → byteFld k 4 2 ≠ 0 → byteFld k 4 2 * 1000 ≤ s.clk - (s.arr a).since → s.OthersRun a l →
      ∃ t, exec (.waitpegTimeout a) s = .next t ∧ (t.arr a).launch = some { l with err := some ⟨.timeout, 0⟩, ended := true } ∧ (t.arr a).phase = .idle ∧
        (∀ b, b ≠ a.val → t.arr b = s.arr b) ∧ t = { s with arrs := t.arrs }) ∧
    (o = 0x07 → s.AtInstr a o l k → s.requestOf l.cmd = none →
      ∃ t, exec (.scribe a) s = .next t ∧ s.Advanced t a ∧ (t.arr a).lastMark = BitVec.ofNat 16 (byteFld k 2 2) ∧ t = { s with arrs := t.arrs }) ∧
    (o = 0x07 → s.AtInstr a o l k → ∀ q im r, s.requestOf l.cmd = some q → (s.arr a).image = some im → readLive l im (byteFld k 4 2) s = .ok r →
      q.len < q.used + r.size →
      ∃ t, exec (.scribe a) s = .next t ∧ s.Advanced t a ∧ (t.arr a).lastMark = BitVec.ofNat 16 (byteFld k 2 2) ∧ s.SameMemory t) ∧
    (o = 0x07 → ∀ q im r i u, s.requestOf l.cmd = some q → (s.arr a).image = some im → readLive l im (byteFld k 4 2) s = .ok r →
      q.used + r.size ≤ q.len → takeResume l.cmd q.part s = some (i, u) → s.OthersRun a l →
      ∃ t, exec (.scribe a) s = .next t ∧ (t.arr a).launch = some { l with mark := some (byteFld k 2 2), ended := true } ∧ (t.arr a).phase = .idle ∧
        (∀ b, b ≠ a.val → t.arr b = s.arr b) ∧
        (∀ x, find? u.par.resumes i = some x → ∃ y, find? t.par.resumes i = some y ∧ y.arrs = x.arrs ++ [saveArr a l r (q.area + q.used) u]) ∧
        t.par.regs = (chargeAccess q.part (s.cmdLc q.cmd) true (q.area + q.used) r.size s).par.regs))

/-- R119, R127 to R131: a GATHER that is reached issues, and the array goes on; it fires at once where its batch is full or its close threshold is reached, and
watches its ring otherwise. One that watches fires later on the same terms, and stays as it is while they do not hold. When it fires, the vectors, scales and tags of its entries go to the bench, their number to s15 and gcount, and they are
consumed; at a deadline it takes what has arrived, outside determinism at least one entry. An entry that fails its checks stops the array. R134: TLOAD fills a
lookup table from 64 lines. -/
def Obligations.GatherAndTableLoads : Prop :=
  (∀ (a : ArrayIx) (s : State) (l : ArrLaunch) (k : BitVec 256), s.AtInstr a 0x08 l k →
    (s.takes a l k = none →
      ∃ t, exec (.gather a) s = .next t ∧ s.Advanced t a ∧ (t.arr a).s = (s.arr a).s ∧ t = { s with arrs := t.arrs } ∧
        (t.arr a).gather = some ⟨(s.arr a).pc, k, s.clk, byteFld k 8 2 % 2 ^ 14, getD (s.arr a).consumed (ringOf k) 0,
          if arrivals a k s = 0 then none else some s.clk⟩) ∧
    (∀ n es, s.takes a l k = some n → s.Entries a l k n es →
      ∃ t, exec (.gather a) s = .next t ∧ (t.arr a).pc = (s.arr a).pc + 1 ∧ s.Gathered t a k n es)) ∧
  (∀ (a : ArrayIx) (s : State) (l : ArrLaunch) (g : Gather), s.gathering a = some (l, g) →
    (s.takes a l g.k = none → exec (.gather a) s = .next s) ∧
    (∀ n es, s.takes a l g.k = some n → s.Entries a l g.k n es →
      ∃ t, exec (.gather a) s = .next t ∧ (t.arr a).pc = (s.arr a).pc ∧ s.Gathered t a g.k n es) ∧
    (∀ n u e, s.takes a l g.k = some (n + 1) → gatherEntry l g.k (getD (s.arr a).consumed (ringOf g.k) 0).toNat 0 s = .error (u, e) →
      exec (.gather a) s = .next (stopArray a l e u)) ∧
    (∀ t0 es, g.from_ l = some t0 → byteFld g.k 4 3 ≤ s.clk - t0 → (l.det = true ∨ arrivals a g.k s ≠ 0) →
      let n := min (arrivals a g.k s) (count12 (iline g.k 2))
      s.Entries a l g.k n es → ∃ t, exec (.gatherDeadline a) s = .next t ∧ (t.arr a).pc = (s.arr a).pc ∧ s.Gathered t a g.k n es) ∧
    (∀ t0, g.from_ l = some t0 → (s.clk - t0 < byteFld g.k 4 3 ∨ (l.det = false ∧ arrivals a g.k s = 0)) → exec (.gatherDeadline a) s = .next s) ∧
    (g.from_ l = none → exec (.gatherDeadline a) s = .next s)) ∧
  (∀ (a : ArrayIx) (s : State) (l : ArrLaunch) (k : BitVec 256), s.AtInstr a 0x09 l k → s.BenchSound a →
    ∃ t, exec (.tload a) s = .next t ∧ s.Advanced t a ∧ (t.arr a).s = (s.arr a).s ∧ (t.arr a).vregs = (s.arr a).vregs ∧ t = { s with arrs := t.arrs } ∧
      (∀ j, j < 1024 → getD (t.arr a).tables (byteFld k 7 1 % 4 * 1024 + j) 0 =
        BitVec.ofNat 32 (ofBytes ((List.range 4).map fun i => memGet s.bench (benchAt a (iline k 12 * 64 + 4 * j + i))))) ∧
      (∀ u j, u ≠ byteFld k 7 1 % 4 → j < 1024 → getD (t.arr a).tables (u * 1024 + j) 0 = getD (s.arr a).tables (u * 1024 + j) 0))

/-- R121 to R123, R97: a FILL of at least one vector whose weight tile can be read, on a sound bench and an array without a defect, goes on; in the bench it writes
nothing but its sum and pass-sum regions and its outputs, and the Loft only where its outputs go there. The first FILL of an EXPLICIT chain that is not its last leaves, for one vector, the sums of the aligned block
products at sum_line. A FILL of an empty batch changes no memory and goes on; one whose work fails stops its array (R84), as does a stochastic FILL of a gathered
batch under determinism (R439).
R124 to R126: an LMATMUL with a good parameter block whose operands can be read and whose outputs can be written, on a sound bench and an array without a defect,
goes on; in the bench it writes nothing but its outputs, its staging region and its sum regions. In mode 0x4 this is said of weights in the Loft and outputs in
the bench. One whose work fails stops its array. -/
def Obligations.MatrixInstructions : Prop :=
  (∀ (a : ArrayIx) (s : State) (l : ArrLaunch) (k : BitVec 256), s.AtInstr a 0x10 l k →
    let f := fillOp (s.arr a) k
    let p := s.cmdPart l.cmd
    let cols := tileCols f.mode f.ww
    (f.n ≠ 0 → (l.det && bit k 124 && f.sr) = false → s.BenchSound a → (s.arr a).upset = {} → (readTile s a f).isOk = true →
      (f.last = true → f.dst = 1 → ∀ v, v < f.n →
        s.writeFault p false ((f.outAt + v * f.outStride) * 64) (cols / 32 * blockBytesOf f.out) = none ∧
        s.writeFault p false ((f.outAt + f.n * f.outStride) * 64 + v * (cols / 32 * scaleBytesOf f.out)) (cols / 32 * scaleBytesOf f.out) = none) →
      ∃ t, exec (.fill a) s = .next t ∧ s.Advanced t a ∧ (t.arr a).s = (s.arr a).s ∧ (t.arr a).vregs = (s.arr a).vregs ∧ (t.arr a).mode = f.mode ∧
        s.BenchKept t a f.writes ∧ t.hbm = s.hbm ∧ t.flash = s.flash ∧ ((f.last = false ∨ f.dst ≠ 1) → t.loft = s.loft) ∧
        (∀ act tile, f.n = 1 → f.first = true → f.last = false → f.explicit = true →
          readAct s a f.mode f.aw (f.act * 64) f.asc = .ok act → readTile s a f = .ok tile → ∀ c, c < cols → ∀ i, i < 8 →
            memGet t.bench (benchAt a (f.sum * 64 + 8 * c + i)) =
              ((toBytes 8 (bitsOf 64 (addPairs f.exp (List.zip act (tile[c]?.getD [])) 0).1))[i]?).getD 0)) ∧
    (f.n = 0 → (l.det && bit k 124 && f.sr) = false →
      ∃ t, exec (.fill a) s = .next t ∧ s.Advanced t a ∧ (t.arr a).s = (s.arr a).s ∧ t = { s with arrs := t.arrs }) ∧
    ((l.det && bit k 124 && f.sr) = true →
      exec (.fill a) s = .next (stopArray a l (badRsv 1 (instrAt (s.arr a) 15)) (refuseSr l s))) ∧
    (∀ u e, fillWork a l k s = .error (u, e) → exec (.fill a) s = .next (stopArray a l e u))) ∧
  (∀ (a : ArrayIx) (s : State) (l : ArrLaunch) (k : BitVec 256), s.AtInstr a 0x11 l k →
    let p := s.cmdPart l.cmd
    let bs := (List.range 64).map fun i => memGet s.bench (benchAt a (matParamAt (s.arr a) k + i))
    (∀ o, checkMat s p bs = .ok o → s.BenchSound a → (s.arr a).upset = {} →
      (∀ c, c < o.n → (rowBlocks s a l o.wEl o.wSc o.ww o.wBlock (o.mode == 4) o.k c).isOk = true) →
      (∀ r, r < o.m → (rowBlocks s a l o.aEl o.aSc o.aw (blockBytesOf o.aw) false o.k r).isOk = true) →
      (o.dst = 1 → ∀ i, i < o.m * ceilDiv o.n 32 → s.writeFault p false (o.oEl.a + i * blockBytesOf o.out) (blockBytesOf o.out) = none ∧
        s.writeFault p false (o.oSc.a + i * scaleBytesOf o.out) (scaleBytesOf o.out) = none) →
      (o.mode = 4 → o.wEl.loft = true ∧ o.wSc.loft = true ∧ o.dst = 0 ∧
        (checkDescriptor ((List.range 64).map fun i => memGet s.bench (benchAt a (o.stage * 64 + i))) o.ww (badRsv 2 44)).isOk = true) →
      ∃ t, exec (.lmatmul a) s = .next t ∧ s.Advanced t a ∧ (t.arr a).s = (s.arr a).s ∧ (t.arr a).vregs = (s.arr a).vregs ∧
        s.BenchKept t a o.writes ∧ t.hbm = s.hbm ∧ t.flash = s.flash ∧ (o.dst = 0 → t.loft = s.loft)) ∧
    (∀ u e, matWork a l k s = .error (u, e) → exec (.lmatmul a) s = .next (stopArray a l e u)))

/-- R105, R132, R133 and Table Prog-11: each lane instruction sets the 64 lanes of vd to its function of the operand lanes, and marks a saturation where one occurred.
Every other register, every bench and everything outside the array stays.
R104, R105 and Table Prog-11: VADD and VSUB on lanes and on lane pairs, VALIGN on pairs, VLD, VST and VREQ: what goes to the registers or to the bench. A form that stores leaves every
bench byte outside the bytes it stores, and one that loads leaves every bench byte. R83, R84: where the copies of the shifter or the requantizer differ, VALIGN or VREQ
stops its array with INTEGRITY. -/
def Obligations.VectorInstructions : Prop :=
  (∀ (a : ArrayIx) (s : State) (o : Nat) (l : ArrLaunch) (k : BitVec 256) (x : Instr) (f : VecOp → Arr → Nat → Int × Bool),
    (o, x, f) ∈ ([
      (0x24, .vmin a, fun v y i => (min (y.laneI v.va i) (v.b y i), false)),
      (0x25, .vmax a, fun v y i => (max (y.laneI v.va i) (v.b y i), false)),
      (0x26, .vcmp a, fun v y i => (if compareBy v.sub (y.laneI v.va i) (v.b y i) then 1 else 0, false)),
      (0x27, .vsel a, fun v y i => (if y.lane v.vc i = 0 then v.b y i else y.laneI v.va i, false)),
      (0x28, .vand a, fun v y i => ((y.lane v.va i &&& BitVec.ofInt 32 (v.b y i)).toInt, false)),
      (0x29, .vor a, fun v y i => ((y.lane v.va i ||| BitVec.ofInt 32 (v.b y i)).toInt, false)),
      (0x2A, .vxor a, fun v y i => ((y.lane v.va i ^^^ BitVec.ofInt 32 (v.b y i)).toInt, false)),
      (0x2B, .vmul16 a, fun v y i => (signed 16 (bitsOf 32 (y.laneI v.va i)) * signed 16 (bitsOf 32 (v.b y i)), false)),
      (0x2C, .vmul32 a, fun v y i => clamp32 (y.laneI v.va i * v.b y i)),
      (0x2D, .vshl a, fun v y i => clamp32 (y.laneI v.va i * 2 ^ v.shift y i)),
      (0x2E, .vshr a, fun v y i => (shiftIn (v.rounding y) (y.laneI v.va i) (v.shift y i) i, false)),
      (0x30, .vblen a, fun v y i => ((bitlen (y.laneI v.va i).natAbs : Nat), false)),
      (0x31, .vlut a, fun v y i =>
        let j := clampTo 0 1023 ((y.laneI v.va i - v.imm) / 2 ^ v.shift y i)
        ((getD y.tables (v.table * 1024 + j.1.toNat) 0).toInt, j.2)),
      (0x32, .vbsum a, fun v y i => clamp32 ((blockLanes y v.va i).foldl (· + ·) 0)),
      (0x33, .vbmax a, fun v y i => ((blockLanes y v.va i).foldl max (y.laneI v.va (i / 32 * 32)), false)),
      (0x35, .vmov a, fun v y i => (y.laneI v.va i, false))] : List (Nat × Instr × (VecOp → Arr → Nat → Int × Bool))) →
    s.AtInstr a o l k →
    let v := vecOp (s.arr a) k
    ∃ t, exec x s = .next t ∧ s.Advanced t a ∧
      (∀ i, i < 64 → (t.arr a).lane v.vd i = BitVec.ofInt 32 (f v (s.arr a) i).1) ∧
      (∀ r i, r ≠ v.vd → i < 64 → (t.arr a).lane r i = (s.arr a).lane r i) ∧
      (t.arr a).satSeen = ((s.arr a).satSeen || (List.range 64).any fun i => (f v (s.arr a) i).2) ∧
      (t.arr a).s = (s.arr a).s ∧ (t.arr a).tables = (s.arr a).tables ∧ t = { s with arrs := t.arrs }) ∧
  (∀ (a : ArrayIx) (s : State) (o : Nat) (l : ArrLaunch) (k : BitVec 256), s.AtInstr a o l k →
    let y := s.arr a
    let v := vecOp y k
    (∀ x f, (o, x, f) ∈ ([(0x22, .vadd a, (· + ·)), (0x23, .vsub a, (· - ·))] : List (Nat × Instr × (Int → Int → Int))) →
      ∃ t, exec x s = .next t ∧ s.Advanced t a ∧ t = { s with arrs := t.arrs } ∧
        (v.w64 = false → ∀ i, i < 64 → (t.arr a).lane v.vd i = BitVec.ofInt 32 (clamp32 (f (y.laneI v.va i) (v.b y i))).1) ∧
        (v.w64 = true → ∀ i, i < 64 →
          (t.arr a).pairI v.vd i = (if v.sub = 1 then clamp48 (f (y.pairI v.va i) (v.b64 y i)) else clamp64 (f (y.pairI v.va i) (v.b64 y i))).1) ∧
        (∀ r i, r ≠ v.vd → (v.w64 = false ∨ r ≠ v.vd + 1) → i < 64 → (t.arr a).lane r i = y.lane r i)) ∧
    (o = 0x2F → y.upset.align = false → ∃ t, exec (.valign a) s = .next t ∧ s.Advanced t a ∧ t = { s with arrs := t.arrs } ∧
      ∀ i, i < 64 → (t.arr a).pairI v.vd i = (align (y.pairI v.va i) v.imm (v.b y 0)).1) ∧
    (o = 0x20 → ∀ bs, s.readBench a v.line (8 * (match v.sub with
        | 0 => 32
        | 1 => 4
        | 2 => 8
        | 3 => 16
        | _ => 64)) = .ok bs →
      ∃ t, exec (.vld a) s = .next t ∧ s.Advanced t a ∧ t = { s with arrs := t.arrs } ∧
        (v.sub = 0 → ∀ i, i < 64 → (t.arr a).lane v.vd i = BitVec.ofInt 32 (signed 32 (ofBytes bs >>> (32 * i)))) ∧
        (v.sub = 1 → ∀ i, i < 64 → (t.arr a).lane v.vd i = BitVec.ofInt 32 (signed 4 (ofBytes bs >>> (4 * i)))) ∧
        (v.sub = 2 → ∀ i, i < 64 → (t.arr a).lane v.vd i = BitVec.ofInt 32 (signed 8 (ofBytes bs >>> (8 * i)))) ∧
        (v.sub = 3 → ∀ i, i < 64 → (t.arr a).lane v.vd i = BitVec.ofInt 32 (signed 16 (ofBytes bs >>> (16 * i)))) ∧
        (4 ≤ v.sub → ∀ i, i < 64 → (t.arr a).pairI v.vd i = signed 64 (ofBytes bs >>> (64 * i)))) ∧
    (o = 0x21 → ∃ t, exec (.vst a) s = .next t ∧ s.Advanced t a ∧ t = { s with arrs := t.arrs, bench := t.bench, tier := t.tier } ∧
      (v.line + 512 ≤ 2 ^ 18 → v.sub ≠ 4 → ∀ i, i < 256 →
        memGet t.bench (a.val * 2 ^ 18 + v.line + i) = ((pack 32 ((List.range 64).map (y.laneI v.va)))[i]?).getD 0) ∧
      (v.line + 512 ≤ 2 ^ 18 → ∀ j, (j < a.val * 2 ^ 18 + v.line ∨ a.val * 2 ^ 18 + v.line + (if v.sub = 4 then 512 else 256) ≤ j) →
        memGet t.bench j = memGet s.bench j)) ∧
    (o = 0x2F → y.upset.align = true → exec (.valign a) s = .next (stopArray a l (integrity 1 3 a) (noteChecks a ⟨0, 1⟩ s))) ∧
    (o = 0x34 → y.upset.requant = true → exec (.vreq a) s = .next (stopArray a l (integrity 1 3 a) (noteChecks a ⟨0, 1⟩ s))) ∧
    (o = 0x34 → y.upset.requant = false →
      let r := requantize ((List.range 32).map fun i => if v.w64 then y.pairI v.va i else y.laneI v.va i) v.imm (elemBits v.sub) (v.rounding y)
      ∃ t, exec (.vreq a) s = .next t ∧ s.Advanced t a ∧ memGet t.bench (a.val * 2 ^ 18 + v.scale) = scale8Byte r.e ∧
        (t.arr a).satSeen = (y.satSeen || r.sat) ∧ t = { s with arrs := t.arrs, bench := t.bench, tier := t.tier }))
/-- R113 to R117: a KLAUNCH on free arrays of its partition that hold the image starts every one of them at instruction 0, with its index in s0, the argument in s1 and zero
in the others, and runs on; a KPRELOAD makes its image resident on its arrays and ends OK. -/
def Obligations.LaunchCommands : Prop :=
  ∀ (c : CmdRef) (s : State) (i : InFlight),
    (s.ready c 0x0300 = some i → checkArrays (s.cmdPart c) (launchArrays i.pkt) s = .ok () →
      (launchArrays i.pkt).all (s.hasImage (addr154 (op i.pkt 32 8))) = true →
      ∃ t, exec (.klaunch c) s = .next t ∧ t.Running c ∧ t = { s with cmd := t.cmd, arrs := t.arrs } ∧
        (∀ n, n < (launchArrays i.pkt).length →
          let x := t.arr ((launchArrays i.pkt)[n]?.getD 0)
          x.pc = 0 ∧ x.phase = .running ∧ x.launch = some { cmd := c, index := n, det := i.det } ∧ (x.sreg 0).toNat = n ∧
          x.sreg 1 = BitVec.ofNat 32 (op i.pkt 44 4) ∧ (∀ r, 2 ≤ r → x.sreg r = 0) ∧ x.image = (s.arr ((launchArrays i.pkt)[n]?.getD 0)).image) ∧
        (∀ a, a ∉ launchArrays i.pkt → t.arr a = s.arr a)) ∧
    (s.ready c 0x0301 = some i → checkArrays (s.cmdPart c) (launchArrays i.pkt) s = .ok () → launchArrays i.pkt ≠ [] →
      ∀ im, loadImage c (s.cmdPart c) (addr154 (op i.pkt 32 8)) (s.updIn c ({ · with stage := .running })) = .ok im →
      ∃ t, exec (.kpreload c) s = .next t ∧ t.Ended c .ok 0 0 ∧ (∀ a ∈ launchArrays i.pkt, (t.arr a).image = some im) ∧
        (∀ a, a ∉ launchArrays i.pkt → t.arr a = s.arr a) ∧ s.SameMemory t)

/-- R152 to R155: a PLANE command with a good parameter block, whose source, scales and mask can be read and whose destinations can be written, on Planes without a
defect, ends OK with the number of blocks. Where it reads index codes they are valid, and it has one block or the codes lie in another space than what it writes.
Benches and flash stay. A command of one block with separate destinations in the Loft leaves the block that its function makes of the source, and its scale. -/
def Obligations.PlaneCommandsComplete : Prop :=
  ∀ (c : CmdRef) (s : State) (i : InFlight) (o : Nat) (x : Instr) (kind : PlaneKind) (q : PlaneOp),
    (o, x, kind) ∈ ([(0x02F0, .planePrune c, .prune), (0x02F1, .planeApply c, .apply), (0x02F2, .planeExpand c, .expand)] : List (Nat × Instr × PlaneKind)) →
    let p := s.cmdPart c
    s.ready c o = some i → planeOp c p kind i.pkt s = .ok q → (∀ t, (getD s.planes t {}).upset = {}) →
    (∀ n, n < q.total →
      (cmdRead c p (q.srcEl.plus (n * q.srcBlock)) q.srcBlock s).isOk = true ∧ (cmdRead c p (q.srcSc.plus n) 1 s).isOk = true ∧
      (kind = .apply → (cmdRead c p (q.mask.plus (n * sparseBytes q.w)) (sparseBytes q.w) s).isOk = true) ∧
      s.writeFault p q.dstEl.tiered (q.dstEl.a + n * q.dstBlock) q.dstBlock = none ∧ s.writeFault p q.dstSc.tiered (q.dstSc.a + n) 1 = none ∧
      (∀ bs, kind = .apply → cmdRead c p (q.mask.plus (n * sparseBytes q.w)) (sparseBytes q.w) s = .ok bs → sparseBad q.w bs = false) ∧
      (∀ bs, kind = .expand → cmdRead c p (q.srcEl.plus (n * q.srcBlock)) q.srcBlock s = .ok bs → sparseBad q.w bs = false)) →
    (kind = .apply → q.total = 1 ∨ (q.mask.tiered ≠ q.dstEl.tiered ∧ q.mask.tiered ≠ q.dstSc.tiered)) →
    (kind = .expand → q.total = 1 ∨ (q.srcEl.tiered ≠ q.dstEl.tiered ∧ q.srcEl.tiered ≠ q.dstSc.tiered)) →
    ∃ t, exec x s = .next t ∧ t.Ended c .ok q.total 0 ∧ t.bench = s.bench ∧ t.flash = s.flash ∧
      (∀ src sc mask bs e8, q.total = 1 → q.dstEl.tiered = false → q.dstSc.tiered = false → overlap q.dstEl q.dstBlock q.dstSc 1 = false →
        cmdRead c p q.srcEl q.srcBlock s = .ok src → cmdRead c p q.srcSc 1 s = .ok [sc] →
        (kind = .apply → cmdRead c p q.mask (sparseBytes q.w) s = .ok mask) → planeBlock q 0 src mask sc.toNat = some (bs, e8) →
        t.hbm = s.hbm ∧ (∀ j, j < q.dstBlock → t.byteAt p false (q.dstEl.a + j) = (bs[j]?).getD 0) ∧ t.byteAt p false q.dstSc.a = e8)

/-! ### The Dovetail (chapters 7 to 9) -/

/-- R160, R162, R181, R187: DVT_LAYER_LOAD, DVT_TABLE_LOAD, DVT_PLAN_LOAD and DVT_AVAIL_SET, given a structure that passes its checks, end OK with that one table
entry replaced; every other entry, and all but the queues, the Dovetail and torn marks of planks the command wrote, stays.
R203 to R208, R215: DVT_LAYOUT_LOAD stages a layer; DVT_LAYOUT_SWITCH to a newer epoch makes the staged layers current and keeps the ones they replace with the grace
list; the grace list is empty once its time has passed; DVT_RECV_OPEN puts a fresh window in place of any earlier one. -/
def Obligations.DovetailTablesAndLayouts : Prop :=
  (∀ (c : CmdRef) (s : State) (i : InFlight) (bs : List Byte),
    let p := s.cmdPart c
    let l := cmdLayer i.pkt
    let a := addr154 (op i.pkt 40 8)
    (s.ready c 0x0400 = some i → s.inRange p 2 l = true → cmdBlock c p a 64 8 0 layerRsv (layerCheck p s) s = .ok bs →
      s.inRange p 3 (LayerEntry.mk (toBlock bs)).tableIx = true →
      ∃ t, exec (.dvtLayerLoad c) s = .next t ∧ t.Ended c .ok 0 0 ∧ t = { s with cmd := t.cmd, tier := t.tier, dvt := t.dvt } ∧
        t.dvt = { s.dvt with layers := t.dvt.layers } ∧ find? t.dvt.layers l = some (toBlock bs) ∧
        ∀ j, j ≠ l → find? t.dvt.layers j = find? s.dvt.layers j) ∧
    (s.ready c 0x0401 = some i → s.inRange p 3 (op i.pkt 32 1 % 4) = true → cmdRead c p a 2048 s = .ok bs → tableFault (tableImage bs) = none →
      ∃ t, exec (.dvtTableLoad c) s = .next t ∧ t.Ended c .ok 0 0 ∧ t = { s with cmd := t.cmd, tier := t.tier, dvt := t.dvt } ∧
        t.dvt = { s.dvt with tables := t.dvt.tables } ∧ find? t.dvt.tables (op i.pkt 32 1 % 4) = some (tableImage bs) ∧
        ∀ j, j ≠ op i.pkt 32 1 % 4 → find? t.dvt.tables j = find? s.dvt.tables j) ∧
    (s.ready c 0x0410 = some i → s.inRange p 2 l = true → cmdBlock c p a 64 0x0B 0 planRsv (planVals l (s.layer l)) s = .ok bs →
      ∀ ws, readWords c p (addrIn bs 16) (le bs 6 2 % 2 ^ 15) s = .ok ws → planWordFault ws = none →
      s.planKib p l + storeKib (le bs 6 2 % 2 ^ 15) ≤ s.rangeCount p 4 →
      ∃ t, exec (.dvtPlanLoad c) s = .next t ∧ t.Ended c .ok 0 0 ∧ t = { s with cmd := t.cmd, tier := t.tier, dvt := t.dvt } ∧
        t.dvt = { s.dvt with plans := t.dvt.plans } ∧ find? t.dvt.plans l = some ⟨toBlock bs, BitVec.ofNat 16 (le bs 4 2), ws⟩ ∧
        ∀ j, j ≠ l → find? t.dvt.plans j = find? s.dvt.plans j) ∧
    (s.ready c 0x0411 = some i → s.inRange p 2 l = true →
      let key := availKey l (op i.pkt 34 2 % 2 ^ 14)
      let old := getD s.dvt.avail key 0
      let v : BitVec 5 := BitVec.ofNat 5 (op i.pkt 36 1)
      let mode := op i.pkt 36 1 / 32 % 4
      ∃ t, exec (.dvtAvailSet c) s = .next t ∧ t.Ended c .ok old.toNat 0 ∧ t = { s with cmd := t.cmd, tier := t.tier, dvt := t.dvt } ∧
        t.dvt = { s.dvt with avail := t.dvt.avail } ∧
        getD t.dvt.avail key 0 = (if mode = 0 then old ||| v else if mode = 1 then old &&& ~~~v else v) ∧
        ∀ j, j ≠ key → getD t.dvt.avail j 0 = getD s.dvt.avail j 0)) ∧
  (∀ (c : CmdRef) (s : State) (i : InFlight) (bs : List Byte),
    let p := s.cmdPart c
    let a := addr154 (op i.pkt 32 8)
    (s.ready c 0x0420 = some i → cmdBlock c p a 64 0x0D 0 layoutRsv layoutVals s = .ok bs → s.inRange p 2 (le bs 2 2 % 2 ^ 10) = true →
      ∀ r ws, s.layer (le bs 2 2 % 2 ^ 10) = some r → le bs 4 2 % 2 ^ 15 = r.experts →
      readWords c p (addrIn bs 8) (le bs 4 2 % 2 ^ 15) s = .ok ws → planWordFault ws = none →
      s.layoutKib p (le bs 2 2 % 2 ^ 10) + storeKib (le bs 4 2 % 2 ^ 15) ≤ s.rangeCount p 5 →
      ∃ t, exec (.dvtLayoutLoad c) s = .next t ∧ t.Ended c .ok 0 0 ∧ find? (t.layout p).staged (le bs 2 2 % 2 ^ 10) = some ws ∧
        t.layout p = { s.layout p with staged := (t.layout p).staged } ∧ ∀ q, q ≠ p → t.layout q = s.layout q) ∧
    (s.ready c 0x0421 = some i → newer (BitVec.ofNat 16 (op i.pkt 32 2)) (s.layout p).epoch = true →
      ∀ g, readGrace c p (addr154 (op i.pkt 40 8)) (op i.pkt 36 1) (s.layout p).next s = .ok g →
      ∃ t, exec (.dvtLayoutSwitch c) s = .next t ∧ t.Ended c .ok (s.layout p).epoch.toNat 0 ∧
        (t.layout p).current = (s.layout p).next ∧ (t.layout p).epoch = BitVec.ofNat 16 (op i.pkt 32 2) ∧ (t.layout p).staged = [] ∧
        (t.layout p).prevEpoch = some (s.layout p).epoch ∧ (t.layout p).grace = g ∧ (t.layout p).graceEnd = s.clk + op i.pkt 34 2 * 1000 ∧
        (∀ q, q ≠ p → t.layout q = s.layout q) ∧ (∀ l x, find? t.dvt.plans l = some x → ∃ y, find? s.dvt.plans l = some y ∧ x.words = y.words)) ∧
    (∀ r : Part, ∃ t, exec (.graceExpiry r) s = .next t ∧ (t.layout r).grace = (if (s.layout r).graceEnd ≤ s.clk then [] else (s.layout r).grace) ∧
      (t.layout r).current = (s.layout r).current ∧ t = { s with dvt := t.dvt }) ∧
    (s.ready c 0x0422 = some i → cmdBlock c p a 64 0x0E 0 recvRsv recvVals s = .ok bs → s.inRange p 7 (le bs 2 1 % 8) = true →
      s.inRange p 2 (le bs 4 2 % 2 ^ 10) = true → ∀ xs, readInsts c p (addrIn bs 8) (le bs 3 1 % 128) s = .ok xs →
      ∃ t, exec (.dvtRecvOpen c) s = .next t ∧ t.Ended c .ok 0 0 ∧
        find? t.dvt.windows (le bs 2 1 % 8) = some ⟨p, le bs 4 2 % 2 ^ 10, le bs 6 2, xs, []⟩ ∧
        (∀ j, j ≠ le bs 2 1 % 8 → find? t.dvt.windows j = find? s.dvt.windows j) ∧ t = { s with cmd := t.cmd, tier := t.tier, dvt := t.dvt }))
/-- R168, R193, R182: the pieces of selection and admission. A token selects between k_min and k_max candidates, as many as reach τ where that lies between; the shares of a
division differ by at most one; the weights of served choices are their p when none is dropped, and a dropped choice weighs nothing. -/
def Obligations.SelectionAndWeights : Prop :=
  (∀ (r : LayerEntry) (table : List Nat) (l : List Int), r.kMin ≤ r.kMax →
    let x := selectToken r table l
    r.kMin ≤ x.count ∧ x.count ≤ r.kMax ∧ (r.kMin ≤ x.n → x.n ≤ r.kMax → x.count = x.n) ∧ x.cand.length = min r.mCand l.length ∧
    (∀ e ∈ x.cand, e.1 < l.length ∧ e.2 ≤ 65535) ∧ ∀ y ∈ l, y ≤ x.m) ∧
  (∀ c n i e k : Nat, n ≠ 0 → c / n ≤ share c n i e k ∧ share c n i e k ≤ c / n + 1 ∧ (n ∣ c → share c n i e k = c / n)) ∧
  (∀ (cand : List (Nat × Nat)) (count : Nat) (ch : List Admitted),
    let w := weigh cand count ch
    w.ch.length = ch.length ∧ (∀ c ∈ w.ch, c.disp = 3 → c.g = 0) ∧
    ((∀ c ∈ ch, c.disp ≠ 3) → ∀ c ∈ w.ch, c.g = (cand.getD c.rank (0, 0)).2) ∧ w.a = ((List.range count).map fun r => (cand.getD r (0, 0)).2).sum)

/-- R166, R172 to R176, R190, R197, R199: DVT_SCORE and DVT_ADMIT, given a block that passes its checks, begin; a step that needs the score arrays ends INTEGRITY while one
has a fault. At an event of a running step, the selection unit or the score arrays take its next token or sub-batch where it is the step chosen, of V_b tokens, 32 to 256; with
nothing to do for it, it stays as it is; and the last token, selected or admitted, ends it OK with its counts, an admission with its detail bits and no credit bank held. A step that
is not LC is not chosen beside one that is. -/
def Obligations.ScoreAndAdmitRun : Prop :=
  (∀ (c : CmdRef) (s : State) (i : InFlight), s.run c = none →
    let p := s.cmdPart c
    let r := s.updIn c ({ · with stage := .running })
    let start (k : StepKind) (b : List Byte) (e : LayerEntry) : DvtRun :=
      { cmd := c, part := p, lc := flagLc i.pkt, order := i.order, kind := k, blk := b, entry := e.blk, table := s.stepTable c e.tableIx }
    (s.ready c 0x0402 = some i → ∀ b e, readScoreBlock c p (addr154 (op i.pkt 32 8)) 1 r = .ok (b, e) →
      (scoreFault e r = none → ∃ t, exec (.dvtScore c) s = .next t ∧ t.Running c ∧ t.dvt = { s.dvt with runs := s.dvt.runs ++ [start .score b e] } ∧
        t = { s with cmd := t.cmd, dvt := t.dvt }) ∧
      (∀ x, scoreFault e r = some x → ∃ t, exec (.dvtScore c) s = .next t ∧ t.Ended c x.st 0 x.det ∧ t.dvt = s.dvt)) ∧
    (s.ready c 0x0412 = some i → ∀ b e x, cmdBlock c p (addr154 (op i.pkt 32 8)) 64 0x0C 0 admitRsv admitVals s = .ok b →
      s.inRange p 2 (le b 2 2 % 2 ^ 10) = true → s.stepEntry c (le b 2 2 % 2 ^ 10) = some e → admitAgainst c (le b 2 2 % 2 ^ 10) s = .ok x →
      ∃ t, exec (.dvtAdmit c) s = .next t ∧ t.Running c ∧ t.dvt = { s.dvt with runs := s.dvt.runs ++ [start .admission b e] } ∧
        t = { s with cmd := t.cmd, dvt := t.dvt })) ∧
  (∀ (c : CmdRef) (s : State) (i : InFlight) (r : DvtRun) (o : Instr), s.running c = some i → s.run c = some r →
    (o, r.kind) ∈ [(Instr.dvtScore c, StepKind.score), (.dvtAdmit c, .admission)] → s.dvt.stream.filter (fun x => x.1 == c) = none →
    (s.dvt.sel ≠ some c → r.whole = false → s.chosen DvtRun.wantsAdmit r = false →
      (s.chosen (DvtRun.wantsSel s) r = true → exec o s = .next { s with dvt := { s.dvt with sel := some c } }) ∧
      (s.chosen (DvtRun.wantsSel s) r = false → s.chosen (DvtRun.wantsArrays s) r = true →
        ∃ t, exec o s = .next t ∧ t.dvt.stream = some (c, r.scored, min r.rec_.subBatch (r.v - r.scored)) ∧ t = { s with dvt := t.dvt } ∧
          t.dvt = { s.dvt with stream := t.dvt.stream, runs := t.dvt.runs }) ∧
      (s.chosen (DvtRun.wantsSel s) r = false → s.chosen (DvtRun.wantsArrays s) r = false → exec o s = .next s)) ∧
    (s.dvt.sel = some c → ∀ u x, selectNext r s = (u, none) → u.run c = some x → x.kind = r.kind →
      (x.whole = false → exec o s = .next u) ∧
      (r.kind = .score → x.whole = true → u.running c = some i → u.par.requests = [] →
        ∃ t, exec o s = .next t ∧ t.Ended c .ok (scoreResult x.picked) 0 ∧ t.run c = none ∧ t.cmd.pegs = u.cmd.pegs)) ∧
    (s.dvt.sel ≠ some c → s.chosen DvtRun.wantsAdmit r = true → ∀ u x, admitNext r s = (u, none) → u.run c = some x → x.kind = r.kind →
      (x.whole = false → exec o s = .next u) ∧
      (r.kind = .admission → x.whole = true → u.running c = some i → u.par.requests = [] →
        ∃ t, exec o s = .next t ∧ t.Ended c .ok (admitResult x.admitted) (admitBits x.admitted) ∧ t.bankOf c = none ∧ t.run c = none ∧
          t.cmd.pegs = u.cmd.pegs))) ∧
  (∀ (s : State) (want : DvtRun → Bool) (r x : DvtRun), x ∈ s.dvt.runs → x.cmd ≠ r.cmd → want x = true →
    (x.lc = true ∧ r.lc = false ∨ x.lc = r.lc ∧ x.order < r.order) → s.chosen want r = false) ∧
  (∀ e : LayerEntry, 1 ≤ e.experts → e.experts ≤ 16384 → e.exitRows ≤ 16384 → 1 ≤ e.dModel → e.dModel ≤ 16384 → 32 ≤ e.subBatch ∧ e.subBatch ≤ 256)

/-- R216, R563: UNIT_PACKET assembles a unit that came whole in one packet, and a relay sends the packet on; DISPATCH_UNIT discards a unit without a window, refuses one that is
stale, out, quarantined or without space by a return that is kept, and serves any other: the instance's count and its arrival peg advance by one.
R217, R219, R222, R223: RETURN_UNIT counts a return that names no waiting choice as stale, writes one with status OK to the return buffer and marks its choice served. DVT_RETURN
ends OK with the units it named. DVT_COMBINE waits for a slot with returns to come; when its timeout has passed the slot is freed and it ends. -/
def Obligations.UnitsAndReturns : Prop :=
  ((∀ (k : Packet) (s : State) (n : Nat), n ≠ 0 → s.Takes 0x28 n k →
    let v := takeIn k s
    (k.f 36 4 % 2 ^ 20 = v.selfId → (∀ x ∈ s.dvt.parts, x.src ≠ k.src ∨ x.tag ≠ k.f 32 4 ∨ x.kind ≠ k.f 52 1 % 2) →
      k.f 40 4 % 2 ^ 23 = 0 → k.f 44 4 = k.payload.length →
      ∃ t, exec (.unitPacket k) s = .next t ∧ t.fab.inbox = v.fab.inbox ++ [(unitPort (s.portOf k), ⟨(k.set 40 4 0).hdr, k.payload⟩)] ∧ t.dvt.parts = s.dvt.parts) ∧
    (k.f 36 4 % 2 ^ 20 ≠ v.selfId →
      let r := ((k.set 3 1 0).set 4 4 (k.f 36 4 % 2 ^ 20)).set 8 4 v.selfId
      s.partOfKey k.key = none →
      ∃ t, exec (.unitPacket k) s = .next t ∧ t.prl.staged = s.prl.staged ++ [r] ∧ t.dvt = s.dvt ∧
        (s.fab.drain ≠ 0 → 2 ≤ r.cls → t.fab.heldTx = s.fab.heldTx ++ [(v.partOfKey k.key, none, r)])) ∧
    (s.unitBlocked k = true → exec (.unitPacket k) s = .next s)) ∧
  (∀ (u : Packet) (s : State),
    let b := toBlock u.payload
    let e := wordExpert (uWord b)
    let l := wordLayer (uWord b)
    let v := takeUnit u s
    (pick (fun (w : Nat × RecvWin) => w.2.layer == l && w.2.step == uf b 20 2) s.dvt.windows = none →
      ∃ t, exec (.dispatchUnit u) s = .next t ∧ t = { s with fab := v.fab, dvt := { s.dvt with discarded := satAdd s.dvt.discarded 1 } }) ∧
    (∀ w win, pick (fun (w : Nat × RecvWin) => w.2.layer == l && w.2.step == uf b 20 2) s.dvt.windows = some (w, win) →
      find? s.dvt.windows w = some win → unitOk 0 u.payload = true →
      win.units.any (fun x => uSource x.desc == uSource b && uf x.desc 24 4 == uf b 24 4) = false →
      let hosted := hostOf (instWord (s.layout win.part).current l e (uInst b)) == some s.selfId
      let here := hosted || s.graced win.part (uWord b) (uInst b) (uf b 16 2)
      let av := (getD s.dvt.avail (availKey l e) 0).toNat
      (here = false →
        let r := blockBytes (returnDesc s.selfId (s.layout win.part).epoch s.flt.epoch b .staleRole (uf b 2 1 % 4) false)
        ∃ t, exec (.dispatchUnit u) s = .next t ∧ t.dvt.staleRefused = satAdd s.dvt.staleRefused 1 ∧ t.dvt.windows = s.dvt.windows ∧
          (w, uSource b, uf (toBlock r) 24 4, u.lc, r) ∈ t.dvt.returns ∧ t.cmd.pegs = s.cmd.pegs) ∧
      (here = true → (av.testBit 4 || av.testBit (uInst b)) = true →
        let r := blockBytes (returnDesc s.selfId (s.layout win.part).epoch s.flt.epoch b (if av.testBit 4 then .diverged else .staleRole) (uf b 2 1 % 4) false)
        ∃ t, exec (.dispatchUnit u) s = .next t ∧ t.dvt.refused = s.dvt.refused + 1 ∧ t.dvt.windows = s.dvt.windows ∧
          (w, uSource b, uf (toBlock r) 24 4, u.lc, r) ∈ t.dvt.returns ∧ t.cmd.pegs = s.cmd.pegs) ∧
      (here = true → (av.testBit 4 || av.testBit (uInst b)) = false → ∀ x, pick (fun (x : RecvInst) => x.isFor e (uInst b)) win.insts = some x →
        (takeSpace win.part l x b u.payload.length v = none →
          let r := blockBytes (returnDesc s.selfId (s.layout win.part).epoch s.flt.epoch b .quota (uf b 2 1 % 4) false)
          ∃ t, exec (.dispatchUnit u) s = .next t ∧ t.dvt.windows = s.dvt.windows ∧ (w, uSource b, uf (toBlock r) 24 4, u.lc, r) ∈ t.dvt.returns) ∧
        (∀ y, takeSpace win.part l x b u.payload.length v = some y →
          let v1 := if !(uf b 2 1).testBit 3 && uDisp b == 2 then v.onDvt fun d => { d with spillAccepted := d.spillAccepted + 1 } else v
          let g := x.f 8 4 % 2 ^ 23 + x.next * (x.f 12 2 % 2 ^ 11)
          s.PegFresh (x.f 20 2 % 2 ^ 14) → ∀ s1 n1 s2 n2, v1.writeFor win.part false (g * 64) u.payload = (s1, n1, none) →
          s1.writeFor win.part false (x.f 16 4 % 2 ^ 23 * 64 + 16 * (x.next % 2 ^ (x.f 14 1 % 32))) (ringEntry b g x.next) = (s2, n2, none) →
          ∃ t, exec (.dispatchUnit u) s = .next t ∧ s2.SameMemory t ∧
            t.pegVal (x.f 20 2 % 2 ^ 14) = s.pegVal (x.f 20 2 % 2 ^ 14) + 1 ∧ (∀ j, j ≠ x.f 20 2 % 2 ^ 14 → t.pegVal j = s.pegVal j) ∧
            ∃ win', find? t.dvt.windows w = some win' ∧
              win'.units = win.units ++ [⟨e, uInst b, x.next, b, u.lc, !hosted, false⟩] ∧
              win'.insts = win.insts.map fun z => if z.entry = x.entry then { y with next := x.next + 1 } else z))))) ∧
  ((∀ (u : Packet) (s : State),
    let b := toBlock u.payload
    let n := uf b 24 4 / 2 ^ 20 % 16
    let v := takeUnit u s
    (s.slot n = none → ∃ t, exec (.returnUnit u) s = .next t ∧ t = { s with fab := v.fab, dvt := { s.dvt with staleReturns := satAdd s.dvt.staleReturns 1 } }) ∧
    (∀ x h, s.slot n = some x → pick (fun (h : SlotChoice) => h.ordinal == uf b 24 4 % 2 ^ 20 && h.st == .sent) x.choices = some h →
      (x.seq.toNat ≠ uf b 24 4 / 2 ^ 24 ∨ unitOk 1 u.payload = false →
        ∃ t, exec (.returnUnit u) s = .next t ∧ t = { s with fab := v.fab, dvt := { s.dvt with staleReturns := satAdd s.dvt.staleReturns 1 } }) ∧
      (x.seq.toNat = uf b 24 4 / 2 ^ 24 → unitOk 1 u.payload = true → uf b 1 1 = 0 → (uf b 2 1).testBit 2 = false →
        u.payload.length ≤ le x.blk 6 2 % 2 ^ 11 * 64 → uLen b = x.d → (∃ h' ∈ x.choices, h'.ordinal ≠ h.ordinal ∧ h'.open_ = true) →
        let ra := addrIn x.blk 32
        ∀ w m, v.writeFor x.part ra.tiered (ra.a + h.ordinal * (le x.blk 6 2 % 2 ^ 11) * 64) u.payload = (w, m, none) →
        ∃ t y, exec (.returnUnit u) s = .next t ∧ t.slot n = some y ∧ y.routing = x.routing ∧
          y.choices = (x.choices.map fun z => if z.ordinal = h.ordinal then { z with st := .served, vfmt := uf b 2 1 % 4 } else z) ∧
          ((x.bufs.any fun z => z.1 == h.token) = true → w.SameMemory t ∧ t.cmd.pegs = s.cmd.pegs)))) ∧
  (∀ (c : CmdRef) (s : State) (i : InFlight) (bs : List Byte),
    let p := s.cmdPart c
    let a := addr154 (op i.pkt 32 8)
    (s.ready c 0x0424 = some i → cmdBlock c p a 64 0x10 0 returnRsv returnVals s = .ok bs → s.inRange p 7 (le bs 2 1 % 8) = true →
      ∀ ls win xs us, cmdRead c p (addrIn bs 8) (4 * (le bs 4 4 % 2 ^ 21)) s = .ok ls → find? s.dvt.windows (le bs 2 1 % 8) = some win → win.part = p →
      pickReturns ((List.range (le bs 4 4 % 2 ^ 21)).map fun i => (i, le ls (4 * i) 4)) win.units [] = .ok (xs, us) →
      (∀ e ∈ xs, ∃ y, returnBytes c p bs e.1 e.2 s = .ok y) →
      ∃ t, exec (.dvtReturn c) s = .next t ∧ t.Ended c .ok (le bs 4 4 % 2 ^ 21) 0 ∧
        (∃ w', find? t.dvt.windows (le bs 2 1 % 8) = some w' ∧ w'.units = us ∧ w'.insts = win.insts) ∧ t.cmd.pegs = s.cmd.pegs) ∧
    (∀ r, r = s.updIn c ({ · with stage := .running }) → s.ready c 0x0425 = some i → cmdBlock c p a 64 0x11 0 combineRsv combineVals r = .ok bs →
      s.inRange p 6 (le bs 2 1 % 16) = true → ∀ x, s.slot (le bs 2 1 % 16) = some x → x.part = p → x.comb = none →
      (x.routing = true ∨ ∃ h ∈ x.choices, h.open_ = true) →
      ∃ t, exec (.dvtCombine c) s = .next t ∧ t.Running c ∧ t.slot (le bs 2 1 % 16) = some { x with comb := some c, combBlk := bs, combAt := i.since } ∧
        (∀ m, m ≠ le bs 2 1 % 16 → t.slot m = s.slot m) ∧ t = { s with cmd := t.cmd, dvt := t.dvt }) ∧
    (∀ n x, pick (fun (e : Nat × CombineSlot) => e.2.comb == some c) s.dvt.slots = some (n, x) → s.slot n = some x → x.v ≠ 0 →
      (x.cf 4 2 = 0 ∨ s.clk - x.combAt < x.cf 4 2 * 1000 → exec (.combineTimeout c) s = .next s) ∧
      (x.cf 4 2 ≠ 0 → x.cf 4 2 * 1000 ≤ s.clk - x.combAt → s.inflight c = some i →
        ∃ t st r d, exec (.combineTimeout c) s = .next t ∧ t.slot n = none ∧ t.Ended c st r d))))
/-- R186, R214: a DVT_ROUTE whose blocks pass their checks begins to score; one that fails them without a slot ends with the failure and no bank. When its last token is admitted its
units are handed over and settled. One whose last units are in ends OK with its counts and its detail bits, and its bank is free. -/
def Obligations.RouteRunsAndEnds : Prop :=
  ∀ (c : CmdRef) (s : State) (i : InFlight), s.par.requests = [] →
    (s.running c = none → s.ready c 0x0423 = some i → s.run c = none →
      (∀ b e, checkRoute c (s.cmdPart c) i s = .ok (b, e) →
        ∃ t, exec (.dvtRoute c) s = .next t ∧ t.Running c ∧ t = { s with cmd := t.cmd, dvt := t.dvt } ∧ t.dvt = { s.dvt with runs := s.dvt.runs ++
          [{ cmd := c, part := s.cmdPart c, lc := flagLc i.pkt, order := i.order, kind := .route, blk := b, entry := e.blk, table := s.stepTable c e.tableIx }] }) ∧
      (s.slotOf c = none → s.yrd.pools = [] → s.yrd.served = [] → ∀ e, checkRoute c (s.cmdPart c) i s = .error e →
        ∃ t, exec (.dvtRoute c) s = .next t ∧ t.Ended c e.st 0 e.det ∧ t.bankOf c = none)) ∧
    (s.running c = some i → ∀ r, s.run c = some r → r.kind = .route → ∀ u x, stepEvent r s = (u, none) → u.run c = some x →
      (x.whole = false → exec (.dvtRoute c) s = .next u) ∧
      (x.whole = true → ∀ bank w, u.bankOf c = some bank →
        dispatchStep c (le i.blk 2 1 % 16) i.blk x bank (dropRun c (countSat c x.picked u)) = (w, none) →
        exec (.dvtRoute c) s = .next (tryCombine (le i.blk 2 1 % 16) (settleRoute (le i.blk 2 1 % 16) w)))) ∧
    (s.running c = some i → s.run c = none → ∀ n x, s.slotOf c = some (n, x) → s.slot n = some x → x.cmd = c → (∀ e ∈ s.dvt.slots, e.1 ≠ n → e.2.cmd ≠ c) →
      x.v ≠ 0 → x.queued = [] → x.comb = none →
      ∃ t, exec (.dvtRoute c) s = .next t ∧ t.Ended c .ok (x.sentN + x.dropped * 2 ^ 32) x.bits ∧ t.bankOf c = none ∧
        t.slot n = some { x with routing := false } ∧ (∀ m, m ≠ n → t.slot m = s.slot m) ∧ t.cmd.pegs = s.cmd.pegs)

/-! ### The Yard and the partitions (chapters 16, 17) -/

/-- R397 to R403, R407: YARD_POOL_CREATE makes a pool whose every buffer is free; YARD_POOL_DESTROY ends it; YARD_RETAIN and YARD_RELEASE end with the reference count that adjusting the handle
gives, or its refusal, after those that reached the buffer in the same cycle and precede it (R404); YARD_ALLOC that finds no buffer waits, or ends NO_PLANK with NO_WAIT;
an operation on a pool that is not valid ends ACCESS 0xF0 and is counted.
R403: a retain of a live handle adds, a release subtracts, and the count the state word then holds is the answer; a handle of a freed buffer is refused with ACCESS 0xF1. -/
def Obligations.YardRules : Prop :=
  (∀ (c : CmdRef) (s : State) (i : InFlight) (bs : List Byte),
    let p := s.cmdPart c
    let j := op i.pkt 32 1 % 64
    let h := op i.pkt 32 4
    (s.ready c 0x0780 = some i → s.inRange p 11 j = true → s.pool j = none →
      cmdBlock c p (addr154 (op i.pkt 40 8)) 64 0x18 0 poolRsv poolVals s = .ok bs →
      let n := le bs 4 4 % 2 ^ 21
      let b := addr347 (le bs 8 8)
      let m := (addr347 (le bs 16 8)).a
      s.inSpace p b.tiered b.a (n * 2 ^ (le bs 2 1 % 32)) = true → s.inSpace p true m (metaBytes n) = true →
      ∀ u k, s.writeFor p true m (freshMeta n) = (u, k, none) →
      ∃ t, exec (.yardPoolCreate c) s = .next t ∧ t.Ended c .ok 0 0 ∧ u.SameMemory t ∧
        (∃ x, t.pool j = some x ∧ x.free = n ∧ x.count = n ∧ x.owner = p ∧ x.waiters = [] ∧ x.faulty = false) ∧
        (∀ k, k ≠ j → t.pool k = s.pool k)) ∧
    (s.ready c 0x0781 = some i → s.inRange p 11 j = true → ∀ x, s.pool j = some x → s.anyAllocated x = false → x.waiters = [] →
      ∃ t, exec (.yardPoolDestroy c) s = .next t ∧ t.Ended c .ok 0 0 ∧ t.pool j = none ∧ (∀ k, k ≠ j → t.pool k = s.pool k) ∧ s.SameMemory t) ∧
    (s.ready c 0x0782 = some i → s.inRange p 11 j = true → ∀ x, s.pool j = some x → x.use = 0 → x.faulty = false → x.waiters = [] → x.free < op i.pkt 33 1 →
      (flagNoWait i.pkt = false →
        ∃ t, exec (.yardAlloc c) s = .next t ∧ t.Running c ∧ t.pool j = some { x with waiters := [{ use := 0, cmd := c, lc := flagLc i.pkt, n := op i.pkt 33 1 }] } ∧ s.SameMemory t) ∧
      (flagNoWait i.pkt = true → ∃ t, exec (.yardAlloc c) s = .next t ∧ t.Ended c .noPlank 0 0 ∧ t.pool j = some x ∧ s.SameMemory t)) ∧
    (∀ retain o, (retain, o) ∈ [(true, 0x0783), (false, 0x0784)] → s.ready c o = some i → s.adjustWaits c i = false → s.inRange p 11 (h / 2 ^ 20 % 64) = true → ∀ n u,
      adjust retain h (op i.pkt 36 2) c.q s = (.ok n, u) → u.inflight c = s.inflight c →
      ∃ t, exec (if retain then .yardRetain c else .yardRelease c) s = .next t ∧ t.Ended c .ok n 0 ∧ t.cmd.pegs = u.cmd.pegs ∧ t.yrd = u.yrd) ∧
    (∀ retain o, (retain, o) ∈ [(true, 0x0783), (false, 0x0784)] → s.ready c o = some i → s.adjustWaits c i = false → s.inRange p 11 (h / 2 ^ 20 % 64) = false →
      ∃ t, exec (if retain then .yardRetain c else .yardRelease c) s = .next t ∧ t.Ended c .access 0 32 ∧ t = { s with cmd := t.cmd }) ∧
    (∀ retain o, (retain, o) ∈ [(true, 0x0783), (false, 0x0784)] → s.ready c o = some i → s.adjustWaits c i = true →
      exec (if retain then .yardRetain c else .yardRelease c) s = .next s) ∧
    (∀ o, (o = 0x0781 ∨ o = 0x0782) → s.ready c o = some i → s.inRange p 11 j = true → s.pool j = none →
      ∃ t, exec (if o = 0x0781 then .yardPoolDestroy c else .yardAlloc c) s = .next t ∧ t.Ended c .access 0 0xF0 ∧ t.yrd = { s.yrd with stale := satAdd s.yrd.stale 1 })) ∧
  (∀ (retain : Bool) (h δ src w : Nat) (x : Pool) (s : State), s.pool (h / 2 ^ 20 % 64) = some x → x.faulty = false → h % 2 ^ 20 < x.count →
    x.gone.contains (h % 2 ^ 20) = false → metaRead (h / 2 ^ 20 % 64) x (x.wordAt (h % 2 ^ 20)) 8 s = .ok w →
    let n := w / 2 ^ 32 % 2 ^ 16
    let r := adjust retain h δ src s
    (w % 2 = 0 ∨ w / 2 % 64 ≠ h / 2 ^ 26 → r.1 = .error (accessErr 0xF1) ∧ r.2.yrd.doubleFree = satAdd s.yrd.doubleFree 1 ∧ s.SameMemory r.2 ∧ r.2.cmd = s.cmd) ∧
    (w % 2 = 1 → w / 2 % 64 = h / 2 ^ 26 →
      (retain = true → n + δ ≤ 65535 → r.1 = .ok (n + δ)) ∧ (retain = false → δ ≤ n → r.1 = .ok (n - δ)) ∧
      (retain = true → 65535 < n + δ → r.1 = .error (accessErr 0xF2)) ∧ (retain = false → n < δ → r.1 = .error (accessErr 0xF2))))
/-- R413, R434: writes of PAR_CFG and PAR_BREACH_RING by the PF.
R424 to R429: PAR_PREEMPT posts its request to the launches it targets and, for a whole partition, waits for its granted Dovetail steps (R176), and ends at once where there are
none; PAR_RESUME of a stopped launch whose arrays are free sets it
running again and counts it; PAR_DISCARD frees an entry and returns its bytes; each ends ACCESS for a partition or an entry it may not name. -/
def Obligations.PartitionRules : Prop :=
  (∀ (p : Part) (v : BitVec 64) (s : State), s.pwr.ready = true → s.host.flr.contains 0 = false → s.host.bootState.toNat < 2 →
    let off := 0x12000000 + 8 * p.val
    let old := s.parCfg p
    let w := setFld v 35 2 0
    (fld w 39 36 ≤ 8 → bit old 0 = true → fld w 63 36 = fld old 63 36 → (bit w 0 = true ∨ s.parHolds p = false) →
      ∃ t, exec (.parCfgWrite 0 p v) s = .next t ∧ t.parCfg p = w ∧ t = { s with csr := t.csr } ∧ ∀ o, o ≠ off → t.reg o = s.reg o) ∧
    (fld w 39 36 ≤ 8 → bit old 0 = true → (fld w 63 36 ≠ fld old 63 36 ∨ (bit w 0 = false ∧ s.parHolds p = true)) →
      ∃ t, exec (.parCfgWrite 0 p v) s = .next t ∧ t = { s with host := t.host } ∧ (getD t.host.errLog 0 {}).valid = true) ∧
    (fld w 39 36 ≤ 8 → bit old 0 = false → (bit w 0 = false ∨ s.parClash p w = false) →
      ∃ t, exec (.parCfgWrite 0 p v) s = .next t ∧ t.parCfg p = w ∧ t = { s with csr := t.csr, sec := t.sec } ∧ ∀ o, o ≠ off → t.reg o = s.reg o) ∧
    (ringLogOk v = true → ∃ t, exec (.parBreachRingWrite 0 p v) s = .next t ∧ t.reg (0x12000080 + 0x10 * p.val) = setFld v 11 5 0 ∧
      getD t.par.rings p {} = {} ∧ t = { s with csr := t.csr, par := t.par }) ∧
    (ringLogOk v = false → ∃ t, exec (.parBreachRingWrite 0 p v) s = .next t ∧ t = { s with host := t.host })) ∧
  (∀ (c : CmdRef) (s : State) (i : InFlight),
    let p := s.cmdPart c
    let t := op i.pkt 32 1 % 8
    let r := s.updIn c ({ · with stage := .running })
    (s.ready c 0x0700 = some i → s.mayName p t = true → (bit i.pkt (8 * 32 + 3) = true → t ≠ p) → (addr347 (op i.pkt 40 8)).tiered = true →
      r.writeFault t true (addr347 (op i.pkt 40 8)).a (op i.pkt 48 4) = none → s.par.requests = [] →
      ∃ u, exec (.parPreempt c) s = .next u ∧ s.SameMemory u ∧ (bit i.pkt (8 * 32 + 3) = true → t ∈ u.par.held) ∧
        let steps := if bit i.pkt (8 * 32 + 3) then r.dvtSteps t else []
        (preemptTargets i.pkt r = [] → steps = [] → u.Ended c .ok 0 0 ∧ u.par.requests = []) ∧
        ((preemptTargets i.pkt r ≠ [] ∨ steps ≠ []) → u.Running c ∧
          u.par.requests = [{ cmd := c, part := t, area := (addr347 (op i.pkt 40 8)).a, len := op i.pkt 48 4, launches := preemptTargets i.pkt r, steps := steps }])) ∧
    (s.ready c 0x0700 = some i → s.mayName p t = false → ∃ u, exec (.parPreempt c) s = .next u ∧ u.Ended c .access 0 32 ∧ u = { s with cmd := u.cmd }) ∧
    (s.ready c 0x0701 = some i → bit i.pkt (8 * 34) = false → s.resumeEntry (op i.pkt 32 2) = none →
      ∃ u, exec (.parResume c) s = .next u ∧ u.Ended c .access 0 0xF8 ∧ u = { s with cmd := u.cmd }) ∧
    (s.ready c 0x0701 = some i → bit i.pkt (8 * 34) = false → ∀ j x, s.resumeEntry (op i.pkt 32 2) = some (j, x) → s.mayName p x.part = true →
      s.resumable x = true → s.par.resuming = [] → x.cmd ≠ c → s.inflight x.cmd = none →
      ∃ u, exec (.parResume c) s = .next u ∧ u.Ended c .ok (i.acc + 1) 0 ∧ find? u.par.resumes j = none ∧ u.Running x.cmd ∧
        u.par.regs = (chargeAccess x.part (s.cmdLc c) true 0 x.bytes s).par.regs) ∧
    (s.ready c 0x0702 = some i → ∀ j x, s.resumeEntry (op i.pkt 32 2) = some (j, x) → s.mayName p x.part = true →
      ∃ u, exec (.parDiscard c) s = .next u ∧ u.Ended c .ok x.bytes 0 ∧ find? u.par.resumes j = none ∧
        (∀ k, k ≠ j → find? u.par.resumes k = find? s.par.resumes k) ∧ u = { s with cmd := u.cmd, tier := u.tier, par := u.par }))

/-! ### The Purlin (chapter 10) -/

/-- R228, R229: PRL_GROUP_LOAD of a good record sets the group with its members; PRL_GROUP_DROP removes it; other groups stay. A collective that begins leaves the granted stage, and one whose
block fails its checks ends with that failure and takes nothing.
R252, R249: a collective that has its buffers, whose every message has come and gone and has been answered, whose POSTs and DONEs are out and whose result blocks are formed, ends OK with its result,
or QUOTA with the lowest refused rank, and is no longer at work. -/
def Obligations.CollectivesBeginAndEnd : Prop :=
  (∀ (c : CmdRef) (s : State) (i : InFlight) (bs ms : List Byte),
    let p := s.cmdPart c
    let gi := op i.pkt 32 2 % 2 ^ 10
    let n := le bs 2 3 % 2 ^ 18
    let rank := le bs 12 4 % 2 ^ 17
    (s.ready c 0x0500 = some i → s.inRange p 8 gi = true → cmdBlock c p (addr154 (op i.pkt 40 8)) 64 0x12 0 groupRsv groupVals s = .ok bs → rank < n →
      cmdRead c p (addr154 (le bs 16 8)) (4 * n) s = .ok ms → memberFault s.selfId rank (memberWords ms n) = none →
      s.groupKibUsed p gi + groupKib n ≤ s.rangeCount p 9 →
      ∃ t, exec (.prlGroupLoad c) s = .next t ∧ t.Ended c .ok 0 0 ∧
        find? t.prl.groups gi = some ⟨p, memberWords ms n, BitVec.ofNat 32 (le bs 8 4), rank, BitVec.ofNat 8 (le bs 5 1), regularGroup (memberWords ms n)⟩ ∧
        (∀ j, j ≠ gi → find? t.prl.groups j = find? s.prl.groups j) ∧ t = { s with cmd := t.cmd, tier := t.tier, prl := t.prl }) ∧
    (s.ready c 0x0501 = some i → s.inRange p 8 gi = true →
      ∃ t, exec (.prlGroupDrop c) s = .next t ∧ t.Ended c .ok 0 0 ∧ find? t.prl.groups gi = none ∧
        (∀ j, j ≠ gi → find? t.prl.groups j = find? s.prl.groups j) ∧ t = { s with cmd := t.cmd, tier := t.tier, prl := t.prl }) ∧
    (∀ e ∈ [(0x0510, Instr.prlAlltoall c), (0x0511, .prlAlltoallv c), (0x0512, .prlAllreduce c), (0x0513, .prlReduceScatter c), (0x0514, .prlAllgather c),
        (0x0515, .prlBroadcast c)], s.ready c e.1 = some i → s.coll c = none →
      (∀ u, beginColl c e.1 i.pkt p (s.updIn c ({ · with stage := .running })) = .ok u →
        exec e.2 s = .next u ∧ ∀ j, u.inflight c = some j → j.stage ≠ .granted) ∧
      (∀ x, beginColl c e.1 i.pkt p (s.updIn c ({ · with stage := .running })) = .error x →
        ∃ t, exec e.2 s = .next t ∧ t.Ended c x.st 0 x.det ∧ t.prl = s.prl ∧ t.yrd = s.yrd))) ∧
  (∀ (c : CmdRef) (s : State) (x : Coll) (i : InFlight),
    s.coll c = some x → s.inflight c = some i → x.sw = none → x.hasArea = true → x.allReceived = true → x.allAnswered = true →
    (∀ d ∈ x.needs, x.bufs.any (fun b => b.1 == d.1 && b.2.1 == d.2.1) = true) →
    (∀ k ∈ x.allParts, ∀ p ∈ x.others, x.posted.contains (k.1, k.2, p) = true ∨ x.postsTo k.1 k.2 p = false) →
    (∀ k ∈ x.allParts, ∀ p ∈ x.others, x.doneTo.contains (k.1, k.2, p) = true ∨ x.stageIn k.1 k.2 p = false) →
    (∀ m ∈ x.outgoing, x.sent.contains m = true) → (x.isV = true → ∀ b ∈ x.others, x.holds x.a2aStage 0 b = true → ⟨x.a2aStage, b, kDone, 0, 0⟩ ∈ x.sent) →
    (x.reduces = true → ∀ j, (x.ownSlice x.me).1 ≤ j → j < (x.ownSlice x.me).2 → (find? x.res j).isSome = true) →
    (x.chunkEn = true → x.chunksDone ≤ x.added) →
    ∀ e ∈ [Instr.prlAlltoall c, .prlAlltoallv c, .prlAllreduce c, .prlReduceScatter c, .prlAllgather c, .prlBroadcast c],
      ∃ t, exec e s = .next t ∧ t.coll c = none ∧
        (x.refused = [] → t.Ended c .ok x.result 0) ∧ (x.refused ≠ [] → t.Ended c .quota x.result (x.refused.foldl min (2 ^ 17))))
/-- R236: the terms of several members may be added, or their maximum taken, in any order and grouping: the result is the same. -/
def Obligations.ReductionOrderFree : Prop :=
  ∀ (isMax : Bool) (a b d : Terms),
    joinTerms isMax a b = joinTerms isMax b a ∧ joinTerms isMax (joinTerms isMax a b) d = joinTerms isMax a (joinTerms isMax b d)

/-- R242, R249 to R252, R311: messages. A POST without its collective is held early, once; DATA or PARTIAL for another device is relayed where this device is its relay; a message that names no
collective, or has come already, is discarded and counted; one that is due is noted; REFUSE, RETRY and DONE are noted with their sender's rank.
R242, R253: when a retry interval has passed the POST is sent again and its entry is gone; when a collective's timeout has passed it ends TIMEOUT and is no longer at work, and before that nothing happens. -/
def Obligations.PurlinMessagesAndTimers : Prop :=
  ((∀ (k : Packet) (s : State), s.Takes 0x20 3 k →
    (mKind k = kPost → s.collOf (mTag k) (mSeq k) = none → s.prl.early.length < 4096 →
      (∀ e ∈ s.prl.early, e.tag ≠ mTag k ∨ e.seq ≠ mSeq k ∨ e.stage ≠ mStage k ∨ e.src ≠ mSender k ∨ e.off ≠ mOff k) →
      ∃ t, exec (.post k) s = .next t ∧ t.prl = { s.prl with early := s.prl.early ++ [⟨mTag k, mSeq k, mStage k, mSender k, mOff k, k.f 56 4, k.payload⟩] } ∧
        s.SameMemory t) ∧
    (k.f 60 4 % 2 ^ 20 ≠ s.selfId → s.relaysTo k (k.f 60 4 % 2 ^ 20) = true → ∀ e ∈ [(kData, Instr.data k), (kPartial, .partialSums k)], mKind k = e.1 →
      ∃ t, exec e.2 s = .next t ∧ t.prl.staged = s.prl.staged ++ [((k.set 3 1 0).set 4 4 (k.f 60 4 % 2 ^ 20)).set 8 4 s.selfId] ∧ t.prl.colls = s.prl.colls) ∧
    (∀ e ∈ [(kData, Instr.data k), (kPartial, .partialSums k), (kExp, .exponents k), (kResult, .result k)], mKind k = e.1 →
      (k.f 60 4 % 2 ^ 20 = s.selfId ∨ e.1 = kExp ∨ e.1 = kResult) →
      (s.collOf (mTag k) (mSeq k) = none →
        ∃ t, exec e.2 s = .next t ∧ t.prl = { s.prl with staleMsgs := satAdd s.prl.staleMsgs 1 } ∧ s.SameMemory t) ∧
      (∀ x r lo n, s.collOf (mTag k) (mSeq k) = some x → (if mStage k = stSw then some x.n else x.g.rankOf (mSender k)) = some r →
        unitsOf x k e.1 r = some (lo, n) → x.got.contains ⟨mStage k, r, e.1, lo, n⟩ = true →
        ∃ t, exec e.2 s = .next t ∧ t.prl = { s.prl with staleMsgs := satAdd s.prl.staleMsgs 1 } ∧ s.SameMemory t) ∧
      (∀ x r lo n, s.collOf (mTag k) (mSeq k) = some x → (if mStage k = stSw then some x.n else x.g.rankOf (mSender k)) = some r →
        unitsOf x k e.1 r = some (lo, n) → x.due ⟨mStage k, r, e.1, lo, n⟩ = true → s.coll x.cmd = some x →
        ∃ t, exec e.2 s = .next t ∧ ∀ y, t.coll x.cmd = some y → (⟨mStage k, r, e.1, lo, n⟩ : PrlMsg) ∈ y.got))) ∧
  (∀ (k : Packet) (s : State) (x : Coll) (r : Nat), s.Takes 0x20 0 k → s.collOf (mTag k) (mSeq k) = some x → s.coll x.cmd = some x →
    (if mStage k = stSw then some x.n else x.g.rankOf (mSender k)) = some r →
    (mKind k = kRefuse → x.isV = true → x.regions.contains r = false →
      ∃ t, exec (.refuse k) s = .next t ∧ satAdd s.prl.refused 1 ≤ t.prl.refused ∧ ∀ y, t.coll x.cmd = some y → r ∈ y.refused) ∧
    (mKind k = kRetry → x.posted.contains (mStage k, x.partAt (mStage k) (mOff k), r) = true →
      ∃ t, exec (.retry k) s = .next t ∧ s.SameMemory t ∧
        t.coll x.cmd = some { x with retry := x.retry ++ [(mStage k, x.partAt (mStage k) (mOff k), r, s.clk + k.f 60 4 * 1000)] }) ∧
    (mKind k = kDone → mLast k = false → x.doneFrom.contains (mStage k, x.partAt (mStage k) (mOff k), r) = false →
      ∃ t, exec (.done k) s = .next t ∧ ∀ y, t.coll x.cmd = some y → (mStage k, x.partAt (mStage k) (mOff k), r) ∈ y.doneFrom) ∧
    (mKind k = kDone → mLast k = true → x.isV = true →
      ∃ t, exec (.done k) s = .next t ∧ ∀ y, t.coll x.cmd = some y → find? y.totals r = some 0))) ∧
  (∀ (c : CmdRef) (s : State) (x : Coll), s.coll c = some x →
    (∃ t, exec (.postRetryInterval c) s = .next t ∧ t.coll c = some { x with retry := x.retry.filter fun e => decide (s.clk < e.2.2.2) } ∧
      ((∀ e ∈ x.retry, s.clk < e.2.2.2) → s.SameMemory t ∧ t.fab = s.fab)) ∧
    (∀ i, s.inflight c = some i →
      ((x.f 20 2 = 0 ∨ s.clk - i.since < x.f 20 2 * 1000) → exec (.collectiveTimeout c) s = .next s) ∧
      (x.f 20 2 ≠ 0 → x.f 20 2 * 1000 ≤ s.clk - i.since → ∃ t, exec (.collectiveTimeout c) s = .next t ∧ t.Ended c .timeout 0 0 ∧ t.coll c = none)))

/-! ### Links (chapter 11) -/

/-- R266, R269, R271, R273, R281, R289, R290, R296: link-control flits. A port without a link ignores them; a malformed one is counted. Each acts on its port as its rule says: credits are added by difference, a retry
request within the replay buffer sets the number to resend from and one outside it takes the link down, the peer's epoch is kept, a card is kept and acknowledged, a width is taken and answered, time is measured.
R258 to R260, R277 to R279, R478: segments and blocks. A TAG whose count and tag verify empties the segment; one that does not discards it and asks for it again, and the third in a row takes the link down, or fails the port
on its first segment; nothing of a segment that fails goes on. A block of which no flit passes its CRC is counted and asked for again; a block of another length is no block. -/
def Obligations.LinkFlitsAndBlocks : Prop :=
  (∀ (port : PortIx) (b b1 : BitVec 512) (s : State),
    let x := s.port port
    ((s.port port).linked = false → ∀ i ∈ [Instr.credit port b, .retryReq port b, .heartbeat port b, .card port b b1, .cardAck port b, .width port b, .tag port b,
        .time port b, .sync port b], exec i s = .next s) ∧
    (x.linked = true → ctlOk b = false → ∀ i ∈ [Instr.credit port b, .retryReq port b, .heartbeat port b, .cardAck port b, .width port b, .tag port b, .time port b,
        .sync port b], ∃ t, exec i s = .next t ∧ s.OnlyPort t port ∧ t.port port = { x with event := x.event ||| 0x40 }) ∧
    (s.TakesCtl port 3 b → ∃ t, exec (.heartbeat port b) s = .next t ∧ s.OnlyPort t port ∧
      t.port port = { x with heard := s.clk, peerEpoch := BitVec.ofNat 16 (byteFld b 8 2), peerFenced := bit b 80 }) ∧
    (s.TakesCtl port 1 b →
      ((byteFld b 2 1 = 0 ∨ 20 < byteFld b 2 1) → ∃ t, exec (.credit port b) s = .next t ∧ t.port port = { x with heard := s.clk, event := x.event ||| 0x40 }) ∧
      (1 ≤ byteFld b 2 1 → byteFld b 2 1 ≤ 20 → ∃ t, exec (.credit port b) s = .next t ∧ s.OnlyPort t port ∧
        (∀ i v, i < byteFld b 2 1 → byteFld b (4 + 3 * i) 1 = v → v < 20 → (∀ j, j < byteFld b 2 1 → j ≠ i → byteFld b (4 + 3 * j) 1 ≠ v) →
          let c : W16 := BitVec.ofNat 16 (byteFld b (5 + 3 * i) 2)
          getD (t.port port).freedIn v 0 = c ∧ getD (t.port port).credits v 0 = getD x.credits v 0 + (c - getD x.freedIn v 0).toNat) ∧
        ∀ v, (∀ i, i < byteFld b 2 1 → byteFld b (4 + 3 * i) 1 ≠ v) → getD (t.port port).credits v 0 = getD x.credits v 0)) ∧
    (s.TakesCtl port 2 b →
      let n : W16 := BitVec.ofNat 16 (byteFld b 2 2)
      let d := (n - (x.txSeq - BitVec.ofNat 16 x.replay.length)).toNat
      (d ≤ x.replay.length → ∃ t, exec (.retryReq port b) s = .next t ∧ s.OnlyPort t port ∧
        t.port port = { x with heard := s.clk, sendAt := n, replays := satAdd x.replays 1 }) ∧
      (x.replay.length < d → ∃ t, exec (.retryReq port b) s = .next t ∧ s.WentDown t port)) ∧
    (s.TakesCtl port 4 b → ctlOk b1 = true → byteFld b1 0 1 = 5 →
      let c := cardPart b ++ cardPart b1
      (cardOk c port = true → ∃ t, exec (.card port b b1) s = .next t ∧ (t.port port).card = some c ∧ (t.port port).cardHalf = none ∧
        (x.st = .card → x.cardAcked = true → (t.port port).st ≠ .card) ∧ (x.st ≠ .card ∨ x.cardAcked = false → (t.port port).st = x.st)) ∧
      (cardOk c port = false → ∃ t, exec (.card port b b1) s = .next t ∧ t.port port = { x with heard := s.clk, event := x.event ||| 0x40 })) ∧
    (s.TakesCtl port 6 b →
      (byteFld b 4 4 = crc32c (cardBytes s port) → (x.st ≠ .card ∨ x.card = none) →
        ∃ t, exec (.cardAck port b) s = .next t ∧ s.OnlyPort t port ∧ t.port port = { x with heard := s.clk, cardAcked := true }) ∧
      (byteFld b 4 4 = crc32c (cardBytes s port) → x.st = .card → x.card.isSome = true → ∃ t, exec (.cardAck port b) s = .next t ∧ (t.port port).st ≠ .card) ∧
      (byteFld b 4 4 ≠ crc32c (cardBytes s port) → ∃ t, exec (.cardAck port b) s = .next t ∧ t.port port = { x with heard := s.clk })) ∧
    (s.TakesCtl port 7 b →
      let m := byteFld b 4 4
      let legal : Prop := portClass port ≠ 2 ∧ m ≠ 0 ∧ Nat.land m (s.allHalves port) = m
      (legal → bit b 16 = true → ∃ t, exec (.width port b) s = .next t ∧ s.OnlyPort t port ∧
        t.port port = { x with heard := s.clk, rxHalves := m, rxMap := m, rxBlocks := 0 }) ∧
      (legal → bit b 16 = false → ∃ t, exec (.width port b) s = .next t ∧ s.OnlyPort t port ∧ t.port port = { x with heard := s.clk, txNext := some m }) ∧
      (¬ legal → ∃ t, exec (.width port b) s = .next t ∧ t.port port = { x with heard := s.clk })) ∧
    (s.TakesCtl port 9 b →
      (bit b 16 = false → ∃ t, exec (.time port b) s = .next t ∧ s.OnlyPort t port ∧
        t.port port = { x with heard := s.clk, ctl := x.ctl ++ [timeFlit true (BitVec.ofNat 64 (byteFld b 8 8)) s.hall16 0] }) ∧
      (bit b 16 = true → x.st ≠ .check → ∃ t, exec (.time port b) s = .next t ∧ s.OnlyPort t port ∧
        (t.port port).delay = BitVec.ofInt 32 (((s.hall16 - BitVec.ofNat 64 (byteFld b 8 8)).toInt -
          (BitVec.ofNat 64 (byteFld b 24 8) - BitVec.ofNat 64 (byteFld b 16 8)).toInt) / 2))) ∧
    (s.TakesCtl port 0x0A b →
      (s.timSource = 2 → fld (s.reg 0x19000000) 43 38 = port.val → s.pwr.stepped = false →
        ∃ t, exec (.sync port b) s = .next t ∧ t.pwr.stepped = true ∧ t.hall = (BitVec.ofNat 64 (byteFld b 8 8) + BitVec.ofNat 64 x.delay.toNat) >>> 4) ∧
      ((s.timSource ≠ 2 ∨ fld (s.reg 0x19000000) 43 38 ≠ port.val) → ∃ t, exec (.sync port b) s = .next t ∧ s.OnlyPort t port ∧ t.hall = s.hall))) ∧
  ((∀ (port : PortIx) (b : BitVec 512) (s : State),
    let x := s.port port
    let c : W64 := BitVec.ofNat 64 (byteFld b 8 8)
    let good : Prop := byteFld b 16 2 = x.rxSegment.length ∧
      (Config.gcmTag (x.key (2 + x.rxSlot)) c.toNat (segmentAad c (x.rxSegment.map (·.1))) (x.rxSegment.flatMap fun e => blockBytes e.2)).toNat = byteFld b 48 16
    s.TakesCtl port 8 b → byteFld b 2 1 % 2 = x.rxSlot →
      (good → ∃ t, exec (.tag port b) s = .next t ∧ (t.port port).rxSegment = [] ∧ (t.port port).tagFails = 0 ∧ (t.port port).authErrs = x.authErrs ∧
        (x.rxSegment = [] → (t.port port).rxSeq = x.rxSeq + 1 ∧ (t.port port).rxFirst = false ∧ s.OnlyPort t port)) ∧
      (¬ good → x.tagFails + 1 < 3 → ∃ t, exec (.tag port b) s = .next t ∧ s.OnlyPort t port ∧ (t.port port).rxSegment = [] ∧
        (t.port port).tagFails = x.tagFails + 1 ∧ (t.port port).authErrs = satAdd x.authErrs 1 ∧ (t.port port).wait = some (1, s.clk) ∧
        (t.port port).rxSeq = (if x.rxSegment = [] then x.rxSeq else x.rxSegSeq)) ∧
      (¬ good → 3 ≤ x.tagFails + 1 → x.rxFirst = true → ∃ t, exec (.tag port b) s = .next t ∧ (t.port port).st = .failed ∧ (t.port port).reason = 5) ∧
      (¬ good → 3 ≤ x.tagFails + 1 → x.rxFirst = false → ∃ t, exec (.tag port b) s = .next t ∧ s.WentDown t port)) ∧
  (∀ (port : PortIx) (bs : List Byte) (s : State),
    (bs.length ≠ 1056 → exec (.linkBlock port bs) s = .fault .illFormed) ∧
    (bs.length = 1056 → (portClass port = 2 ∨ (s.port port).linked = false) → exec (.linkBlock port bs) s = .next s) ∧
    (bs.length = 1056 → portClass port ≠ 2 → (s.port port).linked = true → (s.port port).rxHalves.testBit (s.port port).rxHalf = false →
      ∃ t, exec (.linkBlock port bs) s = .next t ∧ s.OnlyPort t port ∧ t.port port = { s.port port with rxBlocks := (s.port port).rxBlocks + 1 }) ∧
    (bs.length = 1056 → portClass port ≠ 2 → (s.port port).linked = true → (s.port port).rxHalves.testBit (s.port port).rxHalf = true →
      let bad := ((blockFlits bs).filter fun e => !e.1).length
      ∃ t, exec (.linkBlock port bs) s = .next t ∧ (t.port port).crcErrs = satAdd (s.port port).crcErrs bad ∧
        (bad = 16 → s.OnlyPort t port ∧ (t.port port).rxSeq = (s.port port).rxSeq ∧ (t.port port).wait.isSome = true) ∧
        (bad < 16 → (t.port port).heard = s.clk))))
/-- R269, R271, R273, R277, R281, R290, R296, R477: the timers of a link, each with the moment at which it acts; before it, nothing happens.
R271, R280, R286, R289, R290, R479: training. A signal, a block lock and their time-outs take a port through its states; enable, retrain and widen act on it; a lane fault narrows a link or takes it down; a hall port without its
key in time fails; expected_peer is the PF's to write. -/
def Obligations.LinkTimersAndTraining : Prop :=
  (∀ (port : PortIx) (s : State),
    let x := s.port port
    (∀ n t0, x.wait = some (n, t0) →
      ((s.clk - t0 < 1000 ∨ x.linked = false) → exec (.retryReqRepeat port) s = .next s) ∧
      (1000 ≤ s.clk - t0 → x.linked = true → n + 1 < 8 → ∃ t, exec (.retryReqRepeat port) s = .next t ∧ s.OnlyPort t port ∧
        t.port port = { x with wait := some (n + 1, s.clk), ctl := x.ctl ++ [retryFlit x.rxSeq] }) ∧
      (1000 ≤ s.clk - t0 → x.linked = true → 8 ≤ n + 1 → ∃ t, exec (.retryReqRepeat port) s = .next t ∧ s.WentDown t port)) ∧
    (x.wait = none → exec (.retryReqRepeat port) s = .next s) ∧
    (s.isLive port = false → ∀ i ∈ [Instr.heartbeatTimer port, .linkSilenceTimeout port, .linkDelayTimer port, .keyRollover port, .hallRto port], exec i s = .next s) ∧
    (s.isLive port = true →
      (60000 ≤ s.clk - x.heard → ∀ i ∈ [Instr.heartbeatTimer port, .linkSilenceTimeout port], ∃ t, exec i s = .next t ∧ s.WentDown t port) ∧
      (s.clk - x.heard < 60000 → exec (.linkSilenceTimeout port) s = .next s ∧
        (s.clk - x.beat < 20000 → exec (.heartbeatTimer port) s = .next s) ∧
        (20000 ≤ s.clk - x.beat → ∃ t, exec (.heartbeatTimer port) s = .next t ∧ s.OnlyPort t port ∧
          t.port port = { x with beat := s.clk, ctl := x.ctl ++ [heartbeatFlit s] })) ∧
      (portClass port ≠ 2 → 1000000 ≤ s.clk - x.timeAt → ∃ t, exec (.linkDelayTimer port) s = .next t ∧ s.OnlyPort t port ∧
        t.port port = { x with timeAt := s.clk, ctl := x.ctl ++ [timeFlit false 0 0 0] }) ∧
      (s.clk - x.timeAt < 1000000 → exec (.linkDelayTimer port) s = .next s) ∧
      (x.txCounter.toNat < 2 ^ 47 → exec (.keyRollover port) s = .next s) ∧
      (2 ^ 47 ≤ x.txCounter.toNat → (x.replay.any fun e => e.1 == 1 && byteFld e.2 2 1 % 2 == 1 - x.txSlot) = false →
        ∃ t, exec (.keyRollover port) s = .next t ∧ s.OnlyPort t port ∧ (t.port port).txSlot = 1 - x.txSlot ∧ (t.port port).txCounter = 0 ∧
          (t.port port).txSegment = [] ∧ (t.port port).steps = (x.steps.1 + 1, x.steps.2) ∧
          (t.port port).key (1 - x.txSlot) = nextKey (x.key x.txSlot) (x.steps.1 + 1))) ∧
    (x.linked = true → 20000 ≤ s.clk - x.creditAt → ∃ t, exec (.creditRepeatTimer port) s = .next t ∧ s.OnlyPort t port ∧
      t.port port = { x with creditAt := s.clk, creditDue := List.range 20 }) ∧
    ((x.linked = false ∨ s.clk - x.creditAt < 20000) → exec (.creditRepeatTimer port) s = .next s) ∧
    (x.st = .card → x.cardAcked = false → 10000 ≤ s.clk - x.cardSent → ∃ t, exec (.cardResendTimer port) s = .next t ∧ (t.port port).cardSent = s.clk ∧
      (portClass port ≠ 2 → (t.port port).ctl.length = x.ctl.length + 2 ∧ s.OnlyPort t port) ∧
      (portClass port = 2 → t.out.length = s.out.length + 1)) ∧
    ((x.st ≠ .card ∨ x.cardAcked = true ∨ s.clk - x.cardSent < 10000) → exec (.cardResendTimer port) s = .next s) ∧
    (x.txSegment ≠ [] → 64 ≤ s.clk - x.txSegAt → ∃ t, exec (.segmentCloseTimeout port) s = .next t ∧ s.OnlyPort t port ∧ (t.port port).txSegment = [] ∧
      (t.port port).txSeq = x.txSeq + 1 ∧ (t.port port).txCounter = x.txCounter + 1 ∧ (t.port port).replay.length = x.replay.length + 1) ∧
    ((x.txSegment = [] ∨ s.clk - x.txSegAt < 64) → exec (.segmentCloseTimeout port) s = .next s)) ∧
  (∀ (port : PortIx) (s : State),
    let x := s.port port
    (x.st = .detect → ∃ t, exec (.signalDetect port) s = .next t ∧ s.OnlyPort t port ∧ t.port port = { x with st := .equalize, entered := s.clk }) ∧
    (x.st ≠ .detect → exec (.signalDetect port) s = .next s) ∧
    (x.st = .equalize → exec (.blockLock port) s = .next s) ∧
    (x.st = .align → ∃ t, exec (.blockLock port) s = .next t ∧ (t.port port).st = .card ∧ (t.port port).txSeq = 0 ∧ (t.port port).rxSeq = 0 ∧
      (t.port port).replay = [] ∧ (t.port port).txHalves = (if x.txHalves = 0 then s.allHalves port else x.txHalves) ∧
      (t.port port).rxHalves = (if x.rxHalves = 0 then s.allHalves port else x.rxHalves) ∧ (t.port port).heard = s.clk ∧
      ∀ g, g ≠ port.val → t.port g = s.port g) ∧
    (x.linked = true → ∀ m t0, x.widening = some (m, t0) → ∃ t, exec (.blockLock port) s = .next t ∧ s.OnlyPort t port ∧
      t.port port = { x with widening := none, rxHalves := Nat.lor x.rxHalves m, ctl := x.ctl ++ [widthFlit false (Nat.lor x.rxHalves m)] }) ∧
    (portClass port ≠ 2 → [PortState.detect, .equalize, .align, .card, .check].contains x.st = true → 100000000 ≤ s.clk - x.trainAt →
      ∃ t, exec (.trainingTimeout port) s = .next t ∧ s.OnlyPort t port ∧ (t.port port).st = .failed ∧ (t.port port).reason = 6) ∧
    ((portClass port = 2 ∨ s.clk - x.trainAt < 100000000) → exec (.trainingTimeout port) s = .next s) ∧
    (portClass port = 2 → (x.st = .card ∨ x.st = .check) → x.sak = none → 6000000000 ≤ s.clk - x.sakAt →
      ∃ t, exec (.sakTimeout port) s = .next t ∧ s.OnlyPort t port ∧ (t.port port).st = .failed ∧ (t.port port).reason = 5) ∧
    ((portClass port ≠ 2 ∨ x.sak.isSome = true ∨ s.clk - x.sakAt < 6000000000) → exec (.sakTimeout port) s = .next s) ∧
    (portClass port = 2 → s.isLive port = true → x.sak.isSome = true → ∃ t, exec (.sakRekey port) s = .next t ∧ (t.port port).sak.isSome = true ∧
      (t.port port).pn = 1 ∧ (t.port port).rxPn = 1 ∧ (t.port port).sakAt = s.clk ∧ (t.port port).st = x.st) ∧
    (∀ on, on ≠ bit (s.portCfg port) 0 → on = true → s.idlePort port = true → ∃ t, exec (.portEnable port on) s = .next t ∧ t.port port = x ∧
      t.portCfg port = setFld (s.portCfg port) 0 0 1) ∧
    (∀ on, on ≠ bit (s.portCfg port) 0 → (on = true → s.idlePort port = false) →
      ∃ t, exec (.portEnable port on) s = .next t ∧ (t.port port).st = (if on then .detect else .disabled) ∧
      t.portCfg port = setFld (s.portCfg port) 0 0 (b2n on) ∧ (t.port port).reason = 0) ∧
    (∃ t, exec (.portEnable port (bit (s.portCfg port) 0)) s = .next t ∧ t = { s with csr := t.csr } ∧ ∀ o, t.reg o = s.reg o) ∧
    (s.pwr.ready = false → exec (.retrain port) s = .next (logWrite 0 7 (portReg port 0) s)) ∧
    (s.pwr.ready = true → bit (s.portCfg port) 0 = true → s.idlePort port = false → ∃ t, exec (.retrain port) s = .next t ∧ (t.port port).st = .detect ∧
      (x.linked = true → (t.port port).linkDowns = satAdd x.linkDowns 1)) ∧
    (s.pwr.ready = true → (bit (s.portCfg port) 0 = false ∨ s.idlePort port = true) → exec (.retrain port) s = .next s) ∧
    (s.isLive port = true → portClass port ≠ 2 → (∃ h, h < 4 ∧ (s.allHalves port).testBit h = true ∧ x.rxHalves.testBit h = false) →
      ∃ t m, exec (.widen port) s = .next t ∧ s.OnlyPort t port ∧ t.port port = { x with widening := some (m, s.clk) } ∧
        ∀ h, h < 4 → m.testBit h = ((s.allHalves port).testBit h && !x.rxHalves.testBit h)) ∧
    ((s.isLive port = false ∨ portClass port = 2) → exec (.widen port) s = .next s) ∧
    (∀ m t0, x.widening = some (m, t0) → 100000000 ≤ s.clk - t0 → ∃ t, exec (.widenTimeout port) s = .next t ∧ s.OnlyPort t port ∧
      t.port port = { x with widening := none }) ∧
    (x.widening = none → exec (.widenTimeout port) s = .next s) ∧
    (∀ lane : Fin 32, x.linked = true → portClass port ≠ 2 → x.rxHalves.testBit (lane.val / 8) = true →
      let m := remaining (s.halfBent port) x.rxHalves (lane.val / 8)
      (m ≠ 0 → ∃ t, exec (.laneFault port lane) s = .next t ∧ s.OnlyPort t port ∧ (t.port port).rxHalves = m ∧
        (t.port port).degrades = satAdd x.degrades 1 ∧ (t.port port).event = x.event ||| 4 ∧ (t.port port).wait.isSome = true) ∧
      (m = 0 → ∃ t, exec (.laneFault port lane) s = .next t ∧ s.WentDown t port)) ∧
    (∀ lane : Fin 32, (x.linked = false ∨ portClass port = 2 ∨ x.rxHalves.testBit (lane.val / 8) = false) → exec (.laneFault port lane) s = .next s) ∧
    (∀ v : BitVec 64, s.PfWrites →
      (portClass port = 2 → x.st ≠ .managementOnly → ∃ t, exec (.expectedPeerWrite 0 port v) s = .next t ∧ t = { s with csr := t.csr } ∧
        t.portCfg port = setFld (s.portCfg port) 47 28 (fld v 47 28) ∧ ∀ o, o ≠ portReg port 0 → t.reg o = s.reg o) ∧
      (portClass port ≠ 2 → exec (.expectedPeerWrite 0 port v) s = .next s)) ∧
    (∀ (fn : Fn) (v : BitVec 64), fn.val ≠ 0 → s.pwr.ready = true → s.host.flr.contains fn.val = false →
      ∃ t, exec (.expectedPeerWrite fn port v) s = .next t ∧ t = { s with host := t.host } ∧ (getD t.host.errLog fn {}).valid = true))
/-- R291 to R295, R479: hall frames. A port that is no hall port, or has no link, ignores them; a bad FCS or ICV is counted. A DATA frame in sequence advances the number expected, one seen before is acknowledged again, one ahead is
NAKed; an ACK frees frames, a NAK has the rest resent, TRAIN carries card flits; MKA gives the key it distributes; the resend timer resends; PTP messages are timestamped. -/
def Obligations.HallFrames : Prop :=
  ∀ (port : PortIx) (f : List Byte) (s : State),
    let x := s.port port
    ((portClass port ≠ 2 ∨ x.linked = false) → ∀ i ∈ [Instr.hallDataFrame port f, .hallAckFrame port f, .hallNakFrame port f, .hallTrainFrame port f, .mkaFrame port f,
        .ptpMessage port f], exec i s = .next s) ∧
    (portClass port = 2 → x.linked = true →
      (∀ i ∈ [Instr.hallDataFrame port f, .hallAckFrame port f, .hallNakFrame port f, .hallTrainFrame port f],
        (openFrame x f = .error .fcs → ∃ t, exec i s = .next t ∧ s.OnlyPort t port ∧ t.port port = { x with crcErrs := satAdd x.crcErrs 1 }) ∧
        (openFrame x f = .error .icv → ∃ t, exec i s = .next t ∧ s.OnlyPort t port ∧ t.port port = { x with authErrs := satAdd x.authErrs 1 })) ∧
      (∀ p pn fr, openFrame x f = .ok (p, pn) → parseFrame s port p = .ok fr →
        let old := x.txFrame - BitVec.ofNat 32 x.frames.length
        (fr.kind = 0 → (fr.seq = x.rxFrame → (∀ e ∈ fr.flits, e.1 = 0) →
            ∃ t, exec (.hallDataFrame port f) s = .next t ∧ s.OnlyPort t port ∧ (t.port port).rxFrame = x.rxFrame + 1 ∧ (t.port port).ackDue = true ∧
              (t.port port).heard = s.clk) ∧
          (2 ^ 31 ≤ (fr.seq - x.rxFrame).toNat → ∃ t, exec (.hallDataFrame port f) s = .next t ∧ s.OnlyPort t port ∧ (t.port port).rxFrame = x.rxFrame ∧
            (t.port port).ackDue = true) ∧
          (1 ≤ (fr.seq - x.rxFrame).toNat → (fr.seq - x.rxFrame).toNat < 2 ^ 31 → x.nakAt = none →
            ∃ t, exec (.hallDataFrame port f) s = .next t ∧ (t.port port).rxFrame = x.rxFrame ∧ (t.port port).nakAt = some s.clk ∧ t.out.length = s.out.length + 1)) ∧
        (fr.kind = 1 → 1 ≤ (fr.ack - old).toNat → (fr.ack - old).toNat ≤ x.frames.length →
          ∃ t, exec (.hallAckFrame port f) s = .next t ∧ s.OnlyPort t port ∧ (t.port port).frames = x.frames.drop (fr.ack - old).toNat ∧ (t.port port).ackAt = s.clk) ∧
        (fr.kind = 2 → (fr.ack - old).toNat ≤ x.frames.length →
          ∃ t, exec (.hallNakFrame port f) s = .next t ∧ (t.port port).frames = x.frames.drop (fr.ack - old).toNat ∧ (t.port port).replays = satAdd x.replays 1 ∧
            t.out.length = s.out.length + (x.frames.length - (fr.ack - old).toNat)) ∧
        (fr.kind = 3 → ∀ a, fr.flits = [(1, a)] → byteFld a 0 1 = 4 → ctlOk a = true →
          ∃ t, exec (.hallTrainFrame port f) s = .next t ∧ s.OnlyPort t port ∧ (t.port port).cardHalf = some a)) ∧
      (find? s.sec.cak (portIx port) = none → exec (.mkaFrame port f) s = .next s) ∧
      (∀ k sak, find? s.sec.cak (portIx port) = some k → Config.mkaSak k f = some sak → ∃ t, exec (.mkaFrame port f) s = .next t ∧ (t.port port).sak = some sak ∧
        (t.port port).pn = 1 ∧ (t.port port).rxPn = 1 ∧ (x.st ≠ .check → (∀ g, g ≠ port.val → t.port g = s.port g) ∧ (t.port port).st = x.st) ∧
        (∀ st, x.st = .check → x.target = some st → (t.port port).st = st)) ∧
      (∀ k, find? s.sec.cak (portIx port) = some k → Config.mkaSak k f = none → ∃ t, exec (.mkaFrame port f) s = .next t ∧ t = { s with out := t.out }) ∧
      (∃ t, exec (.ptpMessage port f) s = .next t ∧ (t.port port).ptpAt = some s.hall ∧ (∀ g, g ≠ port.val → t.port g = s.port g) ∧
        (s.timSource ≠ 1 → t.hall = s.hall) ∧ (s.timSource = 1 → s.fab.timePort = some port.val → t.pwr.stepped = true))) ∧
    (portClass port = 2 → s.isLive port = true → x.frames ≠ [] → fld (s.udpCfg port) 13 6 * 1000 ≤ s.clk - x.ackAt →
      ∃ t, exec (.hallRto port) s = .next t ∧ (t.port port).replays = satAdd x.replays 1 ∧ (t.port port).ackAt = s.clk ∧ (t.port port).frames = x.frames ∧
        t.out.length = s.out.length + x.frames.length) ∧
    ((portClass port ≠ 2 ∨ x.frames = [] ∨ s.clk - x.ackAt < fld (s.udpCfg port) 13 6 * 1000) → exec (.hallRto port) s = .next s)

/-! ### Routing, drains and the epoch switch (chapter 12) -/

/-- R316, R317, R333: DRAIN_BEGIN takes RUN to DRAIN and withdraws the device's REQ and COLL packets of which nothing has been admitted, DRAIN_END returns to RUN with no packet held at the source; SWITCH is accepted only in DRAIN with a newer staged epoch, and at its time every staged
table becomes current under the staged epoch, in RUN, with no packet held at ingress; SNAP latches the packets held and received.
R301, R302, R310, R312, R315: packets that arrive. On a port without a link nothing happens; a whole packet for this device waits at the port's adapter for the Truss to its engine; on port 6 or 7 no other is taken (R304); one that is not CTRL and whose route epoch is not the device's,
outside a pending switch, is discarded and counted; a malformed packet is counted. PLANE_STATE marks its position's plane down or up; a LOSS of a request has it resent. -/
def Obligations.RoutingEvents : Prop :=
  (∀ s : State,
    (s.fab.drain = 0 → s.fab.held = [] → ∃ t, exec .drainBegin s = .next t ∧ t.fab = { withdraw s.fab with drain := 1, drainAt := s.clk } ∧ t.cmd = s.cmd) ∧
    (s.fab.drain = 1 → exec .drainBegin s = .next s) ∧
    (s.fab.drain = 2 → ∃ t, exec .drainBegin s = .next t ∧ t.fab.drain = 1 ∧ t.fab.held = [] ∧ t.fab.epoch = s.fab.epoch ∧ t.cmd = s.cmd) ∧
    (s.fab.drain = 0 → exec .drainEnd s = .next s) ∧
    (s.fab.drain ≠ 0 → ∃ t, exec .drainEnd s = .next t ∧ t.fab.drain = 0 ∧ t.fab.heldTx = [] ∧ t.fab.held = [] ∧ t.fab.epoch = s.fab.epoch ∧ t.fab.current = s.fab.current ∧
      t.cmd = s.cmd) ∧
    (s.fab.drain = 1 → newer (BitVec.ofNat 16 s.stagedEpoch) s.fab.epoch = true → exec .switch s = .next { s with fab := { s.fab with drain := 2 } }) ∧
    ((s.fab.drain ≠ 1 ∨ newer (BitVec.ofNat 16 s.stagedEpoch) s.fab.epoch = false) →
      ∃ t, exec .switch s = .next t ∧ t = { s with host := t.host } ∧ (getD t.host.errLog 0 {}).valid = true) ∧
    (s.fab.drain = 2 → (s.reg 0x0D000020).toNat ≤ s.hall.toNat →
      ∃ t, exec .switchTimeReached s = .next t ∧ t.fab.epoch = BitVec.ofNat 16 s.stagedEpoch ∧ t.fab.drain = 0 ∧ t.fab.held = [] ∧ t.fab.heldTx = [] ∧
        (∀ off, isTable off = true → t.cur off = s.reg off) ∧ t.csr = s.csr ∧ t.cmd = s.cmd) ∧
    ((s.fab.drain ≠ 2 ∨ s.hall.toNat < (s.reg 0x0D000020).toNat) → exec .switchTimeReached s = .next s) ∧
    exec .snap s = .next { s with fab := { s.fab with snap := (BitVec.ofNat 32 s.heldCount, s.fab.rx), rx := 0 } }) ∧
  ((∀ (port : PortIx) (k : Packet) (s : State),
    (s.isLive port = false → exec (.transitPacket port k) s = .next s) ∧
    (s.isUp port = true → malformed k = false → k.cls = 0 → (k.dest = s.selfId ∨ (sweepType k = true ∧ [29, 30].contains port.val = false)) →
      ∃ t, exec (.transitPacket port k) s = .next t ∧ t.cmd = s.cmd ∧
        t.fab.waiting = s.fab.waiting ++ [{ src := port, dst := engineOf k.ty, q := { k := k, vc := k.vc, since := s.clk } }]) ∧
    (s.isUp port = true → malformed k = false → k.cls = 0 → k.dest ≠ s.selfId → [29, 30].contains port.val = true →
      ∃ t, exec (.transitPacket port k) s = .next t ∧ t.fab.noRoute = satAdd s.fab.noRoute 1 ∧ t.fab.waiting = s.fab.waiting ∧ t.cmd = s.cmd) ∧
    (s.isUp port = true → malformed k = false → k.cls ≠ 0 → s.flt.fenced = false → s.holdsAt port k = false → s.fab.drain ≠ 2 → k.routeEpoch = s.fab.epoch.toNat →
      k.dest = s.selfId →
      ∃ t, exec (.transitPacket port k) s = .next t ∧ t.fab.rx = s.fab.rx + 1 ∧ t.cmd = s.cmd ∧
        t.fab.waiting = s.fab.waiting ++ [{ src := port, dst := engineOf k.ty, owed := some k.vc, q := { k := k, vc := k.vc, since := s.clk } }]) ∧
    (s.isUp port = true → malformed k = false → k.cls ≠ 0 → s.flt.fenced = false → s.holdsAt port k = false → s.fab.drain ≠ 2 → k.routeEpoch ≠ s.fab.epoch.toNat →
      ∃ t, exec (.transitPacket port k) s = .next t ∧ t.fab.staleRoute = satAdd s.fab.staleRoute 1 ∧ t.cmd = s.cmd) ∧
    (s.isUp port = true → malformed k = true → ∃ t, exec (.transitPacket port k) s = .next t ∧ (t.port port).event = (s.port port).event ||| 0x40 ∧
      t.fab.inbox = s.fab.inbox ∧ t.fab.waiting = s.fab.waiting ∧ t.cmd = s.cmd)) ∧
  (∀ (k : Packet) (s : State), s.Takes 0x43 0 k →
    ∃ t, exec (.planeState k) s = .next t ∧
      ((getD t.fab.planeDown (k.f 32 4 % 64) 0).testBit (k.f 36 1 % 8) = !bit k.hdr (8 * 37)) ∧
      (∀ q, q ≠ k.f 32 4 % 64 → getD t.fab.planeDown q 0 = getD s.fab.planeDown q 0) ∧ (s.prl.colls = [] → s.SameMemory t)) ∧
  (∀ (k : Packet) (s : State), s.Takes 0x42 0 k → k.f 37 1 < 0x20 →
    (find? s.rem.tags (k.f 38 2) = none → ∃ t, exec (.loss k) s = .next t ∧ t = { s with fab := t.fab } ∧ t.fab.rx = s.fab.rx) ∧
    (∀ x, find? s.rem.tags (k.f 38 2) = some x → x.k.ordered = false →
      ∃ t y, exec (.loss k) s = .next t ∧ find? t.rem.tags (k.f 38 2) = some y ∧ y.at_ = s.clk ∧ y.cmd = x.cmd ∧ y.off = x.off ∧ y.len = x.len)))
/-- R301: whatever route answers. A packet for this device is delivered. One that goes out goes to an UP port; never after 31 hops, nor from stage L1; from L0 only to L1 within its cube;
to L0 or L1 within its cube, and to P, H0 or H1 on its way to another. -/
def Obligations.RouteStages : Prop :=
  ∀ (s : State) (k : Packet) (arrived dim : Option Nat),
    (k.dest = s.selfId → route s k arrived dim = .deliver) ∧ (route s k arrived dim = .deliver → k.dest = s.selfId) ∧
    ∀ f st alt turn, route s k arrived dim = .out f st alt turn →
      k.hops < 31 ∧ s.isUp f = true ∧ arrived ≠ some stL1 ∧ (arrived = some stL0 → st = stL1) ∧
      (k.destCube = s.selfCube → st = stL0 ∨ st = stL1) ∧ (k.destCube ≠ s.selfCube → st = stP ∨ st = stH0 ∨ st = stH1)

/-- R338, R340, R343: a shaper whose calendar slot is reached leaves it with its credit updated; the queues are sampled once their period has passed, and the maxima are cleared on demand; a write of TEL_HDR_CFG
that enables a direction zeroes the sample counts.
R504, R506: hall time. An edge of TIME_1PPS with that source steps an unstepped counter to the time of TIM_SET; a lost source leaves holdover; TIME_1PPS_OUT rises when hall time reaches a whole second. -/
def Obligations.ShapersSamplesAndTime : Prop :=
  ((∀ (sh : Fin 48) (s : State),
    (∀ n, (s.shaper sh).slot = some n → 16 * n ≤ s.trsNow →
      ∃ t, exec (.shaperEligible sh) s = .next t ∧ t = { s with fab := { s.fab with shapers := t.fab.shapers } } ∧
        t.shaper sh = { shaperUpdate (s.shaperCfg sh) s.trsNow (s.shaper sh) with slot := none } ∧ (0 ≤ (t.shaper sh).credit → t.eligible sh = true) ∧
        ∀ j, j ≠ sh.val → t.shaper j = s.shaper j) ∧
    (∀ n, (s.shaper sh).slot = some n → s.trsNow < 16 * n → exec (.shaperEligible sh) s = .next s)) ∧
  (∀ s : State,
    (s.trsNow - 2 * s.fab.sampledAt < 2 ^ fld (s.reg 0x08000500) 4 0 → exec .qsamplePeriod s = .next s) ∧
    (2 ^ fld (s.reg 0x08000500) 4 0 ≤ s.trsNow - 2 * s.fab.sampledAt →
      ∃ t, exec .qsamplePeriod s = .next t ∧ t = { s with fab := { s.fab with qsample := t.fab.qsample, sampledAt := s.clk } } ∧
        ∀ f v, f < 33 → v < 20 →
          let o := getD s.fab.qsample (f * 32 + v) {}
          let x := getD t.fab.qsample (f * 32 + v) {}
          x.depth.toNat = min ((s.port f).depth v) 65535 ∧ x.delay.toNat = min (s.vcAge f v) 65535 ∧
          x.maxDepth.toNat = max o.maxDepth.toNat x.depth.toNat ∧ x.maxDelay.toNat = max o.maxDelay.toNat x.delay.toNat) ∧
    (∃ t, exec .qsampleClear s = .next t ∧ t = { s with fab := { s.fab with qsample := t.fab.qsample, egressMax := [] } } ∧
      ∀ i, (getD t.fab.qsample i {}).maxDelay = 0 ∧ (getD t.fab.qsample i {}).maxDepth = 0 ∧
        (getD t.fab.qsample i {}).delay = (getD s.fab.qsample i {}).delay ∧ (getD t.fab.qsample i {}).depth = (getD s.fab.qsample i {}).depth)) ∧
  (∀ (v : BitVec 64) (s : State), s.pwr.ready = true → s.host.flr.contains 0 = false → s.host.bootState.toNat < 2 →
    ∃ t, exec (.telHdrCfgWrite 0 v) s = .next t ∧ t.reg 0x09000000 = BitVec.ofNat 64 (fld v 38 0) ∧ (∀ o, o ≠ 0x09000000 → t.reg o = s.reg o) ∧
      t = { s with csr := t.csr, fab := t.fab } ∧
      ((bit v 37 = true ∧ bit (s.reg 0x09000000) 37 = false) ∨ (bit v 38 = true ∧ bit (s.reg 0x09000000) 38 = false) →
        t.fab.telProd = 0 ∧ t.fab.telDropped = 0) ∧
      (bit v 37 = true → bit (s.reg 0x09000000) 37 = false → ∀ f, f < 33 → (t.port f).lfsrIn = BitVec.ofNat 16 (f + 1)))) ∧
  (∀ s : State,
    (s.timSource = 3 → s.pwr.stepped = false → ∃ t, exec .time1ppsEdge s = .next t ∧ t.hall = s.reg 0x19000008 ∧ t.pwr.stepped = true ∧ t.pwr.timState = 1 ∧
      t = { s with hall := t.hall, pwr := t.pwr }) ∧
    (s.timSource = 3 → s.pwr.stepped = true → ∃ t, exec .time1ppsEdge s = .next t ∧ t.hall = s.hall ∧ t.pwr.slew = (s.reg 0x19000008 - s.hall).toInt ∧
      t = { s with pwr := t.pwr }) ∧
    (s.timSource ≠ 3 → exec .time1ppsEdge s = .next s) ∧
    (s.timSource ≠ 0 → exec .timeSourceLost s = .next { s with pwr := { s.pwr with timState := 3, slew := 0 } }) ∧
    (s.timSource = 0 → exec .timeSourceLost s = .next s) ∧
    (bit (s.reg 0x19000000) 0 = true → s.hall.toNat % 1000000000 = 0 → s.pwr.ppsAt = none →
      exec .ppsOutEdge s = .next { s with pwr := { s.pwr with ppsAt := some s.clk }, out := s.out ++ [.pin "TIME_1PPS_OUT" true] }) ∧
    ((bit (s.reg 0x19000000) 0 = false ∨ s.hall.toNat % 1000000000 ≠ 0 ∨ s.pwr.ppsAt.isSome = true) → exec .ppsOutEdge s = .next s))
/-- R319 to R322: a device that starts a sweep is its root and probes every neighbour; a SWEEP of a newer number, not before the device's first port was up, makes the device a child that probes all but its
parent; any other leaves its sweep as it was. Answers, reports, keep-alives and ends of children are noted; probes that time out and children that are lost leave the sweep; a PARTIAL root starts the next number. -/
def Obligations.SweepRules : Prop :=
  (∀ s : State,
    (∃ t, exec .sweepStart s = .next t ∧ t = { s with fab := t.fab } ∧
      t.fab.sweep.number = some (BitVec.ofNat 32 (fld (s.reg 0x0D000040) 63 32)) ∧ t.fab.sweep.root = true ∧ t.fab.sweep.parent = none ∧
      t.fab.sweep.start = s.hall ∧ t.fab.sweep.probes.map (·.1) = s.probeList none ∧ t.fab.sweep.children = [] ∧ t.fab.sweep.followups = 0 ∧
      t.fab.sweep.running = !(s.probeList none).isEmpty ∧ t.fab.sweep.state = (if (s.probeList none).isEmpty then 2 else 1)) ∧
    (∀ n, s.fab.sweep.parent = some n → s.fab.sweep.running = true → s.fab.sweep.root = false → 50000 ≤ s.clk - s.fab.sweep.aliveAt →
      ∃ t, exec .sweepAliveTimer s = .next t ∧ t = { s with fab := t.fab } ∧ t.fab.sweep = { s.fab.sweep with aliveAt := s.clk }) ∧
    ((s.fab.sweep.running = false ∨ s.clk - s.fab.sweep.aliveAt < 50000) → exec .sweepAliveTimer s = .next s) ∧
    (∀ a n, s.fab.sweep.partialAt = some a → s.fab.sweep.number = some n → s.fab.sweep.root = true → s.fab.sweep.running = false →
      s.fab.sweep.followups < fld (s.reg 0x0D000008) 17 16 →
      ∃ t, exec .sweepFollowup s = .next t ∧ t = { s with fab := t.fab } ∧ t.fab.sweep.number = some (n + 1) ∧ t.fab.sweep.root = true ∧
        t.fab.sweep.followups = s.fab.sweep.followups + 1 ∧ t.fab.sweep.start = s.hall) ∧
    ((s.fab.sweep.partialAt = none ∨ fld (s.reg 0x0D000008) 17 16 ≤ s.fab.sweep.followups) → exec .sweepFollowup s = .next s)) ∧
  (∀ (port : PortIx) (s : State),
    (s.fab.sweep.running = false → exec (.sweepProbeTimeout port) s = .next s ∧ exec (.sweepChildLost port) s = .next s) ∧
    (s.fab.sweep.running = true →
      (∃ t, exec (.sweepProbeTimeout port) s = .next t ∧ t = { s with fab := t.fab } ∧ t.fab.sweep.children = s.fab.sweep.children ∧
        t.fab.sweep.probes = s.fab.sweep.probes.filter fun p => !(p.1.1 == port.val && decide (20000 ≤ s.clk - p.2))) ∧
      (∃ t, exec (.sweepChildLost port) s = .next t ∧ t = { s with fab := t.fab } ∧ t.fab.sweep.probes = s.fab.sweep.probes ∧
        t.fab.sweep.children = s.fab.sweep.children.filter (fun c => !(c.1.1 == port.val && childLost s c)) ∧
        t.fab.sweep.incomplete = (s.fab.sweep.incomplete || s.fab.sweep.children.any fun c => c.1.1 == port.val && childLost s c)))) ∧
  (∀ (port : PortIx) (k : Packet) (s : State),
    let n : Neighbour := (port, k.src)
    let w := s.fab.sweep
    (s.Takes 0x40 0 k →
      (((∃ m, w.number = some m ∧ k.f 32 4 ≤ m.toNat) ∨ s.fab.firstUp = none ∨ (∃ u, s.fab.firstUp = some u ∧ k.f 40 8 < u.toNat)) →
        ∃ t, exec (.sweep port k) s = .next t ∧ t = { s with fab := t.fab } ∧ t.fab.sweep = w) ∧
      (∀ u, s.fab.firstUp = some u → u.toNat ≤ k.f 40 8 → (∀ m, w.number = some m → m.toNat < k.f 32 4) →
        ∃ t, exec (.sweep port k) s = .next t ∧ t = { s with fab := t.fab } ∧ t.fab.sweep.number = some (BitVec.ofNat 32 (k.f 32 4)) ∧ t.fab.sweep.root = false ∧
          t.fab.sweep.parent = some n ∧ t.fab.sweep.start = BitVec.ofNat 64 (k.f 40 8) ∧ t.fab.sweep.probes.map (·.1) = s.probeList (some n) ∧
          t.fab.sweep.children = [] ∧ t.fab.sweep.running = !(s.probeList (some n)).isEmpty)) ∧
    (s.Takes 0x41 0 k → s.inSweep k = true → w.probes.any (fun p => p.1 == n) = true →
      ∃ t, exec (.sweepAck port k) s = .next t ∧ t = { s with fab := t.fab } ∧ t.fab.sweep.probes = w.probes.filter (fun p => p.1 != n) ∧
        t.fab.sweep.children = (if k.f 36 1 = 0 then w.children ++ [(n, s.clk, false)] else w.children) ∧
        t.fab.sweep.late = (if k.f 36 1 = 2 then w.late + 1 else w.late)) ∧
    (s.Takes 0x44 0 k → s.inSweep k = true →
      (w.root = true → s.partOfFn 0 = none → ∃ t, exec (.sweepReport port k) s = .next t ∧ t.fab.sweep.overflow = true ∧ s.SameMemory t) ∧
      (w.root = true → ∀ p, s.partOfFn 0 = some p → w.ringAt < ringSize (s.reg 0x0D000050) →
        s.writeFault p true (fld (s.reg 0x0D000050) 63 12 * 4096 + 32 * w.ringAt) 32 = none →
        ∃ t, exec (.sweepReport port k) s = .next t ∧ t.fab.sweep.ringAt = w.ringAt + 1 ∧ t.fab.sweep.overflow = w.overflow) ∧
      (w.root = false → ∃ t, exec (.sweepReport port k) s = .next t ∧ t = { s with fab := t.fab } ∧
        t.fab.sweep.children = w.children.map fun c => if c.1 = n then (c.1, s.clk, c.2.2) else c)) ∧
    (s.Takes 0x45 0 k → s.inSweep k = true →
      ∃ t, exec (.sweepAlive port k) s = .next t ∧ t = { s with fab := t.fab } ∧
        t.fab.sweep.children = w.children.map fun c => if c.1 = n then (c.1, s.clk, c.2.2) else c) ∧
    (s.Takes 0x46 0 k → s.inSweep k = true → w.children.any (fun c => c.1 == n && !c.2.2) = true →
      ∃ t, exec (.sweepDone port k) s = .next t ∧ t = { s with fab := t.fab } ∧ t.fab.sweep.devices = w.devices + k.f 36 4 % 2 ^ 17 ∧
        t.fab.sweep.children = (w.children.map fun c => if c.1 = n then (c.1, s.clk, true) else c) ∧
        t.fab.sweep.incomplete = (w.incomplete || bit k.hdr 320) ∧ t.fab.sweep.late = w.late + k.f 41 1) ∧
    (s.inSweep k = false → ∀ e ∈ [(0x41, Instr.sweepAck port k), (0x44, .sweepReport port k), (0x45, .sweepAlive port k), (0x46, .sweepDone port k)],
      s.Takes e.1 0 k → ∃ t, exec e.2 s = .next t ∧ t = { s with fab := t.fab } ∧ t.fab.sweep = w))

/-! ### Remote operations and the Clamp (chapter 14) -/

/-- R344 to R352: REM_WIN_INSTALL of a good record sets the window and REM_WIN_REMOVE clears it, other windows staying. A remote operation whose window does not admit it ends ACCESS with the byte
of the field at fault; one that is admitted, finds a tag and is not held by its flow has its first request outstanding under that tag's next incarnation, and runs on. -/
def Obligations.WindowsAndRemoteOperations : Prop :=
  ∀ (c : CmdRef) (s : State) (i : InFlight),
    let p := s.cmdPart c
    let k := i.pkt
    let h := remHandle k
    let r := s.updIn c ({ · with stage := .running })
    let n := min 4096 (remLength k)
    (s.ready c 0x0610 = some i → ∀ bs, cmdBlock c p (addr154 (op k 40 8)) 32 0x14 0 winRsv (winVals s.selfId) s = .ok bs →
      ∃ t, exec (.remWinInstall c) s = .next t ∧ t.Ended c .ok 0 0 ∧ find? t.rem.windows h = some (BitVec.ofNat 256 (ofBytes bs)) ∧
        (∀ j, j ≠ h → find? t.rem.windows j = find? s.rem.windows j) ∧ t = { s with cmd := t.cmd, tier := t.tier, rem := t.rem }) ∧
    (s.ready c 0x0611 = some i → ∃ t, exec (.remWinRemove c) s = .next t ∧ t.Ended c .ok 0 0 ∧ find? t.rem.windows h = none ∧
        (∀ j, j ≠ h → find? t.rem.windows j = find? s.rem.windows j) ∧ t = { s with cmd := t.cmd, tier := t.tier, rem := t.rem }) ∧
    (∀ e ∈ [(0x0600, Instr.remPut c), (0x0601, .remGet c), (0x0602, .remFadd c), (0x0603, .remCas c), (0x0604, .remPeg c)], s.ready c e.1 = some i →
      (∀ o, s.job c = none → windowFault (find? s.rem.windows h) k = some o →
        ∃ t, exec e.2 s = .next t ∧ t.Ended c .access 0 o ∧ t = { s with cmd := t.cmd }) ∧
      (∀ w tg data, s.rem.jobs = [] → find? s.rem.windows h = some w → windowFault (some w) k = none → 0 < remLength k →
        putData c p k 0 n r = .ok data → s.freeTag = some tg →
        let k0 := request s { cmd := c, part := p, peer := winPeer w, win := w, total := remLength k } k tg (getD s.rem.incs tg 0 + 1) 0 n data
        (admitFlow k0 s).1 = true →
        ∃ t x, exec e.2 s = .next t ∧ t.Running c ∧ find? t.rem.tags tg = some x ∧ x.cmd = c ∧ x.off = 0 ∧ x.len = n ∧ x.k = k0 ∧
          getD t.rem.incs tg 0 = getD s.rem.incs tg 0 + 1))

/-- R351 to R353, R358: a reply to no outstanding request or to an earlier incarnation is discarded and counted. One that matches frees its tag; the last of a command ends it, a get with its bytes written, an atomic
operation with the old value. R314: a request is declared lost only once its reply is late, and its peer then suspected. -/
def Obligations.RepliesSettleRequests : Prop :=
  (∀ (k : Packet) (s : State) (n : Nat), n ≠ 0 → ∀ e ∈ [(0x10, Instr.ack k), (0x11, .getData k)], s.Takes e.1 n k →
    ((∀ x, find? s.rem.tags k.tag = some x → x.k.f 44 2 ≠ k.f 34 2) →
      ∃ t, exec e.2 s = .next t ∧ t.rem = { s.rem with stale := satAdd s.rem.stale 1 } ∧ t.cmd = s.cmd ∧ s.SameMemory t) ∧
    (∀ x, find? s.rem.tags k.tag = some x → x.k.f 44 2 = k.f 34 2 →
      (∃ t, exec e.2 s = .next t ∧ find? t.rem.tags k.tag = none) ∧
      (∀ j i, s.rem.tags = [(k.tag, x)] → s.rem.jobs = [j] → j.cmd = x.cmd → j.total ≤ j.next → j.fail = none → x.k.ordered = false → s.inflight x.cmd = some i →
        Status.ofCode (k.f 32 1) = .ok →
        (x.k.ty ≠ 2 → opcode i.pkt ≠ 0x0600 → opcode i.pkt ≠ 0x0601 → ∃ t, exec e.2 s = .next t ∧ t.Ended x.cmd .ok (k.f 40 8) 0 ∧ s.SameMemory t) ∧
        (x.k.ty ≠ 2 → opcode i.pkt = 0x0600 → ∃ t, exec e.2 s = .next t ∧ t.Ended x.cmd .ok (j.good + x.len) 0 ∧ s.SameMemory t) ∧
        (x.k.ty = 2 → opcode i.pkt = 0x0601 → k.payload.length = x.len → ∀ u m,
          let v := noteTorn x.cmd (bit (BitVec.ofNat 32 (k.f 36 4)) 31) (takeIn k s)
          let a := addr347 (op i.pkt 48 8)
          cmdWrite x.cmd (s.cmdPart x.cmd) ⟨a.tiered, a.a + x.off⟩ k.payload v = (u, m, none) →
          ∃ t, exec e.2 s = .next t ∧ t.Ended x.cmd .ok (j.good + x.len) 0 ∧ u.SameMemory t)))) ∧
  (∀ (tag : BitVec 16) (s : State),
    (find? s.rem.tags tag.toNat = none → exec (.e2eTimeout tag) s = .next s) ∧
    (∀ x, find? s.rem.tags tag.toNat = some x →
      (s.clk - x.at_ < fld (s.reg 0x0D000008) 9 0 * 1000 → exec (.e2eTimeout tag) s = .next s) ∧
      (fld (s.reg 0x0D000008) 9 0 * 1000 ≤ s.clk - x.at_ → x.k.ordered = false →
        ∃ t y, exec (.e2eTimeout tag) s = .next t ∧ find? t.rem.tags tag.toNat = some y ∧ y.at_ = s.clk ∧ y.cmd = x.cmd ∧ y.off = x.off ∧ y.len = x.len ∧
          BitVec.ofNat 20 x.k.dest ∈ t.flt.reported) ∧
      (fld (s.reg 0x0D000008) 9 0 * 1000 ≤ s.clk - x.at_ → x.k.ordered = true →
        ∃ t, exec (.e2eTimeout tag) s = .next t ∧ (find? t.rem.tags tag.toNat).isSome = true ∧ BitVec.ofNat 20 x.k.dest ∈ t.flt.reported)))

/-- R354 to R357: what the target does with a PUT, GET, CAS or PEG that it takes. One that must wait is kept and does nothing yet. A request on memory of which a
granule lies beyond the tiers or on a plank that is not in HBM fails check 5 and is answered ACCESS 0xE1. Of those that go on, a fresh one acts and is recorded; a repeat is counted and answered from its record with no effect; an older one is discarded; a GET answers
the bytes it reads.
R361 to R366: fetch-adds. One that meets an idle word adds at once and answers the old value; one that meets a word at work waits in the open group; the end of an update applies the next closed group as one, its sum added
and no addend lost; a word takes one update in 8 ns; a group closes when it is clamp_window old; a batch that is too old leaves; an MGET is one read. -/
def Obligations.TargetRules : Prop :=
  (∀ (k : Packet) (s : State) (p : Nat), s.partOfKey k.key = some p →
    (∀ e ∈ [(0x01, Instr.put k), (0x02, .get k), (0x03, .fadd k), (0x04, .cas k), (0x05, .peg k)], s.TakesRequest e.1 k →
      s.isWaiting k = false → (closeFor p k (takeIn k s)).reqWaits p k = true →
      ∃ t, exec e.2 s = .next t ∧ (s.portOf k, k) ∈ t.rem.waiting ∧ s.SameMemory t ∧ t.cmd = s.cmd ∧ t.rem.served = s.rem.served) ∧
    (∀ b, (∃ g ∈ granules (target k).a (reqLen k), ∃ e, s.place p (target k).tiered g = .error e) → checkTarget s k b = .error (accessErr 0xE1)) ∧
    (∀ e ∈ [(0x01, false, Instr.put k), (0x02, false, .get k), (0x03, true, .fadd k), (0x04, true, .cas k)], s.TakesRequest e.1 k → s.GoesOn p k →
      ∀ x, checkTarget s k e.2.1 = .error x → exec e.2.2 s = .next (replyTo k x 0 [] (s.opened p k)))) ∧
  (∀ (k : Packet) (s : State) (p : Nat), s.GoesOn p k →
    let v := s.opened p k
    let a := target k
    let at_ := servedAt k.src k.tag
    (s.TakesRequest 0x01 k → checkTarget s k false = .ok p → newer (reqInc k) (getD s.rem.served at_ {}).inc = true → ∀ u n,
      v.writeFor p a.tiered a.a k.payload (some (BitVec.ofNat 20 k.src)) = (u, n, none) →
      ∃ t, exec (.put k) s = .next t ∧ u.SameMemory t ∧ find? t.rem.served at_ = some ⟨reqInc k, .ok, 0, 0⟩) ∧
    (∀ e ∈ [(0x01, false, Instr.put k), (0x04, true, .cas k)], s.TakesRequest e.1 k → checkTarget s k e.2.1 = .ok p →
      (reqInc k = (getD s.rem.served at_ {}).inc →
        ∃ t, exec e.2.2 s = .next t ∧ s.SameMemory t ∧ t.rem.served = s.rem.served ∧ t.rem.repeats = satAdd s.rem.repeats 1 ∧ t.cmd = s.cmd) ∧
      (reqInc k ≠ (getD s.rem.served at_ {}).inc → newer (reqInc k) (getD s.rem.served at_ {}).inc = false →
        ∃ t, exec e.2.2 s = .next t ∧ s.SameMemory t ∧ t.rem = { v.rem with stale := satAdd s.rem.stale 1 } ∧ t.cmd = s.cmd)) ∧
    (s.TakesRequest 0x02 k → checkTarget s k false = .ok p → ∀ bs w, clampRead p k v = (.ok bs, w) →
      exec (.get k) s = .next (replyTo k (readErr p k w) 0 bs w)) ∧
    (s.TakesRequest 0x04 k → checkTarget s k true = .ok p → newer (reqInc k) (getD s.rem.served at_ {}).inc = true →
      let ph := s.wordAt p a
      s.readFault p false (bit (BitVec.ofNat 8 (k.f 48 1)) 0) a.a = none → s.tornDet p a.a = 0 →
      ∃ t, exec (.cas k) s = .next t ∧ find? t.rem.served at_ = some ⟨reqInc k, .ok, 0, s.word ph⟩ ∧
        t.word ph = (if s.word ph = BitVec.ofNat 64 (k.f 56 8) then BitVec.ofNat 64 (le k.payload 0 8) else s.word ph) ∧
        (∃ x, find? t.rem.words ph = some x ∧ x.started = s.clk) ∧
        (∀ x, (x < ph ∨ ph + 8 ≤ x) → memGet t.loft x = memGet s.loft x) ∧ t.hbm = s.hbm ∧ t.bench = s.bench ∧ t.flash = s.flash) ∧
    (s.TakesRequest 0x05 k → s.partOfKey k.key = some p → s.inRange p 1 (k.f 52 2 % 2 ^ 14) = true → newer (reqInc k) (getD s.rem.served at_ {}).inc = true →
      let j := k.f 52 2 % 2 ^ 14
      let x := BitVec.ofNat 64 (k.f 56 8 % 2 ^ 48)
      ∃ t, exec (.peg k) s = .next t ∧ (s.PegFresh j → t.pegVal j = if k.f 56 8 / 2 ^ 48 = 0 then s.pegVal j + x else x) ∧ (∀ q, q ≠ j → t.pegVal q = s.pegVal q) ∧
        find? t.rem.served at_ = some ⟨reqInc k, .ok, 0, 0⟩ ∧ s.SameMemory t)) ∧
  ((∀ (k : Packet) (s : State) (p : Nat), s.GoesOn p k →
    let v := s.opened p k
    let ph := s.wordAt p (target k)
    let m := memberOf k p
    (s.TakesRequest 0x03 k → checkTarget s k true = .ok p → k.f 49 1 = 0 → newer (reqInc k) (getD s.rem.served (servedAt k.src k.tag) {}).inc = true → s.heldMember m = false →
      (find? s.rem.words ph = none → v.readFault p false m.accept m.addr = none → s.tornDet p m.addr = 0 →
        ∃ t, exec (.fadd k) s = .next t ∧ t.word ph = s.word ph + BitVec.ofNat 64 (k.f 56 8) ∧ (find? t.rem.words ph).isSome = true ∧
          find? t.rem.served (servedAt k.src k.tag) = some ⟨reqInc k, .ok, 0, s.word ph⟩ ∧
          (∀ x, (x < ph ∨ ph + 8 ≤ x) → memGet t.loft x = memGet s.loft x) ∧ t.hbm = s.hbm ∧ t.bench = s.bench ∧ t.flash = s.flash) ∧
      (∀ x t0 ms, find? s.rem.words ph = some x → bit s.remCfg 1 = true → x.open_ = some (t0, ms) → ms.length < 63 → s.clk - t0 < s.clampWindow →
        let b := ms.head?.bind (·.buf)
        exec (.fadd k) s = .next (updWord ph (fun _ => { x with open_ := some (t0, ms ++ [{ m with buf := b }]) }) (retainBuf b v)) ∧
        (b = none → s.SameMemory v ∧ v.rem.served = s.rem.served ∧ v.cmd = s.cmd))) ∧
    (s.TakesRequest 0x06 k → portClass (s.portOf k) = 1 → checkTarget s k false = .ok p → ∀ bs w, clampRead p k v = (.ok bs, w) →
      exec (.mget k) s = .next (answerMget (s.portOf k) k (readErr p k w) bs w)) ∧
    (s.TakesRequest 0x07 k → portClass (s.portOf k) = 1 → checkTarget s k true = .ok p → k.f 49 1 = 1 → find? s.rem.words ph = none →
      let x := (membersOf k 16).headD (0, 0, 0, 0)
      newer x.2.2.1 (getD s.rem.served (servedAt x.1 x.2.1) {}).inc = true → s.heldMember { m with src := x.1, tag := x.2.1, inc := x.2.2.1 } = false →
      v.readFault p false m.accept m.addr = none → s.tornDet p m.addr = 0 →
      ∃ t, exec (.mfadd k) s = .next t ∧ t.word ph = s.word ph + x.2.2.2 ∧ t.rem.nextComb = s.rem.nextComb + 1 ∧ find? t.rem.combs s.rem.nextComb = none ∧
        find? t.rem.served (servedAt x.1 x.2.1) = some ⟨x.2.2.1, .ok, 0, s.word ph⟩)) ∧
  (∀ (addr : BitVec 64) (s : State),
    let ph := addr.toNat / 8 * 8
    (find? s.rem.words ph = none → exec (.atomicUpdateDone addr) s = .next s ∧ exec (.clampWindowExpiry addr) s = .next s) ∧
    (∀ x, find? s.rem.words ph = some x →
      (s.clk - x.started < 8 → exec (.atomicUpdateDone addr) s = .next s) ∧
      (8 ≤ s.clk - x.started → (closeGroup x).closed = [] → exec (.atomicUpdateDone addr) s = .next (s.onRem fun r => { r with words := del r.words ph })) ∧
      (8 ≤ s.clk - x.started → ∀ st ms rest, (closeGroup x).closed = (st, ms) :: rest →
        (∀ m ∈ ms, s.readFault m.part false m.accept m.addr = none) → (∀ m ∈ ms, m.comb = none) →
        ∃ u, exec (.atomicUpdateDone addr) s = .next ((ms.filterMap (·.buf)).foldl (fun s h => engineRelease 3 h s) u) ∧
          u.word ph = s.word ph + (ms.map (·.addend)).sum ∧ find? u.rem.words ph = some { started := s.clk, closed := rest, open_ := none } ∧
          (∀ y, (y < ph ∨ ph + 8 ≤ y) → memGet u.loft y = memGet s.loft y)) ∧
      (∀ t0 ms, x.open_ = some (t0, ms) →
        (s.clk - t0 < s.clampWindow → exec (.clampWindowExpiry addr) s = .next s) ∧
        (s.clampWindow ≤ s.clk - t0 → ∃ t, exec (.clampWindowExpiry addr) s = .next t ∧ find? t.rem.words ph = some (closeGroup x) ∧
          (∀ q, q ≠ ph → find? t.rem.words q = find? s.rem.words q) ∧ t = { s with rem := t.rem })) ∧
      (x.open_ = none → exec (.clampWindowExpiry addr) s = .next s)) ∧
    (∃ t, exec (.batchTimeout addr) s = .next t ∧
      (∀ b, b ∈ t.rem.batches ↔ b ∈ s.rem.batches ∧ ¬ (b.word = ph ∧ fld s.remCfg 35 20 * 1000 ≤ s.clk - b.first)) ∧
      ((∀ b ∈ s.rem.batches, ¬ (b.word = ph ∧ fld s.remCfg 35 20 * 1000 ≤ s.clk - b.first)) → t = s))))
/-! ### Memory tiers: copies, planks, bays, the scrubber (chapter 15) -/

/-- R378: a COPY whose source is not host memory runs at once and ends with the outcome of its granules in order; one with a host source sends one read
request of the host function and goes on running. -/
def Obligations.CopyRuns : Prop :=
  ∀ (c : CmdRef) (s : State) (i : InFlight), s.ready c 0x0200 = some i →
    (∀ a, addr378 (op i.pkt 32 8) = .host a → ∃ t, exec (.copy c) s = .next t ∧ t.Running c ∧
      t.out = s.out ++ [.hostRead s.cmd.nextRead (s.cmdFn c) a (op i.pkt 48 4)] ∧
      find? t.cmd.reads s.cmd.nextRead = some { fn := s.cmdFn c, for_ := .copy c.q c.slot, n := op i.pkt 48 4 } ∧ s.SameMemory t) ∧
    ((∀ a, addr378 (op i.pkt 32 8) ≠ .host a) →
      let d := copyLoop c (s.cmdPart c) (op i.pkt 52 1 % 4) (addr378 (op i.pkt 32 8)) (addr378 (op i.pkt 40 8)) (op i.pkt 48 4 / 64) 0 s
      ∃ t, exec (.copy c) s = .next t ∧ t.Ended c d.st d.result d.det ∧ t.loft = d.s.loft ∧ t.bench = d.s.bench ∧ t.flash = s.flash)

/-- R378: a plain COPY between Loft addresses that do not overlap, with every granule readable and every destination granule in the Loft space, copies every byte,
returns the byte count, and leaves every other byte of the Loft, and all of HBM, the benches and flash. -/
def Obligations.CopyLoftToLoftCopiesEveryByte : Prop :=
  ∀ (c : CmdRef) (s : State) (i : InFlight) (src dst n : Nat), s.ready c 0x0200 = some i →
    addr378 (op i.pkt 32 8) = .loft src → addr378 (op i.pkt 40 8) = .loft dst → op i.pkt 52 1 % 4 = 0 →
    op i.pkt 48 4 = 64 * n → src % 64 = 0 → dst % 64 = 0 → (src + 64 * n ≤ dst ∨ dst + 64 * n ≤ src) →
    (∀ g, g < n → s.readFault (s.cmdPart c) false (flagTorn i.pkt) (src + 64 * g) = none) →
    (∀ g, g < n → ∃ ph, s.loftPlace (s.cmdPart c) (dst + 64 * g) = .ok ph) → i.gone = [] →
    ∃ t, exec (.copy c) s = .next t ∧ t.Ended c .ok (64 * n) 0 ∧
      (∀ j, j < 64 * n → t.byteAt (s.cmdPart c) false (dst + j) = s.byteAt (s.cmdPart c) false (src + j)) ∧
      (∀ ph, (∀ j, j < 64 * n → s.loftPlace (s.cmdPart c) (dst + j) ≠ .ok ph) → memGet t.loft ph = memGet s.loft ph) ∧
      t.hbm = s.hbm ∧ t.bench = s.bench ∧ t.flash = s.flash ∧ t.csr = s.csr

/-- R374, R376, R383: PLANK_ALLOC gives every NONE plank of its range a frame of its own, zero-filled, or none of them: over the quota it ends QUOTA with
detail 1; without free frames it ends NO_PLANK with NO_WAIT and otherwise waits.
R377, R380, R393: PLANK_FREE clears the planks of its range and returns how many were allocated; PLANK_STAT ends with the outcome of writing the entries one after another;
PLANK_DIGEST returns and stores the CRC-64/NVME of the plank; CKPT_SET sets the bit and counts the planks it changed. -/
def Obligations.PlankRules : Prop :=
  (∀ (c : CmdRef) (s : State) (i : InFlight) (r : List Nat), s.ready c 0x0201 = some i → rangeOf i.pkt (s.cmdPart c) s = .ok r →
    let p := s.cmdPart c
    let new := r.filter fun j => (s.plank p j).tier == .none
    (s.hbmLimit p < s.hbmUsed p + new.length →
      ∃ t, exec (.plankAlloc c) s = .next t ∧ t.Ended c .quota 0 1 ∧ t.tier = s.tier ∧ s.SameMemory t) ∧
    (s.hbmUsed p + new.length ≤ s.hbmLimit p → ∀ u, allocPlanks p (bit i.pkt (8 * 40)) new s = some u →
      ∃ t, exec (.plankAlloc c) s = .next t ∧ t.Ended c .ok new.length 0 ∧
        (∀ j ∈ new, (t.plank p j).tier = .hbm ∧ (t.plank p j).pinned = bit i.pkt (8 * 40) ∧
          ∀ o, o < 65536 → memGet t.hbm ((t.plank p j).frame * 65536 + o) = 0) ∧
        (∀ k, (∀ j ∈ new, k ≠ plankKey p j) → (getD t.tier.planks k {}).tier = (getD s.tier.planks k {}).tier ∧
          (getD t.tier.planks k {}).frame = (getD s.tier.planks k {}).frame) ∧
        t.loft = s.loft ∧ t.bench = s.bench ∧ t.flash = s.flash) ∧
    (s.hbmUsed p + new.length ≤ s.hbmLimit p → allocPlanks p (bit i.pkt (8 * 40)) new s = none →
      (flagNoWait i.pkt = true → ∃ t, exec (.plankAlloc c) s = .next t ∧ t.Ended c .noPlank 0 0 ∧ t.tier = s.tier) ∧
      (flagNoWait i.pkt = false → exec (.plankAlloc c) s = .next s))) ∧
  (∀ (c : CmdRef) (s : State) (i : InFlight) (r : List Nat) (o : Nat), s.ready c o = some i → rangeOf i.pkt (s.cmdPart c) s = .ok r →
    let p := s.cmdPart c
    (o = 0x0202 → ∃ t, exec (.plankFree c) s = .next t ∧ t.Ended c .ok (r.filter fun j => (s.plank p j).tier != .none).length 0 ∧
      (∀ j ∈ r, (t.plank p j).tier = .none) ∧ s.SameMemory t) ∧
    (o = 0x0204 →
      let d := statLoop c p (addr378 (op i.pkt 40 8)) r 0 s
      ∃ t, exec (.plankStat c) s = .next t ∧ t.Ended c d.st d.result d.det) ∧
    (o = 0x0205 → ∀ bs, s.read p true (op i.pkt 32 4 % 2 ^ 26 * 65536) 65536 (flagTorn i.pkt) = .ok bs →
      ∃ t, exec (.plankDigest c) s = .next t ∧ t.Ended c .ok (crc64 bs) 0 ∧
        (t.plank p (op i.pkt 32 4 % 2 ^ 26)).digest = BitVec.ofNat 64 (crc64 bs) ∧
        (t.plank p (op i.pkt 32 4 % 2 ^ 26)).digestValid = true ∧ s.SameMemory t) ∧
    (o = 0x0803 → ∃ t, exec (.ckptSet c) s = .next t ∧
      t.Ended c .ok (r.filter fun j => (s.plank p j).ckpt != bit i.pkt (8 * 40)).length 0 ∧
      (∀ j ∈ r, (t.plank p j).ckpt = bit i.pkt (8 * 40)) ∧
      (∀ j ∈ r, (s.plank p j).ckpt = false → bit i.pkt (8 * 40) = true → (t.plank p j).cdirty = 3) ∧ s.SameMemory t))
/-- R376, R379: a TIER_MOVE within its quotas acts on the planks of its range that its operation fits, in order. It ends with the count of planks changed when no flash
operation of its is outstanding, and runs on otherwise. DROP_COPY leaves every BOTH plank of the range HBM and clean.
R379, R382: the flash write of a MOVING plank completes: read under the partition's tier key, flash gives the plank's bytes, and its entry becomes FLASH, or BOTH;
a demotion of a plank written meanwhile is cancelled and counted. R394: with the second copy of the record written, the commit's record is current. PLANK_FLASH_WRITE_DONE and the SSD's completion do the same.
R384: a removed SSD is REMOVED, no operation of its stays outstanding, and a failed operation is counted on its SSD.
R381: the scrubber visits one plank every scrub_ns: it stores a digest where none is valid, and where the stored one differs it marks the plank torn and
counts the mismatch; scrub_ns 0 stops it. -/
def Obligations.FlashAndScrubRules : Prop :=
  (∀ (c : CmdRef) (s : State) (i : InFlight) (r : List Nat), s.ready c 0x0203 = some i → rangeOf i.pkt (s.cmdPart c) s = .ok r →
    let p := s.cmdPart c
    let o := op i.pkt 40 1 % 4
    let fit := r.filter fun j => moveFits o (s.plank p j)
    ((o = 0 ∨ o = 2) → s.flashUsed p + (fit.filter fun j => (s.plank p j).tier == .hbm).length ≤ s.flashLimit p) →
    (o = 1 → s.hbmUsed p + fit.length ≤ s.hbmLimit p) →
    (∀ u n, moveAll c p o fit 0 (s.updIn c ({ · with stage := .running })) = .ok (u, n) →
      ∃ t, exec (.tierMove c) s = .next t ∧ (u.nvmeOpen c = true → t.Running c) ∧ (u.nvmeOpen c = false → t.Ended c .ok n 0)) ∧
    (o = 3 → s.nvmeOpen c = false → ∃ t, exec (.tierMove c) s = .next t ∧ t.Ended c .ok fit.length 0 ∧
      (∀ j ∈ fit, (t.plank p j).tier = .hbm ∧ (t.plank p j).dirty = false) ∧ s.SameMemory t)) ∧
  (∀ (p : Part) (plank : BitVec 26) (s : State) (tag : Nat) (o : NvmeOp) (before : Tier) (demote : Bool),
    pick (fun (e : Nat × NvmeOp) => e.2.sent && e.2.for_ == .save (plankKey p plank.toNat)) s.tier.nvme = some (tag, o) → find? s.tier.nvme tag = some o →
    o.sent = true →
    (s.plank p plank.toNat).tier = .moving → (s.plank p plank.toNat).move = some (before, demote) →
    (∀ e ∈ s.tier.steps, e.2.cmd ≠ o.cmd) →
    let e := s.plank p plank.toNat
    ∃ t, exec (.plankFlashWriteDone p plank) s = .next t ∧ exec (.ssdCompletion tag true) s = .next t ∧
      (t.plank p plank.toNat).tier = (if demote && !e.dirty then .flash else .both) ∧
      (t.plank p plank.toNat).dirty = e.dirty ∧
      t.flashGet (s.tierSeal p plank.toNat) e.ssd e.lba 16 = memRead s.hbm (e.frame * 65536) 65536 ∧
      (∀ a, ¬ (flashAt e.ssd e.lba 0 ≤ a ∧ a < flashAt e.ssd e.lba 65536) → memGet t.flash a = memGet s.flash a) ∧
      (demote = true → e.dirty = true → t.tier.cancelledDemotes = satAdd s.tier.cancelledDemotes 1) ∧
      t.hbm = s.hbm ∧ t.loft = s.loft ∧ t.bench = s.bench ∧ find? t.tier.nvme tag = none) ∧
  ((∀ (ssd : Fin 8) (s : State), ∃ t, exec (.ssdRemoval ssd) s = .next t ∧ (getD t.tier.ssds ssd {}).st = .removed) ∧
  (∀ (tag : Nat) (o : NvmeOp) (s : State), find? s.tier.nvme tag = some o → o.sent = true →
    (∃ t, exec (.ssdCompletion tag false) s = .next t ∧ find? t.tier.nvme tag = none ∧
      (getD t.tier.ssds o.ssd {}).errors = satAdd (getD s.tier.ssds o.ssd {}).errors 1 ∧
      (∀ i, s.inflight o.cmd = some i → i.stage = .running → t.Ended o.cmd .integrity i.acc (intDetail 7 8 o.ssd))) ∧
    (∀ p, o.for_ = .ledger p 4 → ∃ t, exec (.ssdCompletion tag true) s = .next t ∧
      (t.ledger p).sequence = (s.ledger p).sequence + 1 ∧ (t.ledger p).slot = 1 - (s.ledger p).slot ∧ (t.ledger p).committing = false ∧
      ((s.ledger p).record.length = 4096 → t.recordCopy (s.ledger p) (s.ledger p).rec1 = (s.ledger p).record) ∧
      (∀ i, s.inflight o.cmd = some i → t.Ended o.cmd .ok ((s.ledger p).sequence + 1) 0)))) ∧
  (∀ (s : State),
    (fld s.scrubCfg 31 0 = 0 → exec .scrubVisit s = .next s) ∧
    (fld s.scrubCfg 31 0 ≠ 0 → fld s.scrubCfg 31 0 ≤ s.clk - s.tier.scrubTime → ∀ k e, s.scrubNext = some (k, e) →
      (∀ g, g < 1024 → s.poisoned .hbm (e.frame * 65536 + 64 * g) = none) → getD s.tier.planks k {} = e →
      let d := BitVec.ofNat 64 (crc64 (memRead s.hbm (e.frame * 65536) 65536))
      ∃ t, exec .scrubVisit s = .next t ∧ t.tier.scrubAt = some k ∧ t.tier.scrubTime = s.clk ∧ t.loft = s.loft ∧ t.bench = s.bench ∧ t.flash = s.flash ∧
        (e.digestValid = false → (getD t.tier.planks k {}).digest = d ∧ (getD t.tier.planks k {}).digestValid = true ∧ t.hbm = s.hbm) ∧
        (e.digestValid = true → e.digest = d → t.tier.planks = s.tier.planks ∧ t.hbm = s.hbm) ∧
        (e.digestValid = true → e.digest ≠ d → t.tier.digestMismatch = satAdd s.tier.digestMismatch 1)))
/-- R371: a write of LFT_BAY_CFG by the PF that changes owner, mode or valid within the partition's quota takes effect, zeroes the bay and sets busy; busy clears
when the reconfiguration is done. Bytes of other bays stay. While a bay of its partition is busy, no command but those of class 0x01 begins. Of a SCRATCH bay,
every granted command of the old owner has lost its part: it reads zeros there and its writes are lost. -/
def Obligations.BayRule : Prop :=
  ∀ (b : BayIx) (v : BitVec 64) (s : State), s.pwr.ready = true → s.host.flr.contains 0 = false → s.host.bootState.toNat < 2 →
    let new := setFld (BitVec.ofNat 64 (fld v 10 0)) 7 2 0
    (new ≠ s.bayCfg b → s.baysOwned (fld v 10 8) + 1 ≤ fld (s.parQuota (fld v 10 8)) 5 0 →
      ∃ t, exec (.lftBayCfgWrite 0 b v) s = .next t ∧ t.bayCfg b = new ∧ (find? t.tier.bayBusy b).isSome = true ∧
        (∀ a, b.val * 2 ^ 24 ≤ a → a < (b.val + 1) * 2 ^ 24 → memGet t.loft a = 0) ∧
        (∀ a, (a < b.val * 2 ^ 24 ∨ (b.val + 1) * 2 ^ 24 ≤ a) → memGet t.loft a = memGet s.loft a) ∧
        (∀ o, o ≠ 0x03000000 + 8 * b.val → t.reg o = s.reg o) ∧ t.hbm = s.hbm ∧ t.bench = s.bench ∧ t.flash = s.flash ∧
        (∀ (c : CmdRef) i q, s.inflight c = some i → s.partOfQueue c.q = some q → s.scratchBay q b.val = true →
          ∃ j, t.inflight c = some j ∧ indexOf b.val (s.scratchBays q) ∈ j.gone)) ∧
    (∀ (c : CmdRef) (o : Nat), s.bayWaits (s.cmdPart c) = true → o / 256 ≠ 1 → s.ready c o = none) ∧
    (∀ (c : CmdRef) (i : InFlight) (a n : Nat) (bs : List Byte), s.inflight c = some i → a / 2 ^ 24 ∈ i.gone → a % 2 ^ 24 + n ≤ 2 ^ 24 → 0 < n → bs.length = n →
      cmdRead c (s.cmdPart c) ⟨false, a⟩ n s = .ok (List.replicate n 0) ∧
      s.SameMemory (cmdWrite c (s.cmdPart c) ⟨false, a⟩ bs s).1 ∧ (cmdWrite c (s.cmdPart c) ⟨false, a⟩ bs s).2 = (n, none)) ∧
    (∃ t, exec (.bayReconfigDone b) s = .next t ∧ find? t.tier.bayBusy b = none ∧ t = { s with tier := t.tier })

/-! ### Sequences and the Ledger (chapter 15) -/

/-- R390, R392: a SEQ_JOIN with a good block enters its sequence QUEUED, with its place in the order of grants as its arrival number, and runs until it is admitted;
a SEQ_LEAVE marks its sequence.
R376, R391, R392: a SEQ_STEP on a partition without sequences ends OK with all counts zero. With sequences it adds the accepted tokens, releases what leaves, and goes
through reserves, suspensions and joins: where those phases succeed, the state is theirs. Where the suspensions would exceed the flash quota it changes nothing. -/
def Obligations.SequenceRules : Prop :=
  (∀ (c : CmdRef) (s : State) (i : InFlight),
    (s.ready c 0x0210 = some i → ∀ bs,
      s.read (s.cmdPart c) (addr154 (op i.pkt 32 8)).tiered (addr154 (op i.pkt 32 8)).a 32 (flagTorn i.pkt) = .ok bs → le bs 0 1 % 16 = 1 →
      fieldFault (ofBytes bs) [rbits 0 15 5, rbits 2 15 14, rbits 5 7 5, rb 6 2, rbits 12 31 21, rbits 16 31 26, rbits 20 31 27, rb 24 8]
        [(5, decide (le bs 5 1 % 32 > 16)), (12, le bs 12 4 % 2 ^ 21 == 0 || decide (le bs 12 4 % 2 ^ 21 > 1048576))] = none →
      s.inRange (s.cmdPart c) 12 (le bs 2 2 % 2 ^ 14) = true → (s.seq (le bs 2 2 % 2 ^ 14)).st = .gone →
      le bs 16 4 + le bs 20 4 ≤ s.mapPlanks (s.cmdPart c) →
      ∃ t, exec (.seqJoin c) s = .next t ∧ t.Running c ∧
        t.seq (le bs 2 2 % 2 ^ 14) = { lc := (le bs 0 1).testBit 4, prio := le bs 4 1, d := le bs 5 1 % 32, len := le bs 8 4,
                                       kvb := le bs 12 4 % 2 ^ 21, first := le bs 16 4, max := le bs 20 4, st := .queued, arrival := i.order, part := s.cmdPart c, join := some c } ∧
        (∀ j, j ≠ le bs 2 2 % 2 ^ 14 → t.seq j = s.seq j) ∧ s.SameMemory t) ∧
    (s.ready c 0x0211 = some i → s.inRange (s.cmdPart c) 12 (op i.pkt 32 2 % 2 ^ 14) = true →
      (s.seq (op i.pkt 32 2 % 2 ^ 14)).st ≠ .gone → (s.seq (op i.pkt 32 2 % 2 ^ 14)).leave = none →
      ∃ t, exec (.seqLeave c) s = .next t ∧ t.Running c ∧
        t.seq (op i.pkt 32 2 % 2 ^ 14) = { s.seq (op i.pkt 32 2 % 2 ^ 14) with leave := some c } ∧
        (∀ j, j ≠ op i.pkt 32 2 % 2 ^ 14 → t.seq j = s.seq j) ∧ s.SameMemory t)) ∧
  (∀ (c : CmdRef) (s : State) (i : InFlight) (bs ups : List Byte) (u v : State), s.ready c 0x0212 = some i →
    let p := s.cmdPart c
    let r := s.updIn c ({ · with stage := .running })
    s.read p (addr154 (op i.pkt 32 8)).tiered (addr154 (op i.pkt 32 8)).a 24 (flagTorn i.pkt) = .ok bs → le bs 0 1 % 16 = 1 →
    fieldFault (ofBytes bs) [rbits 0 15 4, rb 2 2, rbits 8 2 1, rbits 16 2 1] [(4, decide (le bs 4 4 > 16384))] = none →
    cmdRead c p (addr347 (le bs 8 8)) (4 * le bs 4 4) r = .ok ups →
    updateLen ups p (le bs 4 4) 0 r = .ok u →
    let w := u.onTier fun t => { t with steps := put t.steps p { cmd := c, recs := le bs 16 8 } }
    let z := (w.seqsOf p).foldl (leaveOne p) w
    let f := planSuspend p z (z.tier.seqs.length + 1) ((z.seqsOf p).filter fun e => e.2.st == .running) (z.freeHbm p)
    (z.flashLimit p < z.flashUsed p + f → ∃ t, exec (.seqStep c) s = .next t ∧ t.Ended c .quota 0 2 ∧ t.tier = s.tier ∧ s.SameMemory t) ∧
    (z.flashUsed p + f ≤ z.flashLimit p → runStep p (onStep p ({ · with held := f }) z) = .ok v → s.paramTorn p i.pkt = false → exec (.seqStep c) s = .next v) ∧
    (le bs 4 4 = 0 → s.tier.seqs = [] → s.nvmeOpen c = false → s.flashUsed p ≤ s.flashLimit p → find? s.tier.steps p = none → ∃ t, exec (.seqStep c) s = .next t ∧ t.Ended c .ok 0 0))
/-- R376, R393 to R396: LEDGER_OPEN without create, CKPT_COMMIT and CKPT_RESTORE on an open Ledger with every SSD ready send their first flash operation and run on;
at debug level 1 or 2 each ends ACCESS with detail 0xF9. CKPT_RESTORE takes a frame at once for every plank that it will restore. A record copy made under another
storage tag or Ledger id, or none, is not valid (R472). -/
def Obligations.LedgerCommandsRun : Prop :=
  ∀ (c : CmdRef) (s : State) (i : InFlight),
    let p := s.cmdPart c
    (s.sec.debugLevel ≠ 0 → ∀ e ∈ [(0x0800, Instr.ledgerOpen c), (0x0801, .ckptCommit c), (0x0802, .ckptRestore c)], s.ready c e.1 = some i →
      ∃ t, exec e.2 s = .next t ∧ t.Ended c .access 0 0xF9 ∧ t = { s with cmd := t.cmd }) ∧
    (s.ready c 0x0800 = some i → s.sec.debugLevel = 0 → ∀ bs,
      s.read p (addr154 (op i.pkt 32 8)).tiered (addr154 (op i.pkt 32 8)).a 64 (flagTorn i.pkt) = .ok bs → le bs 0 1 % 16 = 1 →
      fieldFault (ofBytes bs) [rbits 0 15 5, rb 3 5, rbits 20 7 3, rbits 20 15 11, rb 22 2, rb 40 24]
        [(2, le bs 2 1 == 0), (20, decide (s.present ≥ 2) && le bs 20 1 % 8 == le bs 21 1 % 8)] = none →
      (le bs 0 1).testBit 4 = false →
      s.deadSsd { id := BitVec.ofNat 64 (le bs 8 8), mask := le bs 2 1, cap := le bs 16 4, rec0 := (le bs 20 1 % 8, le bs 24 8), rec1 := (le bs 21 1 % 8, le bs 32 8) } = none →
      s.nvmeSent (le bs 20 1 % 8) < 64 →
      ∃ t, exec (.ledgerOpen c) s = .next t ∧ t.Running c ∧ t.out = s.out ++ [.nvme (le bs 20 1 % 8) 0 (le bs 24 8)] ∧ s.SameMemory t) ∧
    (s.ready c 0x0801 = some i → s.sec.debugLevel = 0 → (s.ledger p).isOpen = true → s.deadSsd (s.ledger p) = none → s.ckptPlanks p = [] →
      (s.ledger p).pos.length ≤ (s.ledger p).cap → s.nvmeSent ((s.ledger p).place (1 - (s.ledger p).slot) 0).1 < 64 →
      ∃ t, exec (.ckptCommit c) s = .next t ∧ t.Running c ∧
        t.out = s.out ++ [.nvme ((s.ledger p).place (1 - (s.ledger p).slot) 0).1 2 ((s.ledger p).place (1 - (s.ledger p).slot) 0).2] ∧ (t.ledger p).committing = true) ∧
    (s.ready c 0x0802 = some i → s.sec.debugLevel = 0 → (s.ledger p).isOpen = true → s.deadSsd (s.ledger p) = none →
      ∀ r, s.selectRecord (s.ledger p) = .ok r →
      let ps := (s.positions (ledgerOf (s.ledger p) r)).filter (· != 2 ^ 26)
      s.hbmUsed p + (ps.filter fun j => !((s.plank p j).tier.served || (s.plank p j).loading)).length ≤ s.hbmLimit p →
      ∀ u, reserveFrames p ps (s.updIn c ({ · with stage := .running })) = some u →
      ∃ t, exec (.ckptRestore c) s = .next t ∧ t.Running c ∧ t.ledger p = ledgerOf (s.ledger p) r ∧ t.tier.planks = u.tier.planks ∧ u.SameMemory t ∧
        ∀ j ∈ ps, ((t.plank p j).tier.served || (t.plank p j).loading) = true) ∧
    (∀ (l : Ledger) (r : Nat × Nat), find? s.tier.seals (lbaKey r.1 r.2) ≠ some l.recSeal → s.recordValid l r = false)

/-! ### Power, clocks and time (chapters 19 and 21) -/

/-- R488, R489, R492 to R499: the Brace moves its target by at most 0.03 A in a cycle, downwards while the device brakes, and its duty never passes the cap; the brake, the hotspot pin and low VIN12 are noted; CLK_ARR steps by 50 MHz between
clk_floor and the grade, apart by 5 µs down and 100 µs up; the duty cap moves only at the floor; ALERT_N follows the status bits. At the brake level the arrays hold their state. -/
def Obligations.PowerRules : Prop :=
  (∀ (g d : Nat) (s : State),
    let t := braceCycle g d s
    t = { s with pwr := { s.pwr with target := t.pwr.target, duty := t.pwr.duty, burn := t.pwr.burn } } ∧
    t.pwr.target ≤ s.pwr.target + 3 ∧ s.pwr.target ≤ t.pwr.target + 3 ∧ t.pwr.duty ≤ s.pwr.dutyCap ∧
    (s.braking = true → t.pwr.target ≤ s.pwr.target) ∧ t.pwr.burn = 64 * t.pwr.target - t.pwr.duty * g) ∧
  (∀ s : State,
    (s.pwr.rails = false → exec .braceUpdate s = .next s) ∧
    (s.pwr.rails = true → ∃ g d, g ≤ 6000 ∧ d ≤ g ∧ (s.busyWith governed = false → g = 0) ∧
      exec .braceUpdate s = .next (braceCycle g d { s with draws := s.draws + 2 })) ∧
    (∀ on, ∃ t, exec (.brakeN on) s = .next t ∧ t = { s with pwr := { s.pwr with brakeN := on, braked := t.pwr.braked } } ∧
      t.pwr.braked = (s.pwr.braked && (on || bit s.pwrCfg 0 || s.pwr.thermtrip || s.pwr.vinBrake))) ∧
    (s.braking = true → exec .brakeLevelReached s = .next { s with pwr := { s.pwr with braked := true } }) ∧
    (s.braking = false → exec .brakeLevelReached s = .next s) ∧
    (∀ on, ∃ t, exec (.hotspotN on) s = .next t ∧ t.pwr.hotspot = on ∧ t.powerLimit = (if on then fld s.pwrCfg 39 28 else fld s.pwrCfg 51 40) ∧
      t.pwr.alert = (bit s.pwrCfg 1 && (s.pwr.limited || s.pwr.vinLow || s.pwr.thermtrip || s.pwr.unmet || on)) ∧ t = { s with pwr := t.pwr, out := t.out }) ∧
    (s.clkFloor < s.clkArr → s.apart s.pwr.stepAt 5000 = true → ∃ t, exec .clockStepDown s = .next t ∧ t.clkArr = s.clkArr - 1 ∧ s.clkFloor ≤ t.clkArr ∧
      t.pwr.limited = true ∧ t.pwr.stepAt = some s.clk ∧ t = { s with pwr := t.pwr, out := t.out }) ∧
    ((s.clkArr ≤ s.clkFloor ∨ s.apart s.pwr.stepAt 5000 = false) → exec .clockStepDown s = .next s) ∧
    (0 < s.pwr.stepsBelow → s.pwr.stepsBelow ≤ gradeClk → s.pwr.dutyCap = 64 → s.apart s.pwr.stepAt 100000 = true →
      ∃ t, exec .clockStepUp s = .next t ∧ t.clkArr = s.clkArr + 1 ∧ t.clkArr ≤ gradeClk ∧ t.pwr.stepAt = some s.clk ∧ t = { s with pwr := t.pwr }) ∧
    ((s.pwr.stepsBelow = 0 ∨ s.pwr.dutyCap ≠ 64 ∨ s.apart s.pwr.stepAt 100000 = false) → exec .clockStepUp s = .next s) ∧
    (s.apart s.pwr.capAt 5000 = true →
      (∃ t, exec (.dutyCapStep true) s = .next t ∧ t.pwr.dutyCap = min 64 (s.pwr.dutyCap + 1) ∧ t.pwr.unmet = false ∧ t.pwr.capAt = some s.clk) ∧
      (s.clkArr ≤ s.clkFloor → 0 < s.pwr.dutyCap → ∃ t, exec (.dutyCapStep false) s = .next t ∧ t.pwr.dutyCap = s.pwr.dutyCap - 1 ∧ t.pwr.capAt = some s.clk) ∧
      (s.clkArr ≤ s.clkFloor → s.pwr.dutyCap = 0 → ∃ t, exec (.dutyCapStep false) s = .next t ∧ t.pwr.unmet = true) ∧
      (s.clkFloor < s.clkArr → exec (.dutyCapStep false) s = .next s)) ∧
    (s.apart s.pwr.capAt 5000 = false → ∀ up, exec (.dutyCapStep up) s = .next s) ∧
    (s.pwr.thermtrip = false → ∃ t, exec .thermtrip s = .next t ∧ t.pwr.thermtrip = true ∧ t.brakeRequest = true ∧ .pin "THERMTRIP_N" false ∈ t.out ∧
      t = { s with pwr := t.pwr, out := t.out }) ∧
    (s.pwr.thermtrip = true → exec .thermtrip s = .next s) ∧
    (∃ t, exec .vinLow s = .next t ∧ t.pwr.vinLow = true ∧ t.brakeRequest = true ∧ t = { s with pwr := t.pwr, out := t.out }) ∧
    (s.pwr.braked = true → ∀ a : ArrayIx, ∀ i ∈ [Instr.seqEnd a, .seqSet a, .seqAdd a, .bnz a, .waitpeg a, .waitpegTimeout a, .sigpeg a, .setkey a, .gather a,
      .gatherDeadline a, .fill a, .lmatmul a, .vadd a, .vst a], exec i s = .next s))

/-- R502, R507, R508: power comes and goes. VAUX starts the always-on clocks; VIN12 starts the regulators with a power-on reset; PERST# released locks the PLLs, asserted resets; firmware is ready once; brown-out stops every
regulator; a lost VAUX ends the management endpoint; a lost reference clock is noted, and one of the core's clocks destroys the keys. -/
def Obligations.PowerSequence : Prop :=
  ∀ s : State,
    (∃ t, exec .vauxUp s = .next t ∧ t = { s with pwr := { s.pwr with aux := true, locked := s.pwr.locked ||| BitVec.ofNat 25 auxClocks } }) ∧
    (s.pwr.aux = false → exec .vin12Up s = .next s) ∧
    (s.pwr.aux = true → s.pwr.rails = true → ∃ t, exec .vin12Up s = .next t ∧ t = { s with pwr := t.pwr } ∧ t.pwr.vinBrake = false) ∧
    (s.pwr.aux = true → s.pwr.rails = false → ∃ t, exec .vin12Up s = .next t ∧ s.WasReset t (if s.pwr.lastReset = 6 then 6 else 0) ∧ t.pwr.rails = true ∧
      t.pwr.thermtrip = false ∧ t.sec.resetCause = 0 ∧ t.sec.unlockFails = 0 ∧ t.sec.seedOff = false) ∧
    (s.pwr.perst = true → s.pwr.rails = true → s.pwr.aux = true →
      exec .perstRelease s = .next { s with pwr := { s.pwr with perst := false, locked := BitVec.allOnes 25 } }) ∧
    ((s.pwr.perst = false ∨ s.pwr.rails = false ∨ s.pwr.aux = false) → exec .perstRelease s = .next s) ∧
    (s.pwr.perst = false → ∃ t, exec .perstAssert s = .next t ∧ s.WasReset t 1 ∧ t.pwr.perst = true ∧ t.sec.seedOff = false ∧ t.sec.resetCause = s.sec.resetCause) ∧
    (s.pwr.perst = true → exec .perstAssert s = .next s) ∧
    (s.pwr.rails = true → ∃ t, exec .brownout s = .next t ∧ s.WasReset t 6 ∧ t.pwr.rails = false ∧ t.pwr.target = 0 ∧ t.pwr.duty = 0) ∧
    (s.pwr.rails = false → exec .brownout s = .next s) ∧
    (s.pwr.ready = true → s.pwr.fwReady = false → s.host.bootState = 0 → ∃ t, exec .fwReady s = .next t ∧ t.pwr.fwReady = true ∧ t.host.bootState = 1 ∧
      t.out = s.out ++ [.pin "RP_PERST0_N" true, .pin "RP_PERST1_N" true] ∧ t.cmd = s.cmd ∧ t.csr = s.csr ∧ s.SameMemory t) ∧
    ((s.pwr.ready = false ∨ s.pwr.fwReady = true ∨ s.host.bootState ≠ 0) → exec .fwReady s = .next s) ∧
    (s.pwr.aux = true → ∃ t, exec .vaux3p3Loss s = .next t ∧ t.pwr.aux = false ∧ t.pwr.thermtrip = false ∧ t.host.i3cAddr = none ∧ t.host.sensors = [] ∧
      t = { s with pwr := t.pwr, host := t.host, out := t.out }) ∧
    (s.pwr.aux = false → exec .vaux3p3Loss s = .next s) ∧
    (∀ k : Fin 8,
      ((4 < k.val ∨ s.pwr.rails = false) → exec (.refclkLost k) s = .next s) ∧
      (s.pwr.rails = true → k.val = 4 → ∃ t, exec (.refclkLost k) s = .next t ∧ bit t.pwr.refLost 4 = true ∧ fld t.pwr.locked 13 12 = 0 ∧ t = { s with pwr := t.pwr }) ∧
      (s.pwr.rails = true → (k.val = 2 ∨ k.val = 3) → ∃ t, exec (.refclkLost k) s = .next t ∧ s.WasReset t 3 ∧ bit t.sec.resetCause 1 = true) ∧
      (s.pwr.rails = true → k.val < 2 → ∃ t, exec (.refclkLost k) s = .next t ∧ bit t.pwr.refLost k = true ∧ t.pwr.ready = s.pwr.ready))

/-- R482, R509 to R511, R470: resets. WARM, ZEROIZE, a glitch and the watchdog reset the device with their causes, brake_sw staying; a function other than the PF's is logged. SVN_COMMIT raises the fused svn. A partition reset empties the
partition's queues and pegs and sets part_busy until it is done; an FLR disables its function's queues, waits for its host reads, and clears its configuration. -/
def Obligations.ResetRules : Prop :=
  (∀ s : State,
    (s.PfWrites → (∃ t, exec (.warm 0) s = .next t ∧ s.WasReset t 2 ∧ bit t.pwrCfg 0 = bit s.pwrCfg 0 ∧ t.host.cfgRegs = s.host.cfgRegs) ∧
      (∃ t, exec (.zeroize 0) s = .next t ∧ s.WasReset t 3 ∧ bit t.sec.resetCause 3 = true) ∧
      (∃ t, exec (.svnCommit 0) s = .next t ∧ t.sec.fusedSvn.toNat = max s.sec.fusedSvn.toNat s.sec.imageSvn.toNat ∧ t = { s with sec := { s.sec with fusedSvn := t.sec.fusedSvn } })) ∧
    (∀ fn : Fn, fn.val ≠ 0 → s.pwr.ready = true → s.host.flr.contains fn.val = false → ∀ i ∈ [Instr.warm fn, .zeroize fn, .svnCommit fn],
      ∃ t, exec i s = .next t ∧ t = { s with host := t.host } ∧ (getD t.host.errLog fn {}).valid = true) ∧
    (s.powered = true → ∃ t, exec .glitchDetect s = .next t ∧ s.WasReset t 3 ∧ (bit t.sec.resetCause 0 || bit t.sec.resetCause 1 || bit t.sec.resetCause 2) = true) ∧
    (s.powered = false → exec .glitchDetect s = .next s) ∧
    (s.powered = true → s.pwr.fwReady = true → ∃ t, exec .watchdogExpiry s = .next t ∧ s.WasReset t 5) ∧
    ((s.powered = false ∨ s.pwr.fwReady = false) → exec .watchdogExpiry s = .next s)) ∧
  (∀ (p : Part) (s : State),
    (s.pwr.ready = false → ∃ t, exec (.partReset 0 p) s = .next t ∧ t = { s with host := t.host }) ∧
    (s.PfWrites → (s.pwr.partBusy.contains p.val = true ∨ s.pwr.partPending.contains p.val = true) → exec (.partReset 0 p) s = .next s) ∧
    (s.PfWrites → s.pwr.partBusy.contains p.val = false → s.pwr.partPending.contains p.val = false → s.flrOver p = false →
      ∃ t, exec (.partReset 0 p) s = .next t ∧ t.pwr.partBusy = s.pwr.partBusy ++ [p.val] ∧ (∀ q, s.inRange p 0 q = true → t.queue q = {} ∧ t.cqOf q = {}) ∧
        (∀ j, s.inRange p 1 j = true → t.pegVal j = 0) ∧ bit t.sec.partKeys p = false ∧ t.host.cfgRegs = s.host.cfgRegs) ∧
    (s.pwr.partBusy.contains p.val = false → exec (.partitionResetDone p) s = .next s) ∧
    (s.pwr.partBusy.contains p.val = true → s.host.flrPending = [] → ∃ t, exec (.partitionResetDone p) s = .next t ∧ t = { s with pwr := t.pwr, sec := t.sec } ∧
      t.pwr.partBusy = s.pwr.partBusy.erase p.val ∧ (s.parValid p = true → bit t.sec.partKeys p = true))) ∧
  (∀ (fn : Fn) (s : State), fn.val ≠ 0 →
    (s.pwr.ready = false → ∃ t, exec (.flr fn) s = .next t ∧ t = { s with host := t.host } ∧ ∀ d, d < 4096 → find? t.host.cfgRegs (fn.val * 4096 + d) = none) ∧
    (s.pwr.ready = true → (s.host.flr.contains fn.val = true ∨ s.host.flrPending.contains fn.val = true) → exec (.flr fn) s = .next s) ∧
    (s.pwr.ready = true → s.host.flr.contains fn.val = false → s.host.flrPending.contains fn.val = false → s.partResetOf fn = true →
      ∃ t, exec (.flr fn) s = .next t ∧ t = { s with host := t.host } ∧ t.host.flrPending = s.host.flrPending ++ [fn.val]) ∧
    (s.pwr.ready = true → s.host.flr.contains fn.val = false → s.host.flrPending.contains fn.val = false → s.partResetOf fn = false →
      ∃ t, exec (.flr fn) s = .next t ∧ (∀ q, q < 1024 → s.queuesOf fn q = true → t.queue q = {} ∧ t.cqOf q = {} ∧ t.wqOn q = false) ∧
        (s.readsOf fn = true → t.host.flr = s.host.flr ++ [fn.val]) ∧
        (s.cmd.reads = [] → t.host.flr.contains fn.val = false ∧ ∀ d, d < 4096 → find? t.host.cfgRegs (fn.val * 4096 + d) = none)))

/-! ### Faults (chapter 17) -/

/-- R448 to R450: leases. A request from a member whose epoch is not older is granted with the sender's time; the device asks its partner every 20 µs; a grant extends the lease to the latest time echoed; 120 µs after that
time the device is fenced; a member silent for 200 µs is reported once.
R462, R463: reports. A kingpost opens a merge for a suspect, adds a later report to an open one, and counts a late one that is not urgent; a report on a device that a verdict has named meanwhile is dropped. After 20 µs the merge
is closed. -/
def Obligations.LeaseAndReportRules : Prop :=
  ((∀ (port : PortIx) (k : Packet) (s : State), s.Takes 0x30 0 k →
    let d := k.f 32 4 % 2 ^ 20
    let v := takeIn k s
    (d / 64 ≠ s.selfCube → exec (.leaseReq port k) s = .next v) ∧
    (d / 64 = s.selfCube →
      let w := v.onFlt fun x => { x with lastReq := put x.lastReq (d % 64) s.clk }
      (bit k.hdr (8 * 38) = false → bit s.flt.mask (d % 64) = true → staleTo s.flt.epoch (BitVec.ofNat 16 (k.f 36 2)) = false →
        exec (.leaseReq port k) s = .next (sendCtrl (ctrlPacket s d 0x31 [(32, 4, d), (36, 2, s.flt.epoch.toNat), (40, 8, k.f 40 8)]) w)) ∧
      (bit k.hdr (8 * 38) = false → (bit s.flt.mask (d % 64) = false ∨ staleTo s.flt.epoch (BitVec.ofNat 16 (k.f 36 2)) = true) →
        exec (.leaseReq port k) s = .next w) ∧
      (bit k.hdr (8 * 38) = true → ∃ t, exec (.leaseReq port k) s = .next t ∧ (d % 64, 4) ∈ t.flt.leaseReported ∧ find? t.flt.lastReq (d % 64) = some s.clk))) ∧
  (∀ (k : Packet) (s : State), s.Takes 0x31 0 k →
    let n := BitVec.ofNat 64 (k.f 40 8)
    (k.f 32 4 % 2 ^ 20 = s.selfId → s.flt.leaseEn = true →
      ∃ t, exec (.leaseGrant k) s = .next t ∧ t = { s with fab := t.fab, flt := t.flt } ∧ t.flt = { s.flt with echo := t.flt.echo, leaseFrom := t.flt.leaseFrom } ∧
        t.flt.echo.toNat = max s.flt.echo.toNat n.toNat ∧ (∀ u, s.flt.leaseFrom = some u → t.flt.leaseFrom = some (if u.toNat < n.toNat then n else u)) ∧
        (s.flt.leaseFrom = none → t.flt.leaseFrom = some n)) ∧
    ((k.f 32 4 % 2 ^ 20 ≠ s.selfId ∨ s.flt.leaseEn = false) → exec (.leaseGrant k) s = .next (takeIn k s))) ∧
  (∀ s : State,
    (∀ q, s.partner s.selfPos = some q → s.flt.leaseEn = true → (∀ t0, s.flt.reqSent = some t0 → 20000 ≤ s.clk - t0) →
      exec .leaseReqTimer s = .next (sendCtrl (ctrlPacket s (s.inCube q) 0x30
        [(32, 4, s.selfId), (36, 2, s.flt.epoch.toNat), (38, 1, b2n s.flt.fenced), (40, 8, s.hall.toNat)]) (s.onFlt fun x => { x with reqSent := some s.clk }))) ∧
    ((s.partner s.selfPos = none ∨ s.flt.leaseEn = false ∨ (∃ t0, s.flt.reqSent = some t0 ∧ s.clk - t0 < 20000)) → exec .leaseReqTimer s = .next s) ∧
    (∀ t0, s.flt.leaseFrom = some t0 → s.flt.leaseEn = true →
      (t0.toNat + 120000 ≤ s.hall.toNat → ∃ t, exec .leaseExpiry s = .next t ∧ t.flt.fenced = true ∧
        (s.flt.fenced = false → ∀ c i, s.inflight c = some i → i.counted = true → (i.stage = .granted ∨ i.stage = .running) →
          ∃ e, (t.inflight c).map (·.stage) = some (.ended e))) ∧
      (s.hall.toNat < t0.toNat + 120000 → exec .leaseExpiry s = .next s)) ∧
    ((s.flt.leaseFrom = none ∨ s.flt.leaseEn = false) → exec .leaseExpiry s = .next s)) ∧
  (∀ (pos : Fin 64) (s : State),
    let due : Prop := pos.val ≠ s.selfPos ∧ bit s.flt.mask pos = true ∧ s.partner pos = some s.selfPos ∧ 200000 ≤ s.clk - getD s.flt.lastReq pos 0
    (due → s.flt.leaseReported.contains (pos.val, 3) = false → ∃ t, exec (.leaseSilence pos) s = .next t ∧
      t.flt.leaseReported = s.flt.leaseReported ++ [(pos.val, 3)]) ∧
    ((¬ due ∨ s.flt.leaseReported.contains (pos.val, 3) = true) → exec (.leaseSilence pos) s = .next s))) ∧
  ((∀ (k : Packet) (s : State), s.Takes 0x32 0 k →
    let b := BitVec.ofNat 20 (k.f 32 4)
    let level := k.f 43 1 % 4
    let at_ := pick (fun (m : Merge) => m.suspect == b && m.level == level) s.flt.merges
    ((1 < level ∨ s.overtaken k = true) → exec (.report k) s = .next (takeIn k s)) ∧
    (level ≤ 1 → s.overtaken k = false →
      (at_ = none → ∃ t, exec (.report k) s = .next t ∧ t = { s with fab := t.fab, flt := t.flt } ∧
        t.flt = { s.flt with merges := s.flt.merges ++ [⟨b, k.f 42 1, level, k.f 44 2, s.clk, BitVec.ofNat 64 (k.f 48 8), false⟩] }) ∧
      (∀ m, at_ = some m → m.closed = false → ∃ t, exec (.report k) s = .next t ∧ t = { s with fab := t.fab, flt := t.flt } ∧ t.flt.merges.length = s.flt.merges.length ∧
        ∃ n ∈ t.flt.merges, n.suspect = b ∧ n.level = level ∧ n.count = m.count + k.f 44 2 ∧ n.first = m.first ∧ n.closed = false) ∧
      (∀ m, at_ = some m → m.closed = true → urgentKind (k.f 42 1) = false → ∃ t, exec (.report k) s = .next t ∧
        t.flt = { s.flt with reportsMerged := satAdd s.flt.reportsMerged (k.f 44 2) }))) ∧
  (∀ (b : BitVec 20) (s : State),
    ((∀ m ∈ s.flt.merges, m.suspect ≠ b ∨ m.closed = true ∨ s.clk - m.first < 20000) → exec (.reportMergeClose b) s = .next s) ∧
    (∀ m, s.flt.merges = [m] → m.suspect = b → m.closed = false → 20000 ≤ s.clk - m.first →
      ∃ t, exec (.reportMergeClose b) s = .next t ∧ { m with closed := true } ∈ t.flt.merges ∧ t.cmd = s.cmd)))
/-- R452, R453, R455 to R457: verdicts. One of a newer epoch, received or issued, makes that epoch the device's and strikes the dead device from the members, and a device named dead fences itself; an older one is ignored, or dropped and
logged. FENCED with a newer epoch fences the device. Rejoining clears the fence only once every valid partition has been reset. -/
def Obligations.VerdictRules : Prop :=
  (∀ (k : Packet) (s : State), s.Takes 0x33 0 k →
    let e := BitVec.ofNat 16 (k.f 32 2)
    let d := k.f 36 4 % 2 ^ 20
    (newer e s.flt.epoch = true → ∃ t, exec (.verdict k) s = .next t ∧ t.flt.epoch = e ∧ (d / 64 = s.selfCube → bit t.flt.mask (d % 64) = false) ∧
      (∀ q, q < 64 → (d / 64 ≠ s.selfCube ∨ q ≠ d % 64) → bit t.flt.mask q = bit s.flt.mask q) ∧ t.flt.verdicts = satAdd s.flt.verdicts 1 ∧
      (d = s.selfId → t.flt.fenced = true) ∧ (BitVec.ofNat 16 (k.f 34 2) ≠ s.flt.epoch → t.flt.gap = true)) ∧
    (newer e s.flt.epoch = false → exec (.verdict k) s = .next (takeIn k s))) ∧
  (∀ (v : BitVec 64) (s : State), s.PfWrites →
    let e : W16 := BitVec.ofNat 16 (fld v 63 48)
    let d := fld v 47 28
    (bit v 0 = false → ∃ t, exec (.verdictIssue 0 v) s = .next t ∧ t = { s with csr := t.csr } ∧ ∀ o, o ≠ 0x14000018 → t.reg o = s.reg o) ∧
    (bit v 0 = true → newer e s.flt.epoch = false → ∃ t, exec (.verdictIssue 0 v) s = .next t ∧ t = { s with host := t.host } ∧ (getD t.host.errLog 0 {}).valid = true) ∧
    (bit v 0 = true → newer e s.flt.epoch = true → ∃ t, exec (.verdictIssue 0 v) s = .next t ∧ t.flt.epoch = e ∧
      (d / 64 = s.selfCube → bit t.flt.mask (d % 64) = false) ∧ t.flt.verdicts = satAdd s.flt.verdicts 1)) ∧
  (∀ (k : Packet) (s : State), s.Takes 0x34 0 k →
    (k.f 38 1 = 1 → (∀ j ∈ s.rem.jobs, j.peer ≠ k.f 34 4 % 2 ^ 20) → ∃ t, exec (.fenced k) s = .next t ∧ t.cmd = s.cmd ∧ t.flt = s.flt) ∧
    (k.f 38 1 = 1 → ∀ j i, s.rem.jobs = [j] → j.peer = k.f 34 4 % 2 ^ 20 → (∃ x ∈ s.rem.tags, x.2.cmd = j.cmd) → s.inflight j.cmd = some i →
      ∃ t, exec (.fenced k) s = .next t ∧ t.rem.jobs = [] ∧ t.Ended j.cmd .fenced 0 s.flt.epoch.toNat) ∧
    (k.f 38 1 ≠ 1 → newer (BitVec.ofNat 16 (k.f 32 2)) s.flt.epoch = true → ∃ t, exec (.fenced k) s = .next t ∧ t.flt.fenced = true) ∧
    (k.f 38 1 ≠ 1 → newer (BitVec.ofNat 16 (k.f 32 2)) s.flt.epoch = false → exec (.fenced k) s = .next (takeIn k s))) ∧
  (∀ (v : BitVec 64) (s : State), s.PfWrites →
    (s.flt.leaseEn = true → s.flt.fenced = false → ∃ t, exec (.rejoin 0 v) s = .next t ∧ t.flt.epoch = s.flt.epoch ∧ t.flt.leaseEn = bit v 0 ∧ t.flt.fenced = false) ∧
    (s.flt.fenced = true → bit v 1 = true → s.allReset = true → ∃ t, exec (.rejoin 0 v) s = .next t ∧ t.flt.fenced = false ∧
      t.flt.epoch = BitVec.ofNat 16 (fld v 63 48) ∧ t.flt.leaseEn = bit v 0) ∧
    (s.flt.fenced = true → bit v 1 = true → s.allReset = false → ∃ t, exec (.rejoin 0 v) s = .next t ∧ t.flt.fenced = true ∧
      (getD t.host.errLog 0 {}).valid = true))

/-- R458, R465, R535: FLT_COPY_CHECK compares the digest of the range with its peers' and the manifest's: it ends OK, or DIVERGED in the fourth outcome, with the local digest as result and outcome and mask as detail; FLT_SELFTEST
of an idle unit without a defect ends OK with result 0, that of an array with one with a result that is not 0, and that of a unit that is not idle ends BAD_RSV. On a queue outside the PF's partition each ends ACCESS. -/
def Obligations.CopyCheckAndSelftest : Prop :=
  ∀ (c : CmdRef) (s : State) (i : InFlight),
    let p := s.cmdPart c
    (∀ e ∈ [(0x0F40, Instr.fltCopyCheck c), (0x0F41, .fltSelftest c)], s.ready c e.1 = some i → s.cmdFn c ≠ 0 →
      ∃ t f, exec e.2 s = .next t ∧ (t.inflight c).map (·.stage) = some (.ended f) ∧ f.st = .access) ∧
    (s.ready c 0x0F40 = some i → s.cmdFn c = 0 → ∀ bs data, cmdBlock c p (addr154 (op i.pkt 32 8)) 64 0x19 0 copyCheckRsv copyCheckVals s = .ok bs →
      s.inRange p 2 (wordLayer (le bs 4 4 % 2 ^ 24)) = true → cmdRead c p (addr347 (le bs 8 8)) (le bs 16 4) s = .ok data →
      let manifest := if (le bs 0 1).testBit 4 then some (le bs 24 8) else none
      let peers := (List.range (le bs 2 1)).map fun i => le bs (32 + 8 * i) 8
      let o := checkCopies (crc64 data) peers manifest
      ∃ t, exec (.fltCopyCheck c) s = .next t ∧ t.Ended c (if o = 3 then .diverged else .ok) (crc64 data) (o + 16 * copyMask (crc64 data) peers manifest) ∧
        s.SameMemory t ∧ t.cmd.pegs = s.cmd.pegs) ∧
    (s.ready c 0x0F41 = some i → s.cmdFn c = 0 →
      let n := op i.pkt 32 1
      (bit i.pkt (8 * 33) = true → s.streaming n = false → (getD s.dvt.arrays n {}).upset = {} → ∃ t, exec (.fltSelftest c) s = .next t ∧ t.Ended c .ok 0 0 ∧ s.SameMemory t) ∧
      (bit i.pkt (8 * 33) = false → (s.arr n).launch = none → (s.arr n).upset = {} →
        ∃ t, exec (.fltSelftest c) s = .next t ∧ t.Ended c .ok 0 0 ∧ s.SameMemory t) ∧
      (bit i.pkt (8 * 33) = false → (s.arr n).launch = none → (s.arr n).upset ≠ {} →
        ∃ t r, exec (.fltSelftest c) s = .next t ∧ t.Ended c .ok r 0 ∧ 0 < r ∧ r < 2 ^ 64 ∧ s.SameMemory t) ∧
      ((if bit i.pkt (8 * 33) then s.streaming n else (s.arr n).launch.isSome) = true →
        ∃ t f, exec (.fltSelftest c) s = .next t ∧ (t.inflight c).map (·.stage) = some (.ended f) ∧ f.st = .badRsv ∧ s.SameMemory t))

/-! ### Security and management (chapters 18 and 20) -/

/-- R473 to R475, R480, R481: SPDM requests outside Table Sec-5 are answered with ERROR, and so are those that need the alias key while the seed is disabled; KEY_EXCHANGE and END_SESSION open and close a session; the fabric manager's requests act only in an authenticated session: a newer fabric key
replaces the old, a CAK is set, the key status is answered. A refused debug unlock counts and draws a new nonce; an accepted one disables the seed and resets the device into debug level 1. -/
def Obligations.SecureRequests : Prop :=
  ∀ (bs : List Byte) (s : State),
    let ver := bs.getD 0 0
    let req := (bs.getD 1 0).toNat
    let vendor : List Instr := [.setFabricKey bs, .setHallCak bs, .getKeyStatus]
    (s.secRuns = false → ∀ i ∈ [Instr.spdmRequest bs, .dbgUnlock bs] ++ vendor, exec i s = .next s) ∧
    (s.secRuns = true →
      (req ≠ 0xFE → spdmSupported bs = false →
        exec (.spdmRequest bs) s = .next { s with out := s.out ++ [.response [ver, 0x7F, 7, 0]] }) ∧
      (req = 0xFE → exec (.spdmRequest bs) s = .next { s with out := s.out ++ [.response [ver, 0x7F, 4, 0]] }) ∧
      (spdmSupported bs = true → (spdmPlain.contains req = true ∨ (req ≠ 0xE4 ∧ s.seedOk = true)) → ∃ t b, exec (.spdmRequest bs) s = .next t ∧ t.out = s.out ++ [.response ([ver, BitVec.ofNat 8 (req % 128)] ++ b)] ∧
        t = { s with out := t.out, draws := t.draws, sec := { s.sec with sessions := t.sec.sessions } } ∧
        (req = 0xEC → t.sec.sessions = s.sec.sessions.dropLast) ∧ (req ≠ 0xEC → t.sec.sessions.length = s.sec.sessions.length)) ∧
      (spdmSupported bs = true → spdmSigned.contains req = true → s.seedOk = false → ∃ t code, exec (.spdmRequest bs) s = .next t ∧
        t = { s with out := s.out ++ [.response [ver, 0x7F, code, 0]], draws := t.draws }) ∧
      (spdmSupported bs = true → req = 0xE4 → s.seedOk = true → s.sec.sessions.length < 4 → ∃ t, exec (.spdmRequest bs) s = .next t ∧ t.sec.sessions = s.sec.sessions ++ [false]) ∧
      (s.sec.sessions.contains true = false → ∀ i ∈ vendor, exec i s = .next { s with out := s.out ++ [.response [0x12, 0x7F, 4, 0]] }) ∧
      (s.sec.sessions.contains true = true →
        (bs.length = 36 → (s.sec.fabricKey = none ∨ s.sec.fabricGen.toNat < le bs 0 4) → ∃ t, exec (.setFabricKey bs) s = .next t ∧
          t = { s with sec := { s.sec with fabricKey := some (le bs 4 32), fabricGen := BitVec.ofNat 32 (le bs 0 4) }, out := s.out ++ [.response [0]] }) ∧
        ((bs.length ≠ 36 ∨ (s.sec.fabricKey.isSome = true ∧ le bs 0 4 ≤ s.sec.fabricGen.toNat)) →
          exec (.setFabricKey bs) s = .next { s with out := s.out ++ [.response [1]] }) ∧
        (bs.length = 52 → le bs 0 1 ≤ 9 → le bs 1 3 = 0 → ∃ t, exec (.setHallCak bs) s = .next t ∧ find? t.sec.cak (le bs 0 1) = some (le bs 4 48) ∧
          (∀ q, q ≠ le bs 0 1 → find? t.sec.cak q = find? s.sec.cak q) ∧ t.out = s.out ++ [.response [0]] ∧ (t.port (23 + le bs 0 1)).st = (s.port (23 + le bs 0 1)).st) ∧
        ((bs.length ≠ 52 ∨ 9 < le bs 0 1 ∨ le bs 1 3 ≠ 0) → exec (.setHallCak bs) s = .next { s with out := s.out ++ [.response [1]] }) ∧
        exec .getKeyStatus s = .next { s with out := s.out ++ [.response (0 :: toBytes 8 s.keyStatus.toNat)] }) ∧
      (8 ≤ s.sec.unlockFails → exec (.dbgUnlock bs) s = .next s) ∧
      (s.sec.unlockFails < 8 → bs.length = 4771 → s.unlockOk bs = true → ∃ t, exec (.dbgUnlock bs) s = .next t ∧ s.WasReset t 4 ∧ t.sec.debugLevel = 1 ∧
        t.sec.seedOff = true ∧ bit t.sec.resetCause 4 = true) ∧
      (s.sec.unlockFails < 8 → (bs.length ≠ 4771 ∨ s.unlockOk bs = false) → exec (.dbgUnlock bs) s = .next
        { s with draws := s.draws + 1, sec := { s.sec with unlockFails := s.sec.unlockFails + 1, nonceAt := s.draws } }))

/-- R467 to R470, R529, R530, R534, R535: secure boot takes the selected slot when it verifies, else the other, else halts. Recovery checks the buffer, keeps the boot flash when the check fails, and resets the device when all checks pass.
FW_WRITE, FW_VERIFY and FW_SELECT end OK, with the code or the new sequence as result, or ACCESS while another update holds the device; 60 s without progress release it. -/
def Obligations.BootAndFirmware : Prop :=
  (∀ s : State,
    ((s.pwr.ready = true ∨ s.powered = false) → exec .secureBoot s = .next s) ∧
    (s.pwr.ready = false → s.powered = true → fuseHalt = false →
      let a := (s.selected.map (·.2)).getD 0
      let r := verifySlot a s
      let q := verifySlot (1 - a) r.2
      (r.1 = 0 → a < 2 → ∃ t, exec .secureBoot s = .next t ∧ t.pwr.ready = true ∧ t.sec.bootOk = true ∧ t.sec.slot = a ∧ t.host.bootState = 0 ∧ t.sec.xspi = s.sec.xspi) ∧
      (r.1 ≠ 0 → q.1 = 0 → a < 2 → ∃ t, exec .secureBoot s = .next t ∧ t.pwr.ready = true ∧ t.sec.bootOk = true ∧ t.sec.slot = 1 - a ∧
        t.sec.failOther = BitVec.ofNat 8 r.1 ∧ t.host.bootState = 0) ∧
      (r.1 ≠ 0 → q.1 ≠ 0 → ∃ t, exec .secureBoot s = .next t ∧ t.pwr.ready = true ∧ t.sec.bootOk = false ∧ t.sec.slot = 3 ∧ t.host.bootState = 2 ∧
        t.sec.failThis = BitVec.ofNat 8 r.1 ∧ t.sec.failOther = BitVec.ofNat 8 q.1)) ∧
    (∀ v : BitVec 64, s.pwr.ready = true → s.host.flr.contains 0 = false →
      (s.host.bootState.toNat < 2 → ∃ t, exec (.recoveryGo 0 v) s = .next t ∧ t = { s with host := t.host } ∧ (getD t.host.errLog 0 {}).valid = true) ∧
      ((s.host.bootState = 2 ∨ s.host.bootState = 3) → 8193 ≤ fld v 56 32 → fld v 56 32 ≤ 16777216 → bit v 0 = true → s.host.updater = none →
        let u := s.setReg 0x18 (setFld (setFld v 31 2 0) 63 57 0 &&& ~~~1#64)
        let r := verify u.recoveryRead u
        (r.1 ≠ 0 → ∃ t, exec (.recoveryGo 0 v) s = .next t ∧ t.host.bootState = 3 ∧ t.host.recovState = 4 ∧ t.host.recovCode = BitVec.ofNat 8 r.1 ∧ t.sec = s.sec) ∧
        (r.1 = 0 → (verifySlot (fld v 1 1) (xspiWrite (slotBase (fld v 1 1)) (u.recoveryRead 0 (fld v 56 32)) r.2)).1 = 0 →
          ∃ t, exec (.recoveryGo 0 v) s = .next t ∧ t.pwr.lastReset = 2 ∧ t.pwr.ready = false ∧ t.cmd.wq = [] ∧ t.flash = s.flash))) ∧
    (∀ u t0, s.host.updater = some (u, t0) →
      (60000000000 ≤ s.clk - t0 → exec .updateHoldTimeout s = .next { s with host := { s.host with updater := none, pldm := .idle } }) ∧
      (s.clk - t0 < 60000000000 → exec .updateHoldTimeout s = .next s)) ∧
    (s.host.updater = none → exec .updateHoldTimeout s = .next s)) ∧
  (∀ (c : CmdRef) (s : State) (i : InFlight), s.cmdFn c = 0 →
    (s.heldElsewhere = true → ∀ e ∈ [(0x0F10, Instr.fwWrite c), (0x0F11, .fwVerify c), (0x0F12, .fwSelect c)], s.ready c e.1 = some i →
      ∃ t, exec e.2 s = .next t ∧ t.Ended c .access 0 0xFA) ∧
    (s.heldElsewhere = false →
      (s.ready c 0x0F10 = some i → ∀ a, addr378 (op i.pkt 32 8) = .host a → ∃ t, exec (.fwWrite c) s = .next t ∧ t.Running c ∧
        t.out = s.out ++ [.hostRead s.cmd.nextRead (s.parFn (s.cmdPart c)) a (op i.pkt 44 4)] ∧ t.host.updater = some (.commands, s.clk) ∧ t.sec = s.sec) ∧
      (s.ready c 0x0F10 = some i → (∀ a, addr378 (op i.pkt 32 8) ≠ .host a) → ∀ bs, copyIn c (s.cmdPart c) (addr378 (op i.pkt 32 8)) 0 (op i.pkt 44 4) 32
          (s.updIn c ({ · with stage := .running })) = .ok bs →
        ∃ t, exec (.fwWrite c) s = .next t ∧ t.Ended c .ok (op i.pkt 44 4) 0 ∧ t.sec.xspi = memWrite s.sec.xspi (slotBase s.otherSlot + op i.pkt 40 4) bs ∧
          t.host.verified = false ∧ s.SameMemory t) ∧
      (s.ready c 0x0F11 = some i → ∃ t, exec (.fwVerify c) s = .next t ∧ t.Ended c .ok (verifySlot s.otherSlot s).1 0 ∧ t.sec = s.sec ∧
        t.host.verified = (s.host.verified || (verifySlot s.otherSlot s).1 == 0)) ∧
      (s.ready c 0x0F12 = some i → s.host.verified = false → ∃ t, exec (.fwSelect c) s = .next t ∧ t.Ended c .access 0 0xFB ∧ t.sec = s.sec) ∧
      (s.ready c 0x0F12 = some i → s.host.verified = true → ∃ t, exec (.fwSelect c) s = .next t ∧ t.Ended c .ok (writeSelect s.otherSlot s).1 0 ∧
        t.host.updater = none ∧ t.sec.xspi = (writeSelect s.otherSlot s).2.sec.xspi)))

/-- R531 to R535: management. ENTDAA gives an address to a device that has none, SET_ENDPOINT_ID sets the EID; PLDM requests are answered; a sensor is refreshed to its reading, or has none while it is not available; MGT_SENSOR answers
the last reading; a PLDM update holds the device from RequestUpdate, writes the slot that did not boot, and lets it go at its end. -/
def Obligations.ManagementRules : Prop :=
  (∀ (da : BitVec 7) (eid : BitVec 8) (s : State),
    (s.pwr.aux = true → s.host.i3cAddr = none → exec (.entdaa da) s = .next { s with host := { s.host with i3cAddr := some da } }) ∧
    ((s.pwr.aux = false ∨ s.host.i3cAddr.isSome = true) → exec (.entdaa da) s = .next s) ∧
    (s.mctpUp = true → exec (.setEndpointId eid) s = .next { s with host := { s.host with eid := eid } }) ∧
    (s.mctpUp = false → exec (.setEndpointId eid) s = .next s) ∧
    (∃ t, exec .pldmSensorRefresh s = .next t ∧ t = { s with host := t.host, draws := t.draws, out := t.out } ∧
      t.host = { s.host with sensors := t.host.sensors, sensorState := t.host.sensorState } ∧
      (∀ j ∈ sensorIds, s.sensorUp j = false → find? t.host.sensors j = none) ∧ (∀ j ∈ sensorIds, s.sensorUp j = true → (find? t.host.sensors j).isSome = true) ∧
      (s.sensorUp 18 = true → find? t.host.sensors 18 = some ((s.clkArr * 50000 : Nat) : Int)) ∧ (s.mctpUp = false → t.out = s.out))) ∧
  (∀ (bs : List Byte) (s : State),
    let head := [bs.getD 0 0 &&& 0x1F#8, bs.getD 1 0, bs.getD 2 0]
    let cmd := (bs.getD 2 0).toNat
    (s.mctpUp = false → exec (.pldmRequest bs) s = .next s ∧ exec (.pldmFwUpdate bs) s = .next s) ∧
    (s.mctpUp = true → ∃ t code more, exec (.pldmRequest bs) s = .next t ∧ t = { s with out := t.out, draws := t.draws } ∧
      t.out = s.out ++ [.response (head ++ [code] ++ more)] ∧ ([0, 2, 5].contains ((bs.getD 1 0).toNat % 64) = true → code = 0)) ∧
    (s.mctpUp = true → s.fwRuns = true →
      (cmd = 0x10 → s.host.updater = none → ∃ t, exec (.pldmFwUpdate bs) s = .next t ∧ t.host.updater = some (.pldm, s.clk) ∧ t.host.pldm = .download ∧
        t.out = s.out ++ [.response (head ++ [0])] ∧ t.sec = s.sec) ∧
      (cmd = 0x10 → s.host.updater.isSome = true → exec (.pldmFwUpdate bs) s = .next { s with out := s.out ++ [.response (head ++ [0x81])] }) ∧
      (cmd = 0x15 → s.host.pldm = .download → 32 ≤ (bs.drop 4).length → (bs.drop 4).length ≤ 1024 → s.host.fwAt + (bs.drop 4).length < s.host.fwLen →
        ∃ t, exec (.pldmFwUpdate bs) s = .next t ∧ t.sec.xspi = memWrite s.sec.xspi (slotBase s.otherSlot + s.host.fwAt) (bs.drop 4) ∧
          t.host.fwAt = s.host.fwAt + (bs.drop 4).length ∧ s.SameMemory t) ∧
      (cmd = 0x1A → s.host.pldm = .apply → ∃ t, exec (.pldmFwUpdate bs) s = .next t ∧ t.host.updater = none ∧ t.host.pldm = .idle ∧ t.sec = s.sec) ∧
      ((cmd = 0x1C ∨ cmd = 0x1D) → s.host.pldm ≠ .idle → ∃ t, exec (.pldmFwUpdate bs) s = .next t ∧ t.host.updater = none ∧ t.host.pldm = .idle ∧ t.sec = s.sec))) ∧
  (∀ (c : CmdRef) (s : State) (i : InFlight) (x : Int), s.ready c 0x0F00 = some i → s.cmdFn c = 0 → find? s.host.sensors (op i.pkt 32 2) = some x →
    ∃ t, exec (.mgtSensor c) s = .next t ∧ t.Ended c .ok (bitsOf 64 x) 0 ∧ t.host = s.host ∧ s.SameMemory t)

/-! ### The host interface (chapter 20) -/

/-- R12, R517 to R520, R525: BAR0 writes. Before configuration is ready a write is dropped, one that asks for a partition or fabric-port reset is logged as well (R510); one of 1 or 2 bytes, a 4-byte one to a W64 register, or one where no register lies is logged. An aligned 8-byte write is the register operation
of its register: the rows that name a register's write do the same. -/
def Obligations.RegisterWrites : Prop :=
  (∀ (fn : Fn) (off : BitVec 29) (n v : Nat) (s : State),
    (s.pwr.ready = false → (n ≠ 8 ∨ asksReset off.toNat (BitVec.ofNat 64 v) = false) → exec (.csrWrite fn (.bar0 off) n v) s = .next s) ∧
    (s.pwr.ready = false → n = 8 → asksReset off.toNat (BitVec.ofNat 64 v) = true → exec (.csrWrite fn (.bar0 off) n v) s = .next (logWrite fn 7 off.toNat s)) ∧
    (s.PfWrites → fn.val = 0 →
      ((n = 1 ∨ (n = 2 ∧ off.toNat % 2 = 0)) → exec (.csrWrite fn (.bar0 off) n v) s = .next (logErr 0 1 (widthCode n) 0 true off.toNat s)) ∧
      (n = 8 → off.toNat % 8 = 0 → regAt off.toNat = none → exec (.csrWrite fn (.bar0 off) n v) s = .next (logErr 0 4 3 0 true off.toNat s)) ∧
      (n = 4 → off.toNat % 4 = 0 → ∀ r, regAt (off.toNat / 8 * 8) = some r → r.w64 = true → exec (.csrWrite fn (.bar0 off) n v) s = .next (logErr 0 2 2 0 true off.toNat s)) ∧
      (n = 4 → off.toNat % 4 = 0 → regAt (off.toNat / 8 * 8) = none → exec (.csrWrite fn (.bar0 off) n v) s = .next (logErr 0 4 2 0 true off.toNat s)) ∧
      (n = 3 → exec (.csrWrite fn (.bar0 off) n v) s = .next (logErr 0 3 (widthCode n) 0 true off.toNat s)))) ∧
  (∀ (fn : Fn) (v : BitVec 64) (s : State),
    (∀ p : PegIx, exec (.csrWrite fn (.bar0 (BitVec.ofNat 29 (0x10000000 + 8 * p.val))) 8 v.toNat) s = exec (.pegValueWrite fn p v) s) ∧
    (∀ q : QueueIx, exec (.csrWrite fn (.bar0 (BitVec.ofNat 29 (0x0F000008 + 0x40 * q.val))) 8 v.toNat) s = exec (.wqCfgWrite fn q v) s ∧
      exec (.csrWrite fn (.bar0 (BitVec.ofNat 29 (0x0F010008 + 0x40 * q.val))) 8 v.toNat) s = exec (.cqCfgWrite fn q v) s) ∧
    (∀ b : BayIx, exec (.csrWrite fn (.bar0 (BitVec.ofNat 29 (0x03000000 + 8 * b.val))) 8 v.toNat) s = exec (.lftBayCfgWrite fn b v) s) ∧
    (∀ p : Part, exec (.csrWrite fn (.bar0 (BitVec.ofNat 29 (0x12000000 + 8 * p.val))) 8 v.toNat) s = exec (.parCfgWrite fn p v) s ∧
      exec (.csrWrite fn (.bar0 (BitVec.ofNat 29 (0x12000080 + 0x10 * p.val))) 8 v.toNat) s = exec (.parBreachRingWrite fn p v) s ∧
      (s.PfWrites → fn.val = 0 → ∃ t, exec (.csrWrite fn (.bar0 (BitVec.ofNat 29 (0x13000000 + 8 * p.val))) 8 v.toNat) s = .next t ∧ t.det p = bit v 0 ∧
        (∀ o, o ≠ 0x13000000 + 8 * p.val → t.reg o = s.reg o) ∧ t = { s with csr := t.csr })) ∧
    (exec (.csrWrite fn (.bar0 0x14000018) 8 v.toNat) s = exec (.verdictIssue fn v) s ∧ exec (.csrWrite fn (.bar0 0x14000008) 8 v.toNat) s = exec (.rejoin fn v) s ∧
      exec (.csrWrite fn (.bar0 0x09000000) 8 v.toNat) s = exec (.telHdrCfgWrite fn v) s ∧ exec (.csrWrite fn (.bar0 0x18) 8 v.toNat) s = exec (.recoveryGo fn v) s) ∧
    (s.PfWrites → fn.val = 0 →
      exec (.csrWrite fn (.bar0 0x0D000018) 8 1) s = exec .drainBegin s ∧ exec (.csrWrite fn (.bar0 0x0D000018) 8 2) s = exec .drainEnd s ∧
      exec (.csrWrite fn (.bar0 0x0D000018) 8 3) s = exec .switch s ∧ exec (.csrWrite fn (.bar0 0x0D000018) 8 4) s = exec .snap s ∧
      exec (.csrWrite fn (.bar0 0x15000070) 8 2) s = exec (.svnCommit fn) s ∧ exec (.csrWrite fn (.bar0 0x15000070) 8 0x5A45524F00000001) s = exec (.zeroize fn) s ∧
      exec (.csrWrite fn (.bar0 0x18000000) 8 0x5253545700000001) s = exec (.warm fn) s))

/-- R524: each function has its own CSR_ERR_LOG. An event logged while valid is 0 latches its kind, width, BAR, direction and offset, sets valid and sets count to 1;
one logged while valid is 1 only increments count, which holds at 255. Clearing valid clears count as well. -/
def Obligations.ErrorLogRule : Prop :=
  (∀ (fn kind width bar : Nat) (write : Bool) (off : Nat) (s : State),
    let l := getD s.host.errLog fn {}
    let t := logErr fn kind width bar write off s
    let m := getD t.host.errLog fn {}
    (l.valid = false → m = { valid := true, kind := BitVec.ofNat 4 kind, width := BitVec.ofNat 3 width, bar := BitVec.ofNat 2 bar, write := write,
                             offset := BitVec.ofNat 36 off, count := 1 }) ∧
    (l.valid = true → m = { l with count := m.count } ∧ m.count.toNat = min 255 (l.count.toNat + 1)) ∧
    (∀ g, g ≠ fn → getD t.host.errLog g {} = getD s.host.errLog g {}) ∧ t = { s with host := { s.host with errLog := t.host.errLog } }) ∧
  (∀ (fn g : Fn) (v : BitVec 64) (s : State), s.PfWrites → s.host.flr.contains fn.val = false → (fn.val = 0 ∨ fn = g) →
    ∃ t, exec (.csrWrite fn (.bar0 (BitVec.ofNat 29 (0x100 + 8 * g.val))) 8 v.toNat) s = .next t ∧
      (bit v 63 = true → (getD t.host.errLog g {}).valid = false ∧ (getD t.host.errLog g {}).count = 0) ∧ (bit v 63 = false → t = s) ∧
      ∀ h, h ≠ g.val → getD t.host.errLog h {} = getD s.host.errLog h {})

/-- R512, R513, R516, R523 to R529, R31, R559: what else the host does. A BAR4 access reads or writes its function's window, all ones and dropped where it is not served; a configuration request is retried until configuration is ready, reads a
dword, or changes its writable bits, and one that clears VF Enable resets the VFs; an AtomicOp is refused; a vector is masked or unmasked, and one unmasked that is pending is sent; a host read completion feeds what waits for it. -/
def Obligations.HostAccesses : Prop :=
  (∀ (fn : Fn) (off : BitVec 36) (n : Nat) (bs : List Byte) (s : State), s.powered = true → s.host.flr.contains fn.val = false →
    let ones : State := { s with out := s.out ++ [.completion fn (List.replicate n 0xFF)] }
    (s.pwr.ready = false → exec (.bar4Access fn off (.read n)) s = .next ones ∧ exec (.bar4Access fn off (.write bs)) s = .next s) ∧
    (s.pwr.ready = true → s.host.bootState.toNat < 2 → s.partOfFn fn = none →
      exec (.bar4Access fn off (.read n)) s = .next ones ∧ exec (.bar4Access fn off (.write bs)) s = .next s) ∧
    (s.pwr.ready = true → s.host.bootState.toNat < 2 → ∀ p, s.partOfFn fn = some p → off.toNat < 0x20000000 →
      (∀ ph, 1 ≤ n → off.toNat % 64 + n ≤ 64 → s.loftPlace p off.toNat = .ok ph →
        (s.poisoned .loft ph = none → exec (.bar4Access fn off (.read n)) s = .next
          { chargeAccess p false false off.toNat n s with out := s.out ++ [.completion fn ((List.range n).map fun i => s.byteAt p false (off.toNat + i))] }) ∧
        (bs.length = n → ∃ t, exec (.bar4Access fn off (.write bs)) s = .next t ∧ t.loft = memWrite s.loft ph bs ∧ t.hbm = s.hbm ∧ t.bench = s.bench ∧
          t.flash = s.flash ∧ t.cmd = s.cmd ∧ t.host = s.host ∧ t.out = s.out)) ∧
      (∀ e, 1 ≤ n → off.toNat % 64 + n ≤ 64 → s.loftPlace p off.toNat = .error e → ∃ t, exec (.bar4Access fn off (.read n)) s = .next t ∧
        t.out = ones.out ∧ (getD t.host.errLog fn {}).valid = true ∧ s.SameMemory t))) ∧
  (∀ (fn : Fn) (reg : BitVec 12) (v : BitVec 32) (s : State), s.powered = true →
    let d := reg.toNat / 4
    (s.pwr.ready = false → ∀ w, exec (.configRequest fn reg w) s = .next { s with out := s.out ++ [.retryStatus fn] }) ∧
    (s.pwr.ready = true → exec (.configRequest fn reg none) s = .next { s with out := s.out ++ [.completion fn (toBytes 4 (s.cfgDword fn d).toNat)] }) ∧
    (s.pwr.ready = true → s.host.bootState.toNat < 2 → d ≠ 0 → d ≠ 2 → d ≠ Config.msixCap →
      (fn.val ≠ 0 ∨ d ≠ Config.sriovCtl ∨ bit (s.cfgDword fn d) 0 = false) → ∃ t, exec (.configRequest fn reg (some v)) s = .next t ∧
      t.cfgDword fn d = (s.cfgDword fn d &&& ~~~(Config.cfgMask fn d)) ||| (v &&& Config.cfgMask fn d) ∧ t = { s with host := t.host, out := s.out ++ [.completion fn []] }) ∧
    (s.pwr.ready = true → s.host.bootState.toNat < 2 → fn.val = 0 → d ≠ 0 → d ≠ 2 → d ≠ Config.msixCap →
      let w := (s.cfgDword 0 d &&& ~~~(Config.cfgMask 0 d)) ||| (v &&& Config.cfgMask 0 d)
      let u : State := { s with host := { s.host with cfgRegs := put s.host.cfgRegs d w } }
      exec (.configRequest fn reg (some v)) s =
        .next ((if d = Config.sriovCtl ∧ bit (s.cfgDword 0 d) 0 = true ∧ bit w 0 = false then vfsOff u else u).emit (.completion 0 [])))) ∧
  (∀ (fn : Fn) (off : BitVec 36) (vec : Fin 2048) (s : State),
    (s.host.flr.contains fn.val = true → ∀ bar, exec (.atomicop fn bar off) s = .next s) ∧
    (s.powered = true → s.host.flr.contains fn.val = false → exec (.atomicop fn 2 off) s = .next { s with out := s.out ++ [.unsupported fn] }) ∧
    (∀ bar : Fin 3, bar ≠ 2 → s.powered = true → s.host.flr.contains fn.val = false → ∃ t, exec (.atomicop fn bar off) s = .next t ∧ t.out = s.out ++ [.completion fn (List.replicate 8 0xFF)] ∧
      t = { s with host := t.host, out := t.out } ∧ (s.pwr.ready = true → (getD t.host.errLog fn {}).valid = true)) ∧
    (exec (.csrWrite fn (.bar2 (BitVec.ofNat 29 (0x40000C + 16 * vec.val))) 4 0) s = exec (.msixUnmask fn vec) s) ∧
    (s.pwr.ready = true → s.host.flr.contains fn.val = false → exec (.csrWrite fn (.bar2 (BitVec.ofNat 29 (0x40000C + 16 * vec.val))) 4 1) s =
      .next { s with host := { s.host with unmasked := s.host.unmasked.filter (· != fn.val * 2048 + vec.val) } }) ∧
    (s.pwr.ready = true → s.host.flr.contains fn.val = false →
      ∃ t, exec (.msixUnmask fn vec) s = .next t ∧ t = { s with host := t.host, out := t.out } ∧ t.host.unmasked.contains (fn.val * 2048 + vec.val) = true ∧
        (s.host.fnMask.contains fn.val = true → t.out = s.out ∧ t.host.pendingBits = s.host.pendingBits) ∧
        (s.host.fnMask.contains fn.val = false → s.host.pendingBits.contains (fn.val * 2048 + vec.val) = true →
          .msix fn vec ∈ t.out ∧ t.host.pendingBits.contains (fn.val * 2048 + vec.val) = false))) ∧
  (∀ (tag : Nat) (data : HostData) (s : State),
    (find? s.cmd.reads tag = none → exec (.hostReadCompletion tag data) s = .next s) ∧
    (∀ r, find? s.cmd.reads tag = some r →
      (r.dead = true → s.host.flr.contains r.fn = false → exec (.hostReadCompletion tag data) s = .next { s with cmd := { s.cmd with reads := del s.cmd.reads tag } }) ∧
      (r.dead = false → ∀ q, r.for_ = .ring q →
        (∃ t, exec (.hostReadCompletion tag .failed) s = .next t ∧ (t.queue q).fetchErr = true ∧ (t.queue q).halted = true ∧ (t.queue q).head = (s.queue q).head ∧
          find? t.cmd.reads tag = none) ∧
        (∀ bs, 64 ≤ bs.length → opcode (toBlock bs) ≠ 0x0104 → ∃ t, exec (.hostReadCompletion tag (.bytes bs)) s = .next t ∧ (t.queue q).head = (s.queue q).head + 1 ∧
          (t.queue q).fetched.map (fun f => (f.slot, f.pkt)) = (s.queue q).fetched.map (fun f => (f.slot, f.pkt)) ++ [((s.queue q).head, toBlock bs)] ∧
          (t.queue q).fetching = none)) ∧
      (r.dead = false → ∀ q slot i, r.for_ = .copy q slot → s.running ⟨Fin.ofNat 1024 q, slot⟩ = some i →
        ∃ t, exec (.hostReadCompletion tag .failed) s = .next t ∧ t.Ended ⟨Fin.ofNat 1024 q, slot⟩ .integrity i.acc (intDetail 0x0E 8 r.fn))))

/-! ### The block as a whole -/

/-- Every well-formed command answers a next state, whatever the state: no command of the table is refused, and only a LINK_BLOCK that is no block faults. -/
def Obligations.WellFormedCommandsAnswerNext : Prop :=
  ∀ (i : Instr) (s : State), (i.wellFormed = true → ∃ t, exec i s = .next t) ∧ (∀ f, exec i s = .fault f → ∃ p b, i = .linkBlock p b ∧ b.length ≠ 1056) ∧
    ∀ r, exec i s ≠ .refused r

/-- After reset: no command waits, no byte of any memory is listed, every register holds its reset value, no partition is valid, no queue is enabled, every peg is 0 (R39), every port is DISABLED, the device is in RUN and not fenced.
The reset values that the spec does not give are the model's choices (log 5, log 60 and the logs of the registers). -/
def Obligations.ResetLeaves : Prop :=
  State.reset.pending = [] ∧ State.reset.Canon ∧ (∀ off, State.reset.reg off = regReset off) ∧ (∀ p, p < 8 → State.reset.parValid p = false) ∧
  (∀ q, q < 1024 → State.reset.wqOn q = false ∧ State.reset.queue q = {}) ∧ (∀ p, State.reset.pegVal p = 0) ∧
  (∀ f, (State.reset.port f).st = .disabled) ∧ State.reset.fab.drain = 0 ∧ State.reset.fab.epoch = 0 ∧ State.reset.flt.fenced = false ∧ State.reset.flt.epoch = 0 ∧
  State.reset.out = [] ∧ (∀ a, memGet State.reset.loft a = 0 ∧ memGet State.reset.hbm a = 0 ∧ memGet State.reset.bench a = 0)

/-- From every state whose memories are in canonical form, a step that answers a next state leaves them so: the Loft, HBM, the benches, flash and boot flash. -/
def Obligations.StepKeepsMemoriesCanonical : Prop := ∀ s t : State, s.Canon → step s = .next t → t.Canon

/-- What no command does: it changes no waiting command and no time, takes back no output, reuses no free value, and neither lowers the fused svn (R470) nor changes the lifecycle. -/
def Obligations.NoCommandUndoes : Prop :=
  ∀ (i : Instr) (s t : State), exec i s = .next t →
    t.pending = s.pending ∧ t.clk = s.clk ∧ s.draws ≤ t.draws ∧ (∃ xs, t.out = s.out ++ xs) ∧ s.sec.fusedSvn.toNat ≤ t.sec.fusedSvn.toNat ∧
    t.sec.lifecycle = s.sec.lifecycle
end

