-- ==== Sys2Proof/Laws/Tables.lean ====
section
/-! SUPPORT. Laws of tables: reading after setting, removing and changing an entry. -/

namespace Sys2Proof.Machine

variable {α : Type}

@[simp] theorem find?_put_self (m : List (Nat × α)) (k : Nat) (v : α) : find? (put m k v) k = some v := by
  induction m with
  | nil => simp [put, find?]
  | cons e r ih =>
    obtain ⟨i, w⟩ := e
    by_cases h : i = k
    · simp [put, find?, h]
    · by_cases g : k < i
      · simp [put, find?, h, g]
      · simp [put, find?, h, g, ih]

theorem find?_put_other (m : List (Nat × α)) {j k : Nat} (v : α) (h : j ≠ k) : find? (put m k v) j = find? m j := by
  have h' : k ≠ j := fun e => h e.symm
  induction m with
  | nil => simp [put, find?, h']
  | cons e r ih =>
    obtain ⟨i, w⟩ := e
    by_cases hi : i = k
    · subst hi; simp [put, find?, h']
    · by_cases g : k < i
      · simp [put, find?, hi, g, h']
      · by_cases hj : i = j
        · subst hj; simp [put, find?, h, g]
        · simp [put, find?, hi, g, hj, ih]

@[simp] theorem getD_put_self (m : List (Nat × α)) (k : Nat) (v d : α) : getD (put m k v) k d = v := by
  simp [getD]

theorem getD_put_other (m : List (Nat × α)) {j k : Nat} (v d : α) (h : j ≠ k) : getD (put m k v) j d = getD m j d := by
  simp [getD, find?_put_other m v h]

theorem getD_put (m : List (Nat × α)) (j k : Nat) (v d : α) : getD (put m k v) j d = if j = k then v else getD m j d := by
  by_cases h : j = k
  · simp [h]
  · simp [h, getD_put_other m v d h]

@[simp] theorem getD_upd_self (m : List (Nat × α)) (k : Nat) (d : α) (f : α → α) : getD (upd m k d f) k d = f (getD m k d) := by
  simp [upd]

theorem getD_upd_other (m : List (Nat × α)) {j k : Nat} (d d' : α) (f : α → α) (h : j ≠ k) :
    getD (upd m k d f) j d' = getD m j d' := by
  simp [upd, getD_put_other _ _ _ h]

@[simp] theorem find?_del_self (m : List (Nat × α)) (k : Nat) : find? (del m k) k = none := by
  induction m with
  | nil => rfl
  | cons e r ih =>
    obtain ⟨i, w⟩ := e
    by_cases hi : i = k
    · simpa [del, hi] using ih
    · simpa [del, find?, hi] using ih

theorem find?_del_other (m : List (Nat × α)) {j k : Nat} (h : j ≠ k) : find? (del m k) j = find? m j := by
  induction m with
  | nil => rfl
  | cons e r ih =>
    obtain ⟨i, w⟩ := e
    by_cases hi : i = k
    · have : i ≠ j := fun e => h (e.symm.trans hi)
      simpa [del, find?, hi, h.symm] using ih
    · by_cases hj : i = j
      · simp [del, find?, hj, h]
      · simpa [del, find?, hi, hj] using ih

@[simp] theorem getD_del_self (m : List (Nat × α)) (k : Nat) (d : α) : getD (del m k) k d = d := by simp [getD]

theorem getD_del_other (m : List (Nat × α)) {j k : Nat} (d : α) (h : j ≠ k) : getD (del m k) j d = getD m j d := by
  simp [getD, find?_del_other m h]

/-- What `pick` answers satisfies the predicate and is listed. -/
theorem pick_some {p : α → Bool} {xs : List α} {x : α} (h : pick p xs = some x) : p x = true ∧ x ∈ xs := by
  induction xs with
  | nil => simp [pick] at h
  | cons y r ih =>
    by_cases hy : p y = true
    · simp [pick, hy] at h; subst h; exact ⟨hy, by simp⟩
    · simp [pick, hy] at h
      exact ⟨(ih h).1, by simp [(ih h).2]⟩

/-- `pick` over a list changed in a way the predicate does not see. -/
theorem pick_map {p : α → Bool} {f : α → α} (hf : ∀ x, p (f x) = p x) (xs : List α) : pick p (xs.map f) = (pick p xs).map f := by
  induction xs with
  | nil => rfl
  | cons y r ih => by_cases hy : p y = true <;> simp [pick, hf, hy, ih]

/-- An element picked from a list is picked from a longer one. -/
theorem pick_append {p : α → Bool} {xs ys : List α} {x : α} (h : pick p xs = some x) : pick p (xs ++ ys) = some x := by
  induction xs with
  | nil => simp [pick] at h
  | cons y r ih =>
    by_cases hy : p y = true
    · simp [pick, hy] at h; subst h; simp [pick, hy]
    · simp [pick, hy] at h; simp [pick, hy, ih h]

end Sys2Proof.Machine
end

