-- ==== Sys2Proof/Laws/Memory.lean ====
section
/-! SUPPORT. Laws of memories: every operation keeps the canonical form; a byte read after a write is the byte written, and every other byte is as before. -/

namespace Sys2Proof.Machine

/-- The canonical form as a statement about neighbours: every listed byte is nonzero, and addresses rise strictly. -/
theorem memory_wf_cons (a : Nat) (b : Byte) (m : List Host.Cell) :
    Memory.wf ((a, b) :: m) = true ↔ b ≠ 0 ∧ (∀ c ∈ m, a < c.1) ∧ Memory.wf m = true := by
  induction m generalizing a b with
  | nil => simp [Memory.wf]
  | cons d r ih =>
    obtain ⟨x, y⟩ := d
    simp only [Memory.wf, Bool.and_eq_true, decide_eq_true_eq, List.mem_cons, forall_eq_or_imp]
    constructor
    · rintro ⟨⟨h1, h2⟩, h3⟩
      exact ⟨h1, ⟨h2, fun c hc => Nat.lt_trans h2 (((ih x y).1 h3).2.1 c hc)⟩, h3⟩
    · rintro ⟨h1, ⟨h2, _⟩, h3⟩
      exact ⟨⟨h1, h2⟩, h3⟩

@[simp] theorem memory_wf_nil : Memory.wf [] = true := rfl

/-- An address below every listed one is not listed. -/
theorem find?_none_of_lt {m : List Host.Cell} {a : Nat} (h : ∀ c ∈ m, a < c.1) : find? m a = none := by
  induction m with
  | nil => rfl
  | cons d r ih =>
    obtain ⟨x, y⟩ := d
    have hx : a < x := h (x, y) (by simp)
    have hne : x ≠ a := by omega
    simp only [find?, hne, ↓reduceIte]
    exact ih fun c hc => h c (by simp [hc])

theorem mem_put {m : List Host.Cell} {a : Nat} {b : Byte} {c : Host.Cell} (h : c ∈ put m a b) : c = (a, b) ∨ c ∈ m := by
  induction m with
  | nil => simp [put] at h; exact Or.inl h
  | cons d r ih =>
    obtain ⟨x, y⟩ := d
    by_cases hx : x = a
    · simp [put, hx] at h; rcases h with h | h
      · exact Or.inl h
      · exact Or.inr (by simp [h])
    · by_cases g : a < x
      · simp [put, hx, g] at h; rcases h with h | h | h
        · exact Or.inl h
        · exact Or.inr (by simp [h])
        · exact Or.inr (by simp [h])
      · simp [put, hx, g] at h; rcases h with h | h
        · exact Or.inr (by simp [h])
        · rcases ih h with h | h
          · exact Or.inl h
          · exact Or.inr (by simp [h])

theorem wf_put {m : List Host.Cell} {a : Nat} {b : Byte} (hb : b ≠ 0) (h : Memory.wf m = true) : Memory.wf (put m a b) = true := by
  induction m with
  | nil => simpa [put, Memory.wf] using hb
  | cons d r ih =>
    obtain ⟨x, y⟩ := d
    obtain ⟨h1, h2, h3⟩ := (memory_wf_cons x y r).1 h
    by_cases hx : x = a
    · subst hx; simp only [put, ↓reduceIte]; exact (memory_wf_cons _ _ _).2 ⟨hb, h2, h3⟩
    · by_cases g : a < x
      · simp only [put, hx, g, ↓reduceIte]
        refine (memory_wf_cons _ _ _).2 ⟨hb, ?_, h⟩
        intro c hc
        rcases List.mem_cons.1 hc with rfl | hc
        · exact g
        · exact Nat.lt_trans g (h2 c hc)
      · simp only [put, hx, g, ↓reduceIte]
        refine (memory_wf_cons _ _ _).2 ⟨h1, ?_, ih h3⟩
        intro c hc
        rcases mem_put hc with rfl | hc
        · show x < a; omega
        · exact h2 c hc

theorem wf_filter {m : List Host.Cell} {p : Host.Cell → Bool} (h : Memory.wf m = true) : Memory.wf (m.filter p) = true := by
  induction m with
  | nil => rfl
  | cons d r ih =>
    obtain ⟨x, y⟩ := d
    obtain ⟨h1, h2, h3⟩ := (memory_wf_cons x y r).1 h
    by_cases hp : p (x, y) = true
    · simp only [List.filter, hp]
      exact (memory_wf_cons _ _ _).2 ⟨h1, fun c hc => h2 c ((List.mem_filter.1 hc).1), ih h3⟩
    · simp only [List.filter, hp]; exact ih h3

theorem wf_del {m : List Host.Cell} {a : Nat} (h : Memory.wf m = true) : Memory.wf (del m a) = true := wf_filter h

theorem wf_memSet {m : List Host.Cell} {a : Nat} {b : Byte} (h : Memory.wf m = true) : Memory.wf (memSet m a b) = true := by
  unfold memSet; split
  · exact wf_del h
  · exact wf_put ‹_› h

theorem wf_memWrite {m : List Host.Cell} {a : Nat} {bs : List Byte} (h : Memory.wf m = true) : Memory.wf (memWrite m a bs) = true := by
  induction bs generalizing m a with
  | nil => exact h
  | cons b r ih => exact ih (wf_memSet h)

theorem wf_memZero {m : List Host.Cell} {a n : Nat} (h : Memory.wf m = true) : Memory.wf (memZero m a n) = true := wf_filter h

theorem wf_memCopy {m : List Host.Cell} {a b n : Nat} (h : Memory.wf m = true) : Memory.wf (memCopy m a b n) = true := wf_memWrite h

theorem memGet_memSet_self (m : List Host.Cell) (a : Nat) (b : Byte) : memGet (memSet m a b) a = b := by
  unfold memSet memGet; split
  · simp [*]
  · simp

theorem memGet_memSet_other {m : List Host.Cell} {a j : Nat} {b : Byte} (h : j ≠ a) : memGet (memSet m a b) j = memGet m j := by
  unfold memSet memGet; split
  · exact getD_del_other m 0 h
  · exact getD_put_other m b 0 h

/-- A byte outside the written run reads as before. -/
theorem memGet_memWrite_outside {m : List Host.Cell} {a j : Nat} {bs : List Byte} (h : j < a ∨ a + bs.length ≤ j) :
    memGet (memWrite m a bs) j = memGet m j := by
  induction bs generalizing m a with
  | nil => rfl
  | cons b r ih =>
    have h' : j < a + 1 ∨ a + 1 + r.length ≤ j := by
      rcases h with h | h
      · exact Or.inl (by omega)
      · exact Or.inr (by simp at h; omega)
    have hne : j ≠ a := by
      rcases h with h | h
      · omega
      · simp at h; omega
    simp only [memWrite]
    rw [ih h', memGet_memSet_other hne]

/-- A byte of the written run reads as written. -/
theorem memGet_memWrite_inside (m : List Host.Cell) (a i : Nat) (bs : List Byte) (h : i < bs.length) : memGet (memWrite m a bs) (a + i) = bs[i] := by
  induction bs generalizing m a i with
  | nil => simp at h
  | cons b r ih =>
    cases i with
    | zero =>
      simp only [memWrite, Nat.add_zero, List.getElem_cons_zero]
      rw [memGet_memWrite_outside (Or.inl (by omega)), memGet_memSet_self]
    | succ k =>
      simp only [memWrite, List.getElem_cons_succ]
      have := ih (memSet m a b) (a + 1) k (by simpa using h)
      rw [show a + (k + 1) = a + 1 + k by omega]; exact this

/-- A zeroed byte reads zero. -/
theorem memGet_memZero_inside (m : List Host.Cell) {a n j : Nat} (h : a ≤ j ∧ j < a + n) : memGet (memZero m a n) j = 0 := by
  have : find? (memZero m a n) j = none := by
    induction m with
    | nil => rfl
    | cons e r ih =>
      obtain ⟨i, w⟩ := e
      by_cases hi : a ≤ i ∧ i < a + n
      · simpa [memZero, hi] using ih
      · have hne : i ≠ j := fun e => hi (e ▸ h)
        simp only [memZero, List.filter_cons] at ih ⊢
        rw [if_pos (by simp; omega)]
        simpa [find?, hne] using ih
  simp [memGet, getD, this]

/-- A byte outside a zeroed run reads as before. -/
theorem memGet_memZero_outside (m : List Host.Cell) {a n j : Nat} (h : ¬ (a ≤ j ∧ j < a + n)) : memGet (memZero m a n) j = memGet m j := by
  have : find? (memZero m a n) j = find? m j := by
    induction m with
    | nil => rfl
    | cons e r ih =>
      obtain ⟨i, w⟩ := e
      simp only [memZero, List.filter_cons] at ih ⊢
      by_cases hi : a ≤ i ∧ i < a + n
      · have hne : i ≠ j := fun e => h (e ▸ hi)
        rw [if_neg (by simp; omega)]
        simpa [find?, hne] using ih
      · rw [if_pos (by simp; omega)]
        by_cases hj : i = j
        · simp [find?, hj]
        · simpa [find?, hj] using ih
  simp [memGet, getD, this]

end Sys2Proof.Machine
end

