-- ==== Sys2Proof/Laws/State.lean ====
section
/-! SUPPORT. What each named update of the state changes and what it leaves, one lemma for each field. -/

namespace Sys2Proof.Machine

@[simp] theorem State.onCmd_pending (s : State) (f : CmdState → CmdState) : (s.onCmd f).pending = s.pending := rfl
@[simp] theorem State.onCmd_clk (s : State) (f : CmdState → CmdState) : (s.onCmd f).clk = s.clk := rfl
@[simp] theorem State.onCmd_draws (s : State) (f : CmdState → CmdState) : (s.onCmd f).draws = s.draws := rfl
@[simp] theorem State.onCmd_out (s : State) (f : CmdState → CmdState) : (s.onCmd f).out = s.out := rfl
@[simp] theorem State.onCmd_csr (s : State) (f : CmdState → CmdState) : (s.onCmd f).csr = s.csr := rfl
@[simp] theorem State.onCmd_loft (s : State) (f : CmdState → CmdState) : (s.onCmd f).loft = s.loft := rfl
@[simp] theorem State.onCmd_hbm (s : State) (f : CmdState → CmdState) : (s.onCmd f).hbm = s.hbm := rfl
@[simp] theorem State.onCmd_bench (s : State) (f : CmdState → CmdState) : (s.onCmd f).bench = s.bench := rfl
@[simp] theorem State.onCmd_flash (s : State) (f : CmdState → CmdState) : (s.onCmd f).flash = s.flash := rfl
@[simp] theorem State.onCmd_hall (s : State) (f : CmdState → CmdState) : (s.onCmd f).hall = s.hall := rfl
@[simp] theorem State.onCmd_cmd (s : State) (f : CmdState → CmdState) : (s.onCmd f).cmd = f s.cmd := rfl
@[simp] theorem State.onCmd_arrs (s : State) (f : CmdState → CmdState) : (s.onCmd f).arrs = s.arrs := rfl
@[simp] theorem State.onCmd_planes (s : State) (f : CmdState → CmdState) : (s.onCmd f).planes = s.planes := rfl
@[simp] theorem State.onCmd_tier (s : State) (f : CmdState → CmdState) : (s.onCmd f).tier = s.tier := rfl
@[simp] theorem State.onCmd_dvt (s : State) (f : CmdState → CmdState) : (s.onCmd f).dvt = s.dvt := rfl
@[simp] theorem State.onCmd_rem (s : State) (f : CmdState → CmdState) : (s.onCmd f).rem = s.rem := rfl
@[simp] theorem State.onCmd_yrd (s : State) (f : CmdState → CmdState) : (s.onCmd f).yrd = s.yrd := rfl
@[simp] theorem State.onCmd_prl (s : State) (f : CmdState → CmdState) : (s.onCmd f).prl = s.prl := rfl
@[simp] theorem State.onCmd_fab (s : State) (f : CmdState → CmdState) : (s.onCmd f).fab = s.fab := rfl
@[simp] theorem State.onCmd_par (s : State) (f : CmdState → CmdState) : (s.onCmd f).par = s.par := rfl
@[simp] theorem State.onCmd_flt (s : State) (f : CmdState → CmdState) : (s.onCmd f).flt = s.flt := rfl
@[simp] theorem State.onCmd_host (s : State) (f : CmdState → CmdState) : (s.onCmd f).host = s.host := rfl
@[simp] theorem State.onCmd_sec (s : State) (f : CmdState → CmdState) : (s.onCmd f).sec = s.sec := rfl
@[simp] theorem State.onCmd_pwr (s : State) (f : CmdState → CmdState) : (s.onCmd f).pwr = s.pwr := rfl

@[simp] theorem State.onTier_pending (s : State) (f : TierState → TierState) : (s.onTier f).pending = s.pending := rfl
@[simp] theorem State.onTier_clk (s : State) (f : TierState → TierState) : (s.onTier f).clk = s.clk := rfl
@[simp] theorem State.onTier_draws (s : State) (f : TierState → TierState) : (s.onTier f).draws = s.draws := rfl
@[simp] theorem State.onTier_out (s : State) (f : TierState → TierState) : (s.onTier f).out = s.out := rfl
@[simp] theorem State.onTier_csr (s : State) (f : TierState → TierState) : (s.onTier f).csr = s.csr := rfl
@[simp] theorem State.onTier_loft (s : State) (f : TierState → TierState) : (s.onTier f).loft = s.loft := rfl
@[simp] theorem State.onTier_hbm (s : State) (f : TierState → TierState) : (s.onTier f).hbm = s.hbm := rfl
@[simp] theorem State.onTier_bench (s : State) (f : TierState → TierState) : (s.onTier f).bench = s.bench := rfl
@[simp] theorem State.onTier_flash (s : State) (f : TierState → TierState) : (s.onTier f).flash = s.flash := rfl
@[simp] theorem State.onTier_hall (s : State) (f : TierState → TierState) : (s.onTier f).hall = s.hall := rfl
@[simp] theorem State.onTier_cmd (s : State) (f : TierState → TierState) : (s.onTier f).cmd = s.cmd := rfl
@[simp] theorem State.onTier_arrs (s : State) (f : TierState → TierState) : (s.onTier f).arrs = s.arrs := rfl
@[simp] theorem State.onTier_planes (s : State) (f : TierState → TierState) : (s.onTier f).planes = s.planes := rfl
@[simp] theorem State.onTier_tier (s : State) (f : TierState → TierState) : (s.onTier f).tier = f s.tier := rfl
@[simp] theorem State.onTier_dvt (s : State) (f : TierState → TierState) : (s.onTier f).dvt = s.dvt := rfl
@[simp] theorem State.onTier_rem (s : State) (f : TierState → TierState) : (s.onTier f).rem = s.rem := rfl
@[simp] theorem State.onTier_yrd (s : State) (f : TierState → TierState) : (s.onTier f).yrd = s.yrd := rfl
@[simp] theorem State.onTier_prl (s : State) (f : TierState → TierState) : (s.onTier f).prl = s.prl := rfl
@[simp] theorem State.onTier_fab (s : State) (f : TierState → TierState) : (s.onTier f).fab = s.fab := rfl
@[simp] theorem State.onTier_par (s : State) (f : TierState → TierState) : (s.onTier f).par = s.par := rfl
@[simp] theorem State.onTier_flt (s : State) (f : TierState → TierState) : (s.onTier f).flt = s.flt := rfl
@[simp] theorem State.onTier_host (s : State) (f : TierState → TierState) : (s.onTier f).host = s.host := rfl
@[simp] theorem State.onTier_sec (s : State) (f : TierState → TierState) : (s.onTier f).sec = s.sec := rfl
@[simp] theorem State.onTier_pwr (s : State) (f : TierState → TierState) : (s.onTier f).pwr = s.pwr := rfl

@[simp] theorem State.onDvt_pending (s : State) (f : DvtState → DvtState) : (s.onDvt f).pending = s.pending := rfl
@[simp] theorem State.onDvt_clk (s : State) (f : DvtState → DvtState) : (s.onDvt f).clk = s.clk := rfl
@[simp] theorem State.onDvt_draws (s : State) (f : DvtState → DvtState) : (s.onDvt f).draws = s.draws := rfl
@[simp] theorem State.onDvt_out (s : State) (f : DvtState → DvtState) : (s.onDvt f).out = s.out := rfl
@[simp] theorem State.onDvt_csr (s : State) (f : DvtState → DvtState) : (s.onDvt f).csr = s.csr := rfl
@[simp] theorem State.onDvt_loft (s : State) (f : DvtState → DvtState) : (s.onDvt f).loft = s.loft := rfl
@[simp] theorem State.onDvt_hbm (s : State) (f : DvtState → DvtState) : (s.onDvt f).hbm = s.hbm := rfl
@[simp] theorem State.onDvt_bench (s : State) (f : DvtState → DvtState) : (s.onDvt f).bench = s.bench := rfl
@[simp] theorem State.onDvt_flash (s : State) (f : DvtState → DvtState) : (s.onDvt f).flash = s.flash := rfl
@[simp] theorem State.onDvt_hall (s : State) (f : DvtState → DvtState) : (s.onDvt f).hall = s.hall := rfl
@[simp] theorem State.onDvt_cmd (s : State) (f : DvtState → DvtState) : (s.onDvt f).cmd = s.cmd := rfl
@[simp] theorem State.onDvt_arrs (s : State) (f : DvtState → DvtState) : (s.onDvt f).arrs = s.arrs := rfl
@[simp] theorem State.onDvt_planes (s : State) (f : DvtState → DvtState) : (s.onDvt f).planes = s.planes := rfl
@[simp] theorem State.onDvt_tier (s : State) (f : DvtState → DvtState) : (s.onDvt f).tier = s.tier := rfl
@[simp] theorem State.onDvt_dvt (s : State) (f : DvtState → DvtState) : (s.onDvt f).dvt = f s.dvt := rfl
@[simp] theorem State.onDvt_rem (s : State) (f : DvtState → DvtState) : (s.onDvt f).rem = s.rem := rfl
@[simp] theorem State.onDvt_yrd (s : State) (f : DvtState → DvtState) : (s.onDvt f).yrd = s.yrd := rfl
@[simp] theorem State.onDvt_prl (s : State) (f : DvtState → DvtState) : (s.onDvt f).prl = s.prl := rfl
@[simp] theorem State.onDvt_fab (s : State) (f : DvtState → DvtState) : (s.onDvt f).fab = s.fab := rfl
@[simp] theorem State.onDvt_par (s : State) (f : DvtState → DvtState) : (s.onDvt f).par = s.par := rfl
@[simp] theorem State.onDvt_flt (s : State) (f : DvtState → DvtState) : (s.onDvt f).flt = s.flt := rfl
@[simp] theorem State.onDvt_host (s : State) (f : DvtState → DvtState) : (s.onDvt f).host = s.host := rfl
@[simp] theorem State.onDvt_sec (s : State) (f : DvtState → DvtState) : (s.onDvt f).sec = s.sec := rfl
@[simp] theorem State.onDvt_pwr (s : State) (f : DvtState → DvtState) : (s.onDvt f).pwr = s.pwr := rfl

@[simp] theorem State.onRem_pending (s : State) (f : RemState → RemState) : (s.onRem f).pending = s.pending := rfl
@[simp] theorem State.onRem_clk (s : State) (f : RemState → RemState) : (s.onRem f).clk = s.clk := rfl
@[simp] theorem State.onRem_draws (s : State) (f : RemState → RemState) : (s.onRem f).draws = s.draws := rfl
@[simp] theorem State.onRem_out (s : State) (f : RemState → RemState) : (s.onRem f).out = s.out := rfl
@[simp] theorem State.onRem_csr (s : State) (f : RemState → RemState) : (s.onRem f).csr = s.csr := rfl
@[simp] theorem State.onRem_loft (s : State) (f : RemState → RemState) : (s.onRem f).loft = s.loft := rfl
@[simp] theorem State.onRem_hbm (s : State) (f : RemState → RemState) : (s.onRem f).hbm = s.hbm := rfl
@[simp] theorem State.onRem_bench (s : State) (f : RemState → RemState) : (s.onRem f).bench = s.bench := rfl
@[simp] theorem State.onRem_flash (s : State) (f : RemState → RemState) : (s.onRem f).flash = s.flash := rfl
@[simp] theorem State.onRem_hall (s : State) (f : RemState → RemState) : (s.onRem f).hall = s.hall := rfl
@[simp] theorem State.onRem_cmd (s : State) (f : RemState → RemState) : (s.onRem f).cmd = s.cmd := rfl
@[simp] theorem State.onRem_arrs (s : State) (f : RemState → RemState) : (s.onRem f).arrs = s.arrs := rfl
@[simp] theorem State.onRem_planes (s : State) (f : RemState → RemState) : (s.onRem f).planes = s.planes := rfl
@[simp] theorem State.onRem_tier (s : State) (f : RemState → RemState) : (s.onRem f).tier = s.tier := rfl
@[simp] theorem State.onRem_dvt (s : State) (f : RemState → RemState) : (s.onRem f).dvt = s.dvt := rfl
@[simp] theorem State.onRem_rem (s : State) (f : RemState → RemState) : (s.onRem f).rem = f s.rem := rfl
@[simp] theorem State.onRem_yrd (s : State) (f : RemState → RemState) : (s.onRem f).yrd = s.yrd := rfl
@[simp] theorem State.onRem_prl (s : State) (f : RemState → RemState) : (s.onRem f).prl = s.prl := rfl
@[simp] theorem State.onRem_fab (s : State) (f : RemState → RemState) : (s.onRem f).fab = s.fab := rfl
@[simp] theorem State.onRem_par (s : State) (f : RemState → RemState) : (s.onRem f).par = s.par := rfl
@[simp] theorem State.onRem_flt (s : State) (f : RemState → RemState) : (s.onRem f).flt = s.flt := rfl
@[simp] theorem State.onRem_host (s : State) (f : RemState → RemState) : (s.onRem f).host = s.host := rfl
@[simp] theorem State.onRem_sec (s : State) (f : RemState → RemState) : (s.onRem f).sec = s.sec := rfl
@[simp] theorem State.onRem_pwr (s : State) (f : RemState → RemState) : (s.onRem f).pwr = s.pwr := rfl

@[simp] theorem State.onPrl_pending (s : State) (f : PrlState → PrlState) : (s.onPrl f).pending = s.pending := rfl
@[simp] theorem State.onPrl_clk (s : State) (f : PrlState → PrlState) : (s.onPrl f).clk = s.clk := rfl
@[simp] theorem State.onPrl_draws (s : State) (f : PrlState → PrlState) : (s.onPrl f).draws = s.draws := rfl
@[simp] theorem State.onPrl_out (s : State) (f : PrlState → PrlState) : (s.onPrl f).out = s.out := rfl
@[simp] theorem State.onPrl_csr (s : State) (f : PrlState → PrlState) : (s.onPrl f).csr = s.csr := rfl
@[simp] theorem State.onPrl_loft (s : State) (f : PrlState → PrlState) : (s.onPrl f).loft = s.loft := rfl
@[simp] theorem State.onPrl_hbm (s : State) (f : PrlState → PrlState) : (s.onPrl f).hbm = s.hbm := rfl
@[simp] theorem State.onPrl_bench (s : State) (f : PrlState → PrlState) : (s.onPrl f).bench = s.bench := rfl
@[simp] theorem State.onPrl_flash (s : State) (f : PrlState → PrlState) : (s.onPrl f).flash = s.flash := rfl
@[simp] theorem State.onPrl_hall (s : State) (f : PrlState → PrlState) : (s.onPrl f).hall = s.hall := rfl
@[simp] theorem State.onPrl_cmd (s : State) (f : PrlState → PrlState) : (s.onPrl f).cmd = s.cmd := rfl
@[simp] theorem State.onPrl_arrs (s : State) (f : PrlState → PrlState) : (s.onPrl f).arrs = s.arrs := rfl
@[simp] theorem State.onPrl_planes (s : State) (f : PrlState → PrlState) : (s.onPrl f).planes = s.planes := rfl
@[simp] theorem State.onPrl_tier (s : State) (f : PrlState → PrlState) : (s.onPrl f).tier = s.tier := rfl
@[simp] theorem State.onPrl_dvt (s : State) (f : PrlState → PrlState) : (s.onPrl f).dvt = s.dvt := rfl
@[simp] theorem State.onPrl_rem (s : State) (f : PrlState → PrlState) : (s.onPrl f).rem = s.rem := rfl
@[simp] theorem State.onPrl_yrd (s : State) (f : PrlState → PrlState) : (s.onPrl f).yrd = s.yrd := rfl
@[simp] theorem State.onPrl_prl (s : State) (f : PrlState → PrlState) : (s.onPrl f).prl = f s.prl := rfl
@[simp] theorem State.onPrl_fab (s : State) (f : PrlState → PrlState) : (s.onPrl f).fab = s.fab := rfl
@[simp] theorem State.onPrl_par (s : State) (f : PrlState → PrlState) : (s.onPrl f).par = s.par := rfl
@[simp] theorem State.onPrl_flt (s : State) (f : PrlState → PrlState) : (s.onPrl f).flt = s.flt := rfl
@[simp] theorem State.onPrl_host (s : State) (f : PrlState → PrlState) : (s.onPrl f).host = s.host := rfl
@[simp] theorem State.onPrl_sec (s : State) (f : PrlState → PrlState) : (s.onPrl f).sec = s.sec := rfl
@[simp] theorem State.onPrl_pwr (s : State) (f : PrlState → PrlState) : (s.onPrl f).pwr = s.pwr := rfl

@[simp] theorem State.onYrd_pending (s : State) (f : YardState → YardState) : (s.onYrd f).pending = s.pending := rfl
@[simp] theorem State.onYrd_clk (s : State) (f : YardState → YardState) : (s.onYrd f).clk = s.clk := rfl
@[simp] theorem State.onYrd_draws (s : State) (f : YardState → YardState) : (s.onYrd f).draws = s.draws := rfl
@[simp] theorem State.onYrd_out (s : State) (f : YardState → YardState) : (s.onYrd f).out = s.out := rfl
@[simp] theorem State.onYrd_csr (s : State) (f : YardState → YardState) : (s.onYrd f).csr = s.csr := rfl
@[simp] theorem State.onYrd_loft (s : State) (f : YardState → YardState) : (s.onYrd f).loft = s.loft := rfl
@[simp] theorem State.onYrd_hbm (s : State) (f : YardState → YardState) : (s.onYrd f).hbm = s.hbm := rfl
@[simp] theorem State.onYrd_bench (s : State) (f : YardState → YardState) : (s.onYrd f).bench = s.bench := rfl
@[simp] theorem State.onYrd_flash (s : State) (f : YardState → YardState) : (s.onYrd f).flash = s.flash := rfl
@[simp] theorem State.onYrd_hall (s : State) (f : YardState → YardState) : (s.onYrd f).hall = s.hall := rfl
@[simp] theorem State.onYrd_cmd (s : State) (f : YardState → YardState) : (s.onYrd f).cmd = s.cmd := rfl
@[simp] theorem State.onYrd_arrs (s : State) (f : YardState → YardState) : (s.onYrd f).arrs = s.arrs := rfl
@[simp] theorem State.onYrd_planes (s : State) (f : YardState → YardState) : (s.onYrd f).planes = s.planes := rfl
@[simp] theorem State.onYrd_tier (s : State) (f : YardState → YardState) : (s.onYrd f).tier = s.tier := rfl
@[simp] theorem State.onYrd_dvt (s : State) (f : YardState → YardState) : (s.onYrd f).dvt = s.dvt := rfl
@[simp] theorem State.onYrd_rem (s : State) (f : YardState → YardState) : (s.onYrd f).rem = s.rem := rfl
@[simp] theorem State.onYrd_yrd (s : State) (f : YardState → YardState) : (s.onYrd f).yrd = f s.yrd := rfl
@[simp] theorem State.onYrd_prl (s : State) (f : YardState → YardState) : (s.onYrd f).prl = s.prl := rfl
@[simp] theorem State.onYrd_fab (s : State) (f : YardState → YardState) : (s.onYrd f).fab = s.fab := rfl
@[simp] theorem State.onYrd_par (s : State) (f : YardState → YardState) : (s.onYrd f).par = s.par := rfl
@[simp] theorem State.onYrd_flt (s : State) (f : YardState → YardState) : (s.onYrd f).flt = s.flt := rfl
@[simp] theorem State.onYrd_host (s : State) (f : YardState → YardState) : (s.onYrd f).host = s.host := rfl
@[simp] theorem State.onYrd_sec (s : State) (f : YardState → YardState) : (s.onYrd f).sec = s.sec := rfl
@[simp] theorem State.onYrd_pwr (s : State) (f : YardState → YardState) : (s.onYrd f).pwr = s.pwr := rfl

@[simp] theorem State.onPar_pending (s : State) (f : ParState → ParState) : (s.onPar f).pending = s.pending := rfl
@[simp] theorem State.onPar_clk (s : State) (f : ParState → ParState) : (s.onPar f).clk = s.clk := rfl
@[simp] theorem State.onPar_draws (s : State) (f : ParState → ParState) : (s.onPar f).draws = s.draws := rfl
@[simp] theorem State.onPar_out (s : State) (f : ParState → ParState) : (s.onPar f).out = s.out := rfl
@[simp] theorem State.onPar_csr (s : State) (f : ParState → ParState) : (s.onPar f).csr = s.csr := rfl
@[simp] theorem State.onPar_loft (s : State) (f : ParState → ParState) : (s.onPar f).loft = s.loft := rfl
@[simp] theorem State.onPar_hbm (s : State) (f : ParState → ParState) : (s.onPar f).hbm = s.hbm := rfl
@[simp] theorem State.onPar_bench (s : State) (f : ParState → ParState) : (s.onPar f).bench = s.bench := rfl
@[simp] theorem State.onPar_flash (s : State) (f : ParState → ParState) : (s.onPar f).flash = s.flash := rfl
@[simp] theorem State.onPar_hall (s : State) (f : ParState → ParState) : (s.onPar f).hall = s.hall := rfl
@[simp] theorem State.onPar_cmd (s : State) (f : ParState → ParState) : (s.onPar f).cmd = s.cmd := rfl
@[simp] theorem State.onPar_arrs (s : State) (f : ParState → ParState) : (s.onPar f).arrs = s.arrs := rfl
@[simp] theorem State.onPar_planes (s : State) (f : ParState → ParState) : (s.onPar f).planes = s.planes := rfl
@[simp] theorem State.onPar_tier (s : State) (f : ParState → ParState) : (s.onPar f).tier = s.tier := rfl
@[simp] theorem State.onPar_dvt (s : State) (f : ParState → ParState) : (s.onPar f).dvt = s.dvt := rfl
@[simp] theorem State.onPar_rem (s : State) (f : ParState → ParState) : (s.onPar f).rem = s.rem := rfl
@[simp] theorem State.onPar_yrd (s : State) (f : ParState → ParState) : (s.onPar f).yrd = s.yrd := rfl
@[simp] theorem State.onPar_prl (s : State) (f : ParState → ParState) : (s.onPar f).prl = s.prl := rfl
@[simp] theorem State.onPar_fab (s : State) (f : ParState → ParState) : (s.onPar f).fab = s.fab := rfl
@[simp] theorem State.onPar_par (s : State) (f : ParState → ParState) : (s.onPar f).par = f s.par := rfl
@[simp] theorem State.onPar_flt (s : State) (f : ParState → ParState) : (s.onPar f).flt = s.flt := rfl
@[simp] theorem State.onPar_host (s : State) (f : ParState → ParState) : (s.onPar f).host = s.host := rfl
@[simp] theorem State.onPar_sec (s : State) (f : ParState → ParState) : (s.onPar f).sec = s.sec := rfl
@[simp] theorem State.onPar_pwr (s : State) (f : ParState → ParState) : (s.onPar f).pwr = s.pwr := rfl

@[simp] theorem State.onFab_pending (s : State) (f : FabState → FabState) : (s.onFab f).pending = s.pending := rfl
@[simp] theorem State.onFab_clk (s : State) (f : FabState → FabState) : (s.onFab f).clk = s.clk := rfl
@[simp] theorem State.onFab_draws (s : State) (f : FabState → FabState) : (s.onFab f).draws = s.draws := rfl
@[simp] theorem State.onFab_out (s : State) (f : FabState → FabState) : (s.onFab f).out = s.out := rfl
@[simp] theorem State.onFab_csr (s : State) (f : FabState → FabState) : (s.onFab f).csr = s.csr := rfl
@[simp] theorem State.onFab_loft (s : State) (f : FabState → FabState) : (s.onFab f).loft = s.loft := rfl
@[simp] theorem State.onFab_hbm (s : State) (f : FabState → FabState) : (s.onFab f).hbm = s.hbm := rfl
@[simp] theorem State.onFab_bench (s : State) (f : FabState → FabState) : (s.onFab f).bench = s.bench := rfl
@[simp] theorem State.onFab_flash (s : State) (f : FabState → FabState) : (s.onFab f).flash = s.flash := rfl
@[simp] theorem State.onFab_hall (s : State) (f : FabState → FabState) : (s.onFab f).hall = s.hall := rfl
@[simp] theorem State.onFab_cmd (s : State) (f : FabState → FabState) : (s.onFab f).cmd = s.cmd := rfl
@[simp] theorem State.onFab_arrs (s : State) (f : FabState → FabState) : (s.onFab f).arrs = s.arrs := rfl
@[simp] theorem State.onFab_planes (s : State) (f : FabState → FabState) : (s.onFab f).planes = s.planes := rfl
@[simp] theorem State.onFab_tier (s : State) (f : FabState → FabState) : (s.onFab f).tier = s.tier := rfl
@[simp] theorem State.onFab_dvt (s : State) (f : FabState → FabState) : (s.onFab f).dvt = s.dvt := rfl
@[simp] theorem State.onFab_rem (s : State) (f : FabState → FabState) : (s.onFab f).rem = s.rem := rfl
@[simp] theorem State.onFab_yrd (s : State) (f : FabState → FabState) : (s.onFab f).yrd = s.yrd := rfl
@[simp] theorem State.onFab_prl (s : State) (f : FabState → FabState) : (s.onFab f).prl = s.prl := rfl
@[simp] theorem State.onFab_fab (s : State) (f : FabState → FabState) : (s.onFab f).fab = f s.fab := rfl
@[simp] theorem State.onFab_par (s : State) (f : FabState → FabState) : (s.onFab f).par = s.par := rfl
@[simp] theorem State.onFab_flt (s : State) (f : FabState → FabState) : (s.onFab f).flt = s.flt := rfl
@[simp] theorem State.onFab_host (s : State) (f : FabState → FabState) : (s.onFab f).host = s.host := rfl
@[simp] theorem State.onFab_sec (s : State) (f : FabState → FabState) : (s.onFab f).sec = s.sec := rfl
@[simp] theorem State.onFab_pwr (s : State) (f : FabState → FabState) : (s.onFab f).pwr = s.pwr := rfl

@[simp] theorem State.onFlt_pending (s : State) (f : FltState → FltState) : (s.onFlt f).pending = s.pending := rfl
@[simp] theorem State.onFlt_clk (s : State) (f : FltState → FltState) : (s.onFlt f).clk = s.clk := rfl
@[simp] theorem State.onFlt_draws (s : State) (f : FltState → FltState) : (s.onFlt f).draws = s.draws := rfl
@[simp] theorem State.onFlt_out (s : State) (f : FltState → FltState) : (s.onFlt f).out = s.out := rfl
@[simp] theorem State.onFlt_csr (s : State) (f : FltState → FltState) : (s.onFlt f).csr = s.csr := rfl
@[simp] theorem State.onFlt_loft (s : State) (f : FltState → FltState) : (s.onFlt f).loft = s.loft := rfl
@[simp] theorem State.onFlt_hbm (s : State) (f : FltState → FltState) : (s.onFlt f).hbm = s.hbm := rfl
@[simp] theorem State.onFlt_bench (s : State) (f : FltState → FltState) : (s.onFlt f).bench = s.bench := rfl
@[simp] theorem State.onFlt_flash (s : State) (f : FltState → FltState) : (s.onFlt f).flash = s.flash := rfl
@[simp] theorem State.onFlt_hall (s : State) (f : FltState → FltState) : (s.onFlt f).hall = s.hall := rfl
@[simp] theorem State.onFlt_cmd (s : State) (f : FltState → FltState) : (s.onFlt f).cmd = s.cmd := rfl
@[simp] theorem State.onFlt_arrs (s : State) (f : FltState → FltState) : (s.onFlt f).arrs = s.arrs := rfl
@[simp] theorem State.onFlt_planes (s : State) (f : FltState → FltState) : (s.onFlt f).planes = s.planes := rfl
@[simp] theorem State.onFlt_tier (s : State) (f : FltState → FltState) : (s.onFlt f).tier = s.tier := rfl
@[simp] theorem State.onFlt_dvt (s : State) (f : FltState → FltState) : (s.onFlt f).dvt = s.dvt := rfl
@[simp] theorem State.onFlt_rem (s : State) (f : FltState → FltState) : (s.onFlt f).rem = s.rem := rfl
@[simp] theorem State.onFlt_yrd (s : State) (f : FltState → FltState) : (s.onFlt f).yrd = s.yrd := rfl
@[simp] theorem State.onFlt_prl (s : State) (f : FltState → FltState) : (s.onFlt f).prl = s.prl := rfl
@[simp] theorem State.onFlt_fab (s : State) (f : FltState → FltState) : (s.onFlt f).fab = s.fab := rfl
@[simp] theorem State.onFlt_par (s : State) (f : FltState → FltState) : (s.onFlt f).par = s.par := rfl
@[simp] theorem State.onFlt_flt (s : State) (f : FltState → FltState) : (s.onFlt f).flt = f s.flt := rfl
@[simp] theorem State.onFlt_host (s : State) (f : FltState → FltState) : (s.onFlt f).host = s.host := rfl
@[simp] theorem State.onFlt_sec (s : State) (f : FltState → FltState) : (s.onFlt f).sec = s.sec := rfl
@[simp] theorem State.onFlt_pwr (s : State) (f : FltState → FltState) : (s.onFlt f).pwr = s.pwr := rfl

@[simp] theorem State.onHost_pending (s : State) (f : HostState → HostState) : (s.onHost f).pending = s.pending := rfl
@[simp] theorem State.onHost_clk (s : State) (f : HostState → HostState) : (s.onHost f).clk = s.clk := rfl
@[simp] theorem State.onHost_draws (s : State) (f : HostState → HostState) : (s.onHost f).draws = s.draws := rfl
@[simp] theorem State.onHost_out (s : State) (f : HostState → HostState) : (s.onHost f).out = s.out := rfl
@[simp] theorem State.onHost_csr (s : State) (f : HostState → HostState) : (s.onHost f).csr = s.csr := rfl
@[simp] theorem State.onHost_loft (s : State) (f : HostState → HostState) : (s.onHost f).loft = s.loft := rfl
@[simp] theorem State.onHost_hbm (s : State) (f : HostState → HostState) : (s.onHost f).hbm = s.hbm := rfl
@[simp] theorem State.onHost_bench (s : State) (f : HostState → HostState) : (s.onHost f).bench = s.bench := rfl
@[simp] theorem State.onHost_flash (s : State) (f : HostState → HostState) : (s.onHost f).flash = s.flash := rfl
@[simp] theorem State.onHost_hall (s : State) (f : HostState → HostState) : (s.onHost f).hall = s.hall := rfl
@[simp] theorem State.onHost_cmd (s : State) (f : HostState → HostState) : (s.onHost f).cmd = s.cmd := rfl
@[simp] theorem State.onHost_arrs (s : State) (f : HostState → HostState) : (s.onHost f).arrs = s.arrs := rfl
@[simp] theorem State.onHost_planes (s : State) (f : HostState → HostState) : (s.onHost f).planes = s.planes := rfl
@[simp] theorem State.onHost_tier (s : State) (f : HostState → HostState) : (s.onHost f).tier = s.tier := rfl
@[simp] theorem State.onHost_dvt (s : State) (f : HostState → HostState) : (s.onHost f).dvt = s.dvt := rfl
@[simp] theorem State.onHost_rem (s : State) (f : HostState → HostState) : (s.onHost f).rem = s.rem := rfl
@[simp] theorem State.onHost_yrd (s : State) (f : HostState → HostState) : (s.onHost f).yrd = s.yrd := rfl
@[simp] theorem State.onHost_prl (s : State) (f : HostState → HostState) : (s.onHost f).prl = s.prl := rfl
@[simp] theorem State.onHost_fab (s : State) (f : HostState → HostState) : (s.onHost f).fab = s.fab := rfl
@[simp] theorem State.onHost_par (s : State) (f : HostState → HostState) : (s.onHost f).par = s.par := rfl
@[simp] theorem State.onHost_flt (s : State) (f : HostState → HostState) : (s.onHost f).flt = s.flt := rfl
@[simp] theorem State.onHost_host (s : State) (f : HostState → HostState) : (s.onHost f).host = f s.host := rfl
@[simp] theorem State.onHost_sec (s : State) (f : HostState → HostState) : (s.onHost f).sec = s.sec := rfl
@[simp] theorem State.onHost_pwr (s : State) (f : HostState → HostState) : (s.onHost f).pwr = s.pwr := rfl

@[simp] theorem State.emit_pending (s : State) (o : Out) : (s.emit o).pending = s.pending := rfl
@[simp] theorem State.emit_clk (s : State) (o : Out) : (s.emit o).clk = s.clk := rfl
@[simp] theorem State.emit_draws (s : State) (o : Out) : (s.emit o).draws = s.draws := rfl
@[simp] theorem State.emit_out (s : State) (o : Out) : (s.emit o).out = s.out ++ [o] := rfl
@[simp] theorem State.emit_csr (s : State) (o : Out) : (s.emit o).csr = s.csr := rfl
@[simp] theorem State.emit_loft (s : State) (o : Out) : (s.emit o).loft = s.loft := rfl
@[simp] theorem State.emit_hbm (s : State) (o : Out) : (s.emit o).hbm = s.hbm := rfl
@[simp] theorem State.emit_bench (s : State) (o : Out) : (s.emit o).bench = s.bench := rfl
@[simp] theorem State.emit_flash (s : State) (o : Out) : (s.emit o).flash = s.flash := rfl
@[simp] theorem State.emit_hall (s : State) (o : Out) : (s.emit o).hall = s.hall := rfl
@[simp] theorem State.emit_cmd (s : State) (o : Out) : (s.emit o).cmd = s.cmd := rfl
@[simp] theorem State.emit_arrs (s : State) (o : Out) : (s.emit o).arrs = s.arrs := rfl
@[simp] theorem State.emit_planes (s : State) (o : Out) : (s.emit o).planes = s.planes := rfl
@[simp] theorem State.emit_tier (s : State) (o : Out) : (s.emit o).tier = s.tier := rfl
@[simp] theorem State.emit_dvt (s : State) (o : Out) : (s.emit o).dvt = s.dvt := rfl
@[simp] theorem State.emit_rem (s : State) (o : Out) : (s.emit o).rem = s.rem := rfl
@[simp] theorem State.emit_yrd (s : State) (o : Out) : (s.emit o).yrd = s.yrd := rfl
@[simp] theorem State.emit_prl (s : State) (o : Out) : (s.emit o).prl = s.prl := rfl
@[simp] theorem State.emit_fab (s : State) (o : Out) : (s.emit o).fab = s.fab := rfl
@[simp] theorem State.emit_par (s : State) (o : Out) : (s.emit o).par = s.par := rfl
@[simp] theorem State.emit_flt (s : State) (o : Out) : (s.emit o).flt = s.flt := rfl
@[simp] theorem State.emit_host (s : State) (o : Out) : (s.emit o).host = s.host := rfl
@[simp] theorem State.emit_sec (s : State) (o : Out) : (s.emit o).sec = s.sec := rfl
@[simp] theorem State.emit_pwr (s : State) (o : Out) : (s.emit o).pwr = s.pwr := rfl

@[simp] theorem State.draw_pending (s : State) : s.draw.2.pending = s.pending := rfl
@[simp] theorem State.draw_clk (s : State) : s.draw.2.clk = s.clk := rfl
@[simp] theorem State.draw_draws (s : State) : s.draw.2.draws = s.draws + 1 := rfl
@[simp] theorem State.draw_out (s : State) : s.draw.2.out = s.out := rfl
@[simp] theorem State.draw_csr (s : State) : s.draw.2.csr = s.csr := rfl
@[simp] theorem State.draw_loft (s : State) : s.draw.2.loft = s.loft := rfl
@[simp] theorem State.draw_hbm (s : State) : s.draw.2.hbm = s.hbm := rfl
@[simp] theorem State.draw_bench (s : State) : s.draw.2.bench = s.bench := rfl
@[simp] theorem State.draw_flash (s : State) : s.draw.2.flash = s.flash := rfl
@[simp] theorem State.draw_hall (s : State) : s.draw.2.hall = s.hall := rfl
@[simp] theorem State.draw_cmd (s : State) : s.draw.2.cmd = s.cmd := rfl
@[simp] theorem State.draw_arrs (s : State) : s.draw.2.arrs = s.arrs := rfl
@[simp] theorem State.draw_planes (s : State) : s.draw.2.planes = s.planes := rfl
@[simp] theorem State.draw_tier (s : State) : s.draw.2.tier = s.tier := rfl
@[simp] theorem State.draw_dvt (s : State) : s.draw.2.dvt = s.dvt := rfl
@[simp] theorem State.draw_rem (s : State) : s.draw.2.rem = s.rem := rfl
@[simp] theorem State.draw_yrd (s : State) : s.draw.2.yrd = s.yrd := rfl
@[simp] theorem State.draw_prl (s : State) : s.draw.2.prl = s.prl := rfl
@[simp] theorem State.draw_fab (s : State) : s.draw.2.fab = s.fab := rfl
@[simp] theorem State.draw_par (s : State) : s.draw.2.par = s.par := rfl
@[simp] theorem State.draw_flt (s : State) : s.draw.2.flt = s.flt := rfl
@[simp] theorem State.draw_host (s : State) : s.draw.2.host = s.host := rfl
@[simp] theorem State.draw_sec (s : State) : s.draw.2.sec = s.sec := rfl
@[simp] theorem State.draw_pwr (s : State) : s.draw.2.pwr = s.pwr := rfl

@[simp] theorem State.setReg_pending (s : State) (off : Nat) (v : W64) : (s.setReg off v).pending = s.pending := rfl
@[simp] theorem State.setReg_clk (s : State) (off : Nat) (v : W64) : (s.setReg off v).clk = s.clk := rfl
@[simp] theorem State.setReg_draws (s : State) (off : Nat) (v : W64) : (s.setReg off v).draws = s.draws := rfl
@[simp] theorem State.setReg_out (s : State) (off : Nat) (v : W64) : (s.setReg off v).out = s.out := rfl
@[simp] theorem State.setReg_loft (s : State) (off : Nat) (v : W64) : (s.setReg off v).loft = s.loft := rfl
@[simp] theorem State.setReg_hbm (s : State) (off : Nat) (v : W64) : (s.setReg off v).hbm = s.hbm := rfl
@[simp] theorem State.setReg_bench (s : State) (off : Nat) (v : W64) : (s.setReg off v).bench = s.bench := rfl
@[simp] theorem State.setReg_flash (s : State) (off : Nat) (v : W64) : (s.setReg off v).flash = s.flash := rfl
@[simp] theorem State.setReg_hall (s : State) (off : Nat) (v : W64) : (s.setReg off v).hall = s.hall := rfl
@[simp] theorem State.setReg_cmd (s : State) (off : Nat) (v : W64) : (s.setReg off v).cmd = s.cmd := rfl
@[simp] theorem State.setReg_arrs (s : State) (off : Nat) (v : W64) : (s.setReg off v).arrs = s.arrs := rfl
@[simp] theorem State.setReg_planes (s : State) (off : Nat) (v : W64) : (s.setReg off v).planes = s.planes := rfl
@[simp] theorem State.setReg_tier (s : State) (off : Nat) (v : W64) : (s.setReg off v).tier = s.tier := rfl
@[simp] theorem State.setReg_dvt (s : State) (off : Nat) (v : W64) : (s.setReg off v).dvt = s.dvt := rfl
@[simp] theorem State.setReg_rem (s : State) (off : Nat) (v : W64) : (s.setReg off v).rem = s.rem := rfl
@[simp] theorem State.setReg_yrd (s : State) (off : Nat) (v : W64) : (s.setReg off v).yrd = s.yrd := rfl
@[simp] theorem State.setReg_prl (s : State) (off : Nat) (v : W64) : (s.setReg off v).prl = s.prl := rfl
@[simp] theorem State.setReg_fab (s : State) (off : Nat) (v : W64) : (s.setReg off v).fab = s.fab := rfl
@[simp] theorem State.setReg_par (s : State) (off : Nat) (v : W64) : (s.setReg off v).par = s.par := rfl
@[simp] theorem State.setReg_flt (s : State) (off : Nat) (v : W64) : (s.setReg off v).flt = s.flt := rfl
@[simp] theorem State.setReg_host (s : State) (off : Nat) (v : W64) : (s.setReg off v).host = s.host := rfl
@[simp] theorem State.setReg_sec (s : State) (off : Nat) (v : W64) : (s.setReg off v).sec = s.sec := rfl
@[simp] theorem State.setReg_pwr (s : State) (off : Nat) (v : W64) : (s.setReg off v).pwr = s.pwr := rfl

@[simp] theorem State.setQueue_pending (s : State) (q : Nat) (x : Queue) : (s.setQueue q x).pending = s.pending := rfl
@[simp] theorem State.setQueue_clk (s : State) (q : Nat) (x : Queue) : (s.setQueue q x).clk = s.clk := rfl
@[simp] theorem State.setQueue_draws (s : State) (q : Nat) (x : Queue) : (s.setQueue q x).draws = s.draws := rfl
@[simp] theorem State.setQueue_out (s : State) (q : Nat) (x : Queue) : (s.setQueue q x).out = s.out := rfl
@[simp] theorem State.setQueue_csr (s : State) (q : Nat) (x : Queue) : (s.setQueue q x).csr = s.csr := rfl
@[simp] theorem State.setQueue_loft (s : State) (q : Nat) (x : Queue) : (s.setQueue q x).loft = s.loft := rfl
@[simp] theorem State.setQueue_hbm (s : State) (q : Nat) (x : Queue) : (s.setQueue q x).hbm = s.hbm := rfl
@[simp] theorem State.setQueue_bench (s : State) (q : Nat) (x : Queue) : (s.setQueue q x).bench = s.bench := rfl
@[simp] theorem State.setQueue_flash (s : State) (q : Nat) (x : Queue) : (s.setQueue q x).flash = s.flash := rfl
@[simp] theorem State.setQueue_hall (s : State) (q : Nat) (x : Queue) : (s.setQueue q x).hall = s.hall := rfl
@[simp] theorem State.setQueue_arrs (s : State) (q : Nat) (x : Queue) : (s.setQueue q x).arrs = s.arrs := rfl
@[simp] theorem State.setQueue_planes (s : State) (q : Nat) (x : Queue) : (s.setQueue q x).planes = s.planes := rfl
@[simp] theorem State.setQueue_tier (s : State) (q : Nat) (x : Queue) : (s.setQueue q x).tier = s.tier := rfl
@[simp] theorem State.setQueue_dvt (s : State) (q : Nat) (x : Queue) : (s.setQueue q x).dvt = s.dvt := rfl
@[simp] theorem State.setQueue_rem (s : State) (q : Nat) (x : Queue) : (s.setQueue q x).rem = s.rem := rfl
@[simp] theorem State.setQueue_yrd (s : State) (q : Nat) (x : Queue) : (s.setQueue q x).yrd = s.yrd := rfl
@[simp] theorem State.setQueue_prl (s : State) (q : Nat) (x : Queue) : (s.setQueue q x).prl = s.prl := rfl
@[simp] theorem State.setQueue_fab (s : State) (q : Nat) (x : Queue) : (s.setQueue q x).fab = s.fab := rfl
@[simp] theorem State.setQueue_par (s : State) (q : Nat) (x : Queue) : (s.setQueue q x).par = s.par := rfl
@[simp] theorem State.setQueue_flt (s : State) (q : Nat) (x : Queue) : (s.setQueue q x).flt = s.flt := rfl
@[simp] theorem State.setQueue_host (s : State) (q : Nat) (x : Queue) : (s.setQueue q x).host = s.host := rfl
@[simp] theorem State.setQueue_sec (s : State) (q : Nat) (x : Queue) : (s.setQueue q x).sec = s.sec := rfl
@[simp] theorem State.setQueue_pwr (s : State) (q : Nat) (x : Queue) : (s.setQueue q x).pwr = s.pwr := rfl

@[simp] theorem State.setCq_pending (s : State) (q : Nat) (x : Cq) : (s.setCq q x).pending = s.pending := rfl
@[simp] theorem State.setCq_clk (s : State) (q : Nat) (x : Cq) : (s.setCq q x).clk = s.clk := rfl
@[simp] theorem State.setCq_draws (s : State) (q : Nat) (x : Cq) : (s.setCq q x).draws = s.draws := rfl
@[simp] theorem State.setCq_out (s : State) (q : Nat) (x : Cq) : (s.setCq q x).out = s.out := rfl
@[simp] theorem State.setCq_csr (s : State) (q : Nat) (x : Cq) : (s.setCq q x).csr = s.csr := rfl
@[simp] theorem State.setCq_loft (s : State) (q : Nat) (x : Cq) : (s.setCq q x).loft = s.loft := rfl
@[simp] theorem State.setCq_hbm (s : State) (q : Nat) (x : Cq) : (s.setCq q x).hbm = s.hbm := rfl
@[simp] theorem State.setCq_bench (s : State) (q : Nat) (x : Cq) : (s.setCq q x).bench = s.bench := rfl
@[simp] theorem State.setCq_flash (s : State) (q : Nat) (x : Cq) : (s.setCq q x).flash = s.flash := rfl
@[simp] theorem State.setCq_hall (s : State) (q : Nat) (x : Cq) : (s.setCq q x).hall = s.hall := rfl
@[simp] theorem State.setCq_arrs (s : State) (q : Nat) (x : Cq) : (s.setCq q x).arrs = s.arrs := rfl
@[simp] theorem State.setCq_planes (s : State) (q : Nat) (x : Cq) : (s.setCq q x).planes = s.planes := rfl
@[simp] theorem State.setCq_tier (s : State) (q : Nat) (x : Cq) : (s.setCq q x).tier = s.tier := rfl
@[simp] theorem State.setCq_dvt (s : State) (q : Nat) (x : Cq) : (s.setCq q x).dvt = s.dvt := rfl
@[simp] theorem State.setCq_rem (s : State) (q : Nat) (x : Cq) : (s.setCq q x).rem = s.rem := rfl
@[simp] theorem State.setCq_yrd (s : State) (q : Nat) (x : Cq) : (s.setCq q x).yrd = s.yrd := rfl
@[simp] theorem State.setCq_prl (s : State) (q : Nat) (x : Cq) : (s.setCq q x).prl = s.prl := rfl
@[simp] theorem State.setCq_fab (s : State) (q : Nat) (x : Cq) : (s.setCq q x).fab = s.fab := rfl
@[simp] theorem State.setCq_par (s : State) (q : Nat) (x : Cq) : (s.setCq q x).par = s.par := rfl
@[simp] theorem State.setCq_flt (s : State) (q : Nat) (x : Cq) : (s.setCq q x).flt = s.flt := rfl
@[simp] theorem State.setCq_host (s : State) (q : Nat) (x : Cq) : (s.setCq q x).host = s.host := rfl
@[simp] theorem State.setCq_sec (s : State) (q : Nat) (x : Cq) : (s.setCq q x).sec = s.sec := rfl
@[simp] theorem State.setCq_pwr (s : State) (q : Nat) (x : Cq) : (s.setCq q x).pwr = s.pwr := rfl

@[simp] theorem State.updIn_pending (s : State) (c : CmdRef) (f : InFlight → InFlight) : (s.updIn c f).pending = s.pending := rfl
@[simp] theorem State.updIn_clk (s : State) (c : CmdRef) (f : InFlight → InFlight) : (s.updIn c f).clk = s.clk := rfl
@[simp] theorem State.updIn_draws (s : State) (c : CmdRef) (f : InFlight → InFlight) : (s.updIn c f).draws = s.draws := rfl
@[simp] theorem State.updIn_out (s : State) (c : CmdRef) (f : InFlight → InFlight) : (s.updIn c f).out = s.out := rfl
@[simp] theorem State.updIn_csr (s : State) (c : CmdRef) (f : InFlight → InFlight) : (s.updIn c f).csr = s.csr := rfl
@[simp] theorem State.updIn_loft (s : State) (c : CmdRef) (f : InFlight → InFlight) : (s.updIn c f).loft = s.loft := rfl
@[simp] theorem State.updIn_hbm (s : State) (c : CmdRef) (f : InFlight → InFlight) : (s.updIn c f).hbm = s.hbm := rfl
@[simp] theorem State.updIn_bench (s : State) (c : CmdRef) (f : InFlight → InFlight) : (s.updIn c f).bench = s.bench := rfl
@[simp] theorem State.updIn_flash (s : State) (c : CmdRef) (f : InFlight → InFlight) : (s.updIn c f).flash = s.flash := rfl
@[simp] theorem State.updIn_hall (s : State) (c : CmdRef) (f : InFlight → InFlight) : (s.updIn c f).hall = s.hall := rfl
@[simp] theorem State.updIn_arrs (s : State) (c : CmdRef) (f : InFlight → InFlight) : (s.updIn c f).arrs = s.arrs := rfl
@[simp] theorem State.updIn_planes (s : State) (c : CmdRef) (f : InFlight → InFlight) : (s.updIn c f).planes = s.planes := rfl
@[simp] theorem State.updIn_tier (s : State) (c : CmdRef) (f : InFlight → InFlight) : (s.updIn c f).tier = s.tier := rfl
@[simp] theorem State.updIn_dvt (s : State) (c : CmdRef) (f : InFlight → InFlight) : (s.updIn c f).dvt = s.dvt := rfl
@[simp] theorem State.updIn_rem (s : State) (c : CmdRef) (f : InFlight → InFlight) : (s.updIn c f).rem = s.rem := rfl
@[simp] theorem State.updIn_yrd (s : State) (c : CmdRef) (f : InFlight → InFlight) : (s.updIn c f).yrd = s.yrd := rfl
@[simp] theorem State.updIn_prl (s : State) (c : CmdRef) (f : InFlight → InFlight) : (s.updIn c f).prl = s.prl := rfl
@[simp] theorem State.updIn_fab (s : State) (c : CmdRef) (f : InFlight → InFlight) : (s.updIn c f).fab = s.fab := rfl
@[simp] theorem State.updIn_par (s : State) (c : CmdRef) (f : InFlight → InFlight) : (s.updIn c f).par = s.par := rfl
@[simp] theorem State.updIn_flt (s : State) (c : CmdRef) (f : InFlight → InFlight) : (s.updIn c f).flt = s.flt := rfl
@[simp] theorem State.updIn_host (s : State) (c : CmdRef) (f : InFlight → InFlight) : (s.updIn c f).host = s.host := rfl
@[simp] theorem State.updIn_sec (s : State) (c : CmdRef) (f : InFlight → InFlight) : (s.updIn c f).sec = s.sec := rfl
@[simp] theorem State.updIn_pwr (s : State) (c : CmdRef) (f : InFlight → InFlight) : (s.updIn c f).pwr = s.pwr := rfl

@[simp] theorem State.updPlank_pending (s : State) (p i : Nat) (f : Plank → Plank) : (s.updPlank p i f).pending = s.pending := rfl
@[simp] theorem State.updPlank_clk (s : State) (p i : Nat) (f : Plank → Plank) : (s.updPlank p i f).clk = s.clk := rfl
@[simp] theorem State.updPlank_draws (s : State) (p i : Nat) (f : Plank → Plank) : (s.updPlank p i f).draws = s.draws := rfl
@[simp] theorem State.updPlank_out (s : State) (p i : Nat) (f : Plank → Plank) : (s.updPlank p i f).out = s.out := rfl
@[simp] theorem State.updPlank_csr (s : State) (p i : Nat) (f : Plank → Plank) : (s.updPlank p i f).csr = s.csr := rfl
@[simp] theorem State.updPlank_loft (s : State) (p i : Nat) (f : Plank → Plank) : (s.updPlank p i f).loft = s.loft := rfl
@[simp] theorem State.updPlank_hbm (s : State) (p i : Nat) (f : Plank → Plank) : (s.updPlank p i f).hbm = s.hbm := rfl
@[simp] theorem State.updPlank_bench (s : State) (p i : Nat) (f : Plank → Plank) : (s.updPlank p i f).bench = s.bench := rfl
@[simp] theorem State.updPlank_flash (s : State) (p i : Nat) (f : Plank → Plank) : (s.updPlank p i f).flash = s.flash := rfl
@[simp] theorem State.updPlank_hall (s : State) (p i : Nat) (f : Plank → Plank) : (s.updPlank p i f).hall = s.hall := rfl
@[simp] theorem State.updPlank_cmd (s : State) (p i : Nat) (f : Plank → Plank) : (s.updPlank p i f).cmd = s.cmd := rfl
@[simp] theorem State.updPlank_arrs (s : State) (p i : Nat) (f : Plank → Plank) : (s.updPlank p i f).arrs = s.arrs := rfl
@[simp] theorem State.updPlank_planes (s : State) (p i : Nat) (f : Plank → Plank) : (s.updPlank p i f).planes = s.planes := rfl
@[simp] theorem State.updPlank_dvt (s : State) (p i : Nat) (f : Plank → Plank) : (s.updPlank p i f).dvt = s.dvt := rfl
@[simp] theorem State.updPlank_rem (s : State) (p i : Nat) (f : Plank → Plank) : (s.updPlank p i f).rem = s.rem := rfl
@[simp] theorem State.updPlank_yrd (s : State) (p i : Nat) (f : Plank → Plank) : (s.updPlank p i f).yrd = s.yrd := rfl
@[simp] theorem State.updPlank_prl (s : State) (p i : Nat) (f : Plank → Plank) : (s.updPlank p i f).prl = s.prl := rfl
@[simp] theorem State.updPlank_fab (s : State) (p i : Nat) (f : Plank → Plank) : (s.updPlank p i f).fab = s.fab := rfl
@[simp] theorem State.updPlank_par (s : State) (p i : Nat) (f : Plank → Plank) : (s.updPlank p i f).par = s.par := rfl
@[simp] theorem State.updPlank_flt (s : State) (p i : Nat) (f : Plank → Plank) : (s.updPlank p i f).flt = s.flt := rfl
@[simp] theorem State.updPlank_host (s : State) (p i : Nat) (f : Plank → Plank) : (s.updPlank p i f).host = s.host := rfl
@[simp] theorem State.updPlank_sec (s : State) (p i : Nat) (f : Plank → Plank) : (s.updPlank p i f).sec = s.sec := rfl
@[simp] theorem State.updPlank_pwr (s : State) (p i : Nat) (f : Plank → Plank) : (s.updPlank p i f).pwr = s.pwr := rfl

@[simp] theorem State.updLoftPlank_pending (s : State) (i : Nat) (f : LoftPlank → LoftPlank) : (s.updLoftPlank i f).pending = s.pending := rfl
@[simp] theorem State.updLoftPlank_clk (s : State) (i : Nat) (f : LoftPlank → LoftPlank) : (s.updLoftPlank i f).clk = s.clk := rfl
@[simp] theorem State.updLoftPlank_draws (s : State) (i : Nat) (f : LoftPlank → LoftPlank) : (s.updLoftPlank i f).draws = s.draws := rfl
@[simp] theorem State.updLoftPlank_out (s : State) (i : Nat) (f : LoftPlank → LoftPlank) : (s.updLoftPlank i f).out = s.out := rfl
@[simp] theorem State.updLoftPlank_csr (s : State) (i : Nat) (f : LoftPlank → LoftPlank) : (s.updLoftPlank i f).csr = s.csr := rfl
@[simp] theorem State.updLoftPlank_loft (s : State) (i : Nat) (f : LoftPlank → LoftPlank) : (s.updLoftPlank i f).loft = s.loft := rfl
@[simp] theorem State.updLoftPlank_hbm (s : State) (i : Nat) (f : LoftPlank → LoftPlank) : (s.updLoftPlank i f).hbm = s.hbm := rfl
@[simp] theorem State.updLoftPlank_bench (s : State) (i : Nat) (f : LoftPlank → LoftPlank) : (s.updLoftPlank i f).bench = s.bench := rfl
@[simp] theorem State.updLoftPlank_flash (s : State) (i : Nat) (f : LoftPlank → LoftPlank) : (s.updLoftPlank i f).flash = s.flash := rfl
@[simp] theorem State.updLoftPlank_hall (s : State) (i : Nat) (f : LoftPlank → LoftPlank) : (s.updLoftPlank i f).hall = s.hall := rfl
@[simp] theorem State.updLoftPlank_cmd (s : State) (i : Nat) (f : LoftPlank → LoftPlank) : (s.updLoftPlank i f).cmd = s.cmd := rfl
@[simp] theorem State.updLoftPlank_arrs (s : State) (i : Nat) (f : LoftPlank → LoftPlank) : (s.updLoftPlank i f).arrs = s.arrs := rfl
@[simp] theorem State.updLoftPlank_planes (s : State) (i : Nat) (f : LoftPlank → LoftPlank) : (s.updLoftPlank i f).planes = s.planes := rfl
@[simp] theorem State.updLoftPlank_dvt (s : State) (i : Nat) (f : LoftPlank → LoftPlank) : (s.updLoftPlank i f).dvt = s.dvt := rfl
@[simp] theorem State.updLoftPlank_rem (s : State) (i : Nat) (f : LoftPlank → LoftPlank) : (s.updLoftPlank i f).rem = s.rem := rfl
@[simp] theorem State.updLoftPlank_yrd (s : State) (i : Nat) (f : LoftPlank → LoftPlank) : (s.updLoftPlank i f).yrd = s.yrd := rfl
@[simp] theorem State.updLoftPlank_prl (s : State) (i : Nat) (f : LoftPlank → LoftPlank) : (s.updLoftPlank i f).prl = s.prl := rfl
@[simp] theorem State.updLoftPlank_fab (s : State) (i : Nat) (f : LoftPlank → LoftPlank) : (s.updLoftPlank i f).fab = s.fab := rfl
@[simp] theorem State.updLoftPlank_par (s : State) (i : Nat) (f : LoftPlank → LoftPlank) : (s.updLoftPlank i f).par = s.par := rfl
@[simp] theorem State.updLoftPlank_flt (s : State) (i : Nat) (f : LoftPlank → LoftPlank) : (s.updLoftPlank i f).flt = s.flt := rfl
@[simp] theorem State.updLoftPlank_host (s : State) (i : Nat) (f : LoftPlank → LoftPlank) : (s.updLoftPlank i f).host = s.host := rfl
@[simp] theorem State.updLoftPlank_sec (s : State) (i : Nat) (f : LoftPlank → LoftPlank) : (s.updLoftPlank i f).sec = s.sec := rfl
@[simp] theorem State.updLoftPlank_pwr (s : State) (i : Nat) (f : LoftPlank → LoftPlank) : (s.updLoftPlank i f).pwr = s.pwr := rfl

@[simp] theorem logErr_pending (fn kind width bar : Nat) (w : Bool) (off : Nat) (s : State) : (logErr fn kind width bar w off s).pending = s.pending := rfl
@[simp] theorem logErr_clk (fn kind width bar : Nat) (w : Bool) (off : Nat) (s : State) : (logErr fn kind width bar w off s).clk = s.clk := rfl
@[simp] theorem logErr_draws (fn kind width bar : Nat) (w : Bool) (off : Nat) (s : State) : (logErr fn kind width bar w off s).draws = s.draws := rfl
@[simp] theorem logErr_out (fn kind width bar : Nat) (w : Bool) (off : Nat) (s : State) : (logErr fn kind width bar w off s).out = s.out := rfl
@[simp] theorem logErr_csr (fn kind width bar : Nat) (w : Bool) (off : Nat) (s : State) : (logErr fn kind width bar w off s).csr = s.csr := rfl
@[simp] theorem logErr_loft (fn kind width bar : Nat) (w : Bool) (off : Nat) (s : State) : (logErr fn kind width bar w off s).loft = s.loft := rfl
@[simp] theorem logErr_hbm (fn kind width bar : Nat) (w : Bool) (off : Nat) (s : State) : (logErr fn kind width bar w off s).hbm = s.hbm := rfl
@[simp] theorem logErr_bench (fn kind width bar : Nat) (w : Bool) (off : Nat) (s : State) : (logErr fn kind width bar w off s).bench = s.bench := rfl
@[simp] theorem logErr_flash (fn kind width bar : Nat) (w : Bool) (off : Nat) (s : State) : (logErr fn kind width bar w off s).flash = s.flash := rfl
@[simp] theorem logErr_hall (fn kind width bar : Nat) (w : Bool) (off : Nat) (s : State) : (logErr fn kind width bar w off s).hall = s.hall := rfl
@[simp] theorem logErr_cmd (fn kind width bar : Nat) (w : Bool) (off : Nat) (s : State) : (logErr fn kind width bar w off s).cmd = s.cmd := rfl
@[simp] theorem logErr_arrs (fn kind width bar : Nat) (w : Bool) (off : Nat) (s : State) : (logErr fn kind width bar w off s).arrs = s.arrs := rfl
@[simp] theorem logErr_planes (fn kind width bar : Nat) (w : Bool) (off : Nat) (s : State) : (logErr fn kind width bar w off s).planes = s.planes := rfl
@[simp] theorem logErr_tier (fn kind width bar : Nat) (w : Bool) (off : Nat) (s : State) : (logErr fn kind width bar w off s).tier = s.tier := rfl
@[simp] theorem logErr_dvt (fn kind width bar : Nat) (w : Bool) (off : Nat) (s : State) : (logErr fn kind width bar w off s).dvt = s.dvt := rfl
@[simp] theorem logErr_rem (fn kind width bar : Nat) (w : Bool) (off : Nat) (s : State) : (logErr fn kind width bar w off s).rem = s.rem := rfl
@[simp] theorem logErr_yrd (fn kind width bar : Nat) (w : Bool) (off : Nat) (s : State) : (logErr fn kind width bar w off s).yrd = s.yrd := rfl
@[simp] theorem logErr_prl (fn kind width bar : Nat) (w : Bool) (off : Nat) (s : State) : (logErr fn kind width bar w off s).prl = s.prl := rfl
@[simp] theorem logErr_fab (fn kind width bar : Nat) (w : Bool) (off : Nat) (s : State) : (logErr fn kind width bar w off s).fab = s.fab := rfl
@[simp] theorem logErr_par (fn kind width bar : Nat) (w : Bool) (off : Nat) (s : State) : (logErr fn kind width bar w off s).par = s.par := rfl
@[simp] theorem logErr_flt (fn kind width bar : Nat) (w : Bool) (off : Nat) (s : State) : (logErr fn kind width bar w off s).flt = s.flt := rfl
@[simp] theorem logErr_sec (fn kind width bar : Nat) (w : Bool) (off : Nat) (s : State) : (logErr fn kind width bar w off s).sec = s.sec := rfl
@[simp] theorem logErr_pwr (fn kind width bar : Nat) (w : Bool) (off : Nat) (s : State) : (logErr fn kind width bar w off s).pwr = s.pwr := rfl

@[simp] theorem State.onPwr_pending (s : State) (f : PwrState → PwrState) : (s.onPwr f).pending = s.pending := rfl
@[simp] theorem State.onPwr_clk (s : State) (f : PwrState → PwrState) : (s.onPwr f).clk = s.clk := rfl
@[simp] theorem State.onPwr_draws (s : State) (f : PwrState → PwrState) : (s.onPwr f).draws = s.draws := rfl
@[simp] theorem State.onPwr_out (s : State) (f : PwrState → PwrState) : (s.onPwr f).out = s.out := rfl
@[simp] theorem State.onPwr_csr (s : State) (f : PwrState → PwrState) : (s.onPwr f).csr = s.csr := rfl
@[simp] theorem State.onPwr_loft (s : State) (f : PwrState → PwrState) : (s.onPwr f).loft = s.loft := rfl
@[simp] theorem State.onPwr_hbm (s : State) (f : PwrState → PwrState) : (s.onPwr f).hbm = s.hbm := rfl
@[simp] theorem State.onPwr_bench (s : State) (f : PwrState → PwrState) : (s.onPwr f).bench = s.bench := rfl
@[simp] theorem State.onPwr_flash (s : State) (f : PwrState → PwrState) : (s.onPwr f).flash = s.flash := rfl
@[simp] theorem State.onPwr_hall (s : State) (f : PwrState → PwrState) : (s.onPwr f).hall = s.hall := rfl
@[simp] theorem State.onPwr_cmd (s : State) (f : PwrState → PwrState) : (s.onPwr f).cmd = s.cmd := rfl
@[simp] theorem State.onPwr_arrs (s : State) (f : PwrState → PwrState) : (s.onPwr f).arrs = s.arrs := rfl
@[simp] theorem State.onPwr_planes (s : State) (f : PwrState → PwrState) : (s.onPwr f).planes = s.planes := rfl
@[simp] theorem State.onPwr_tier (s : State) (f : PwrState → PwrState) : (s.onPwr f).tier = s.tier := rfl
@[simp] theorem State.onPwr_dvt (s : State) (f : PwrState → PwrState) : (s.onPwr f).dvt = s.dvt := rfl
@[simp] theorem State.onPwr_rem (s : State) (f : PwrState → PwrState) : (s.onPwr f).rem = s.rem := rfl
@[simp] theorem State.onPwr_yrd (s : State) (f : PwrState → PwrState) : (s.onPwr f).yrd = s.yrd := rfl
@[simp] theorem State.onPwr_prl (s : State) (f : PwrState → PwrState) : (s.onPwr f).prl = s.prl := rfl
@[simp] theorem State.onPwr_fab (s : State) (f : PwrState → PwrState) : (s.onPwr f).fab = s.fab := rfl
@[simp] theorem State.onPwr_par (s : State) (f : PwrState → PwrState) : (s.onPwr f).par = s.par := rfl
@[simp] theorem State.onPwr_flt (s : State) (f : PwrState → PwrState) : (s.onPwr f).flt = s.flt := rfl
@[simp] theorem State.onPwr_host (s : State) (f : PwrState → PwrState) : (s.onPwr f).host = s.host := rfl
@[simp] theorem State.onPwr_sec (s : State) (f : PwrState → PwrState) : (s.onPwr f).sec = s.sec := rfl
@[simp] theorem State.onPwr_pwr (s : State) (f : PwrState → PwrState) : (s.onPwr f).pwr = f s.pwr := rfl

@[simp] theorem State.onArr_pending (s : State) (a : Nat) (f : Arr → Arr) : (s.onArr a f).pending = s.pending := rfl
@[simp] theorem State.onArr_clk (s : State) (a : Nat) (f : Arr → Arr) : (s.onArr a f).clk = s.clk := rfl
@[simp] theorem State.onArr_draws (s : State) (a : Nat) (f : Arr → Arr) : (s.onArr a f).draws = s.draws := rfl
@[simp] theorem State.onArr_out (s : State) (a : Nat) (f : Arr → Arr) : (s.onArr a f).out = s.out := rfl
@[simp] theorem State.onArr_csr (s : State) (a : Nat) (f : Arr → Arr) : (s.onArr a f).csr = s.csr := rfl
@[simp] theorem State.onArr_loft (s : State) (a : Nat) (f : Arr → Arr) : (s.onArr a f).loft = s.loft := rfl
@[simp] theorem State.onArr_hbm (s : State) (a : Nat) (f : Arr → Arr) : (s.onArr a f).hbm = s.hbm := rfl
@[simp] theorem State.onArr_bench (s : State) (a : Nat) (f : Arr → Arr) : (s.onArr a f).bench = s.bench := rfl
@[simp] theorem State.onArr_flash (s : State) (a : Nat) (f : Arr → Arr) : (s.onArr a f).flash = s.flash := rfl
@[simp] theorem State.onArr_hall (s : State) (a : Nat) (f : Arr → Arr) : (s.onArr a f).hall = s.hall := rfl
@[simp] theorem State.onArr_cmd (s : State) (a : Nat) (f : Arr → Arr) : (s.onArr a f).cmd = s.cmd := rfl
@[simp] theorem State.onArr_arrs (s : State) (a : Nat) (f : Arr → Arr) : (s.onArr a f).arrs = upd s.arrs a {} f := rfl
@[simp] theorem State.onArr_planes (s : State) (a : Nat) (f : Arr → Arr) : (s.onArr a f).planes = s.planes := rfl
@[simp] theorem State.onArr_tier (s : State) (a : Nat) (f : Arr → Arr) : (s.onArr a f).tier = s.tier := rfl
@[simp] theorem State.onArr_dvt (s : State) (a : Nat) (f : Arr → Arr) : (s.onArr a f).dvt = s.dvt := rfl
@[simp] theorem State.onArr_rem (s : State) (a : Nat) (f : Arr → Arr) : (s.onArr a f).rem = s.rem := rfl
@[simp] theorem State.onArr_yrd (s : State) (a : Nat) (f : Arr → Arr) : (s.onArr a f).yrd = s.yrd := rfl
@[simp] theorem State.onArr_prl (s : State) (a : Nat) (f : Arr → Arr) : (s.onArr a f).prl = s.prl := rfl
@[simp] theorem State.onArr_fab (s : State) (a : Nat) (f : Arr → Arr) : (s.onArr a f).fab = s.fab := rfl
@[simp] theorem State.onArr_par (s : State) (a : Nat) (f : Arr → Arr) : (s.onArr a f).par = s.par := rfl
@[simp] theorem State.onArr_flt (s : State) (a : Nat) (f : Arr → Arr) : (s.onArr a f).flt = s.flt := rfl
@[simp] theorem State.onArr_host (s : State) (a : Nat) (f : Arr → Arr) : (s.onArr a f).host = s.host := rfl
@[simp] theorem State.onArr_sec (s : State) (a : Nat) (f : Arr → Arr) : (s.onArr a f).sec = s.sec := rfl
@[simp] theorem State.onArr_pwr (s : State) (a : Nat) (f : Arr → Arr) : (s.onArr a f).pwr = s.pwr := rfl

end Sys2Proof.Machine
end

