-- ==== Sys2Proof/Laws/Cmd.lean ====
section
/-! SUPPORT. Laws of queues, commands and pegs: what the shared operations of a command's life do to the state. -/

namespace Sys2Proof.Machine

/-! ### Queues and registers -/

@[simp] theorem State.queue_setQueue (s : State) (q : Nat) (x : Queue) : (s.setQueue q x).queue q = x := by
  simp [State.queue, State.setQueue]

theorem State.queue_setQueue_other (s : State) {q r : Nat} (x : Queue) (h : r ≠ q) : (s.setQueue q x).queue r = s.queue r := by
  simp [State.queue, State.setQueue, getD_put_other _ _ _ h]

@[simp] theorem State.cqOf_setQueue (s : State) (q n : Nat) (x : Queue) : (s.setQueue q x).cqOf n = s.cqOf n := rfl
@[simp] theorem State.queue_setCq (s : State) (q n : Nat) (x : Cq) : (s.setCq n x).queue q = s.queue q := rfl
@[simp] theorem State.pegVal_setQueue (s : State) (q n : Nat) (x : Queue) : (s.setQueue q x).pegVal n = s.pegVal n := rfl
@[simp] theorem State.pegVal_setCq (s : State) (q n : Nat) (x : Cq) : (s.setCq q x).pegVal n = s.pegVal n := rfl

@[simp] theorem State.cqOf_setCq (s : State) (n : Nat) (x : Cq) : (s.setCq n x).cqOf n = x := by
  simp [State.cqOf, State.setCq]

theorem State.cqOf_setCq_other (s : State) {n m : Nat} (x : Cq) (h : m ≠ n) : (s.setCq n x).cqOf m = s.cqOf m := by
  simp [State.cqOf, State.setCq, getD_put_other _ _ _ h]

@[simp] theorem State.reg_setReg (s : State) (off : Nat) (v : W64) : (s.setReg off v).reg off = v := by
  simp [State.reg, State.setReg]

theorem State.reg_setReg_other (s : State) {o off : Nat} (v : W64) (h : o ≠ off) : (s.setReg off v).reg o = s.reg o := by
  simp [State.reg, State.setReg, getD_put_other _ _ _ h]

/-- A state with the same registers has the same register values. -/
theorem State.reg_congr {s t : State} (h : t.csr = s.csr) (off : Nat) : t.reg off = s.reg off := by simp [State.reg, h]

/-! ### Commands -/

theorem State.inflight_congr {s t : State} (h : t.cmd = s.cmd) (c : CmdRef) : t.inflight c = s.inflight c := by
  simp [State.inflight, State.queue, h]

/-- Changing the command that c names changes what is found under c. -/
theorem State.inflight_updIn (s : State) (c : CmdRef) (f : InFlight → InFlight) (hf : ∀ i, (f i).slot = i.slot) :
    (s.updIn c f).inflight c = (s.inflight c).map f := by
  simp only [State.inflight, State.updIn, State.queue_setQueue]
  generalize (s.queue ↑c.q).inflight = xs
  induction xs with
  | nil => rfl
  | cons y r ih => by_cases h : y.slot = c.slot <;> simp [pick, h, hf, ih]

theorem State.ready_inflight {s : State} {c : CmdRef} {o : Nat} {i : InFlight} (h : s.ready c o = some i) :
    s.inflight c = some i ∧ i.stage = .granted ∧ opcode i.pkt = o := by
  unfold State.ready at h
  split at h
  · split at h
    · simp_all
    · simp at h
  · simp at h

/-! ### Events change no queue -/

@[simp] theorem dropEvent_cmd (s : State) : (dropEvent s).cmd = s.cmd := rfl

@[simp] theorem msix_cmd (fn v : Nat) (s : State) : (msix fn v s).cmd = s.cmd := by
  unfold msix; simp only; split
  · rfl
  · split <;> rfl

@[simp] theorem setMem_cmd (s : State) (sp : Space) (m : Mem) : (s.setMem sp m).cmd = s.cmd := by cases sp <;> rfl
@[simp] theorem clearPoison_cmd (s : State) (sp : Space) (g : Nat) : (s.clearPoison sp g).cmd = s.cmd := by cases sp <;> rfl

@[simp] theorem noteWrite_cmd (s : State) (p : Nat) (b : Bool) (a : Nat) (src : Option (BitVec 20)) : (s.noteWrite p b a src).cmd = s.cmd := by
  unfold State.noteWrite; split
  · rfl
  · split <;> rfl

/-- A fold whose every step leaves the queues leaves them. -/
theorem foldl_cmd {α : Type} {f : State → α → State} (hf : ∀ s x, (f s x).cmd = s.cmd) (xs : List α) (s : State) : (xs.foldl f s).cmd = s.cmd := by
  induction xs generalizing s with
  | nil => rfl
  | cons x r ih => simp [ih, hf]

theorem writeGranule_cmd {s t : State} {p : Nat} {b : Bool} {a : Nat} {bs : List Byte} {src : Option (BitVec 20)}
    (h : s.writeGranule p b a bs src = .ok t) : t.cmd = s.cmd := by
  unfold State.writeGranule at h
  split at h
  · simp at h
  · simp only [Except.ok.injEq] at h
    subst h
    simp only [noteWrite_cmd, State.closeReads]
    split <;> simp

@[simp] theorem writeSome_cmd (s : State) (p : Nat) (b : Bool) (a : Nat) (bs : List Byte) (src : Option (BitVec 20)) (n : Nat) :
    (s.writeSome p b a bs src n).1.cmd = s.cmd := by
  induction n generalizing s a bs with
  | zero => rfl
  | succ n ih =>
    unfold State.writeSome
    split
    · rfl
    · simp only
      split
      · rfl
      · simp only [ih]; exact writeGranule_cmd ‹_›

@[simp] theorem writeFor_cmd (s : State) (p : Nat) (b : Bool) (a : Nat) (bs : List Byte) (src : Option (BitVec 20)) :
    (s.writeFor p b a bs src).1.cmd = s.cmd := writeSome_cmd ..

@[simp] theorem write_cmd (s : State) (p : Nat) (b : Bool) (a : Nat) (bs : List Byte) : (s.write p b a bs).cmd = s.cmd := writeFor_cmd ..

@[simp] theorem noteClass0_cmd (e : Event) (s : State) : (noteClass0 e s).cmd = s.cmd := by unfold noteClass0; split <;> rfl

@[simp] theorem writeEvent_cmd (e : Event) (p : Nat) (s : State) : (writeEvent e p s).cmd = s.cmd := by
  unfold writeEvent; simp only; split <;> simp

@[simp] theorem ringEvent_cmd (e : Event) (s : State) : (ringEvent e s).cmd = s.cmd := by
  unfold ringEvent; simp only; split
  · simp
  · split
    · simp
    · split <;> simp

@[simp] theorem appendEvent_cmd (e : Event) (s : State) : (appendEvent e s).cmd = s.cmd := by
  unfold appendEvent; split <;> simp

@[simp] theorem uncorrectable_cmd (p : Option Nat) (d a : Nat) (s : State) : (uncorrectable p d a s).cmd = s.cmd := appendEvent_cmd ..

@[simp] theorem tearByte_cmd (s : State) (x : Extent) : (s.tearByte x).cmd = s.cmd := by
  unfold State.tearByte
  split
  · rfl
  · split <;> rfl
  · split
    · rfl
    · split <;> rfl

@[simp] theorem tear_cmd (s : State) (xs : List Extent) : (s.tear xs).cmd = s.cmd := by
  unfold State.tear
  induction xs generalizing s with
  | nil => rfl
  | cons x r ih => simp [ih]

@[simp] theorem mendOne_cmd (xs : List Extent) (s : State) (x : Extent) : (mendOne xs s x).cmd = s.cmd := by
  unfold mendOne
  split
  · rfl
  · split <;> rfl
  · split
    · split <;> rfl
    · rfl

@[simp] theorem mend_cmd (s : State) (xs : List Extent) : (s.mend xs).cmd = s.cmd := by
  unfold State.mend
  exact foldl_cmd (mendOne_cmd xs) xs s

@[simp] theorem endEffects_cmd (c : CmdRef) (i : InFlight) (st : Status) (det : Nat) (s : State) : (endEffects c i st det s).cmd = s.cmd := by
  unfold endEffects
  split
  · simp
  · split
    · simp
    · split <;> simp

/-- A command that is found ends with the outcome given, whatever the outcome is. -/
theorem endCmd_ended {s : State} {c : CmdRef} {i : InFlight} (h : s.inflight c = some i) (st : Status) (result det : Nat) :
    (endCmd c st result det s).Ended c st result det := by
  simp only [State.Ended, endCmd, h]
  rw [State.inflight_updIn _ _ (fun j => { j with stage := .ended ⟨st, BitVec.ofNat 64 result, BitVec.ofNat 32 det, false⟩ }) (fun _ => rfl),
    State.inflight_congr (endEffects_cmd c i st det s), h]
  rfl

/-- Ending a command leaves the pegs. -/
theorem endCmd_pegs (c : CmdRef) (st : Status) (result det : Nat) (s : State) : (endCmd c st result det s).cmd.pegs = s.cmd.pegs := by
  unfold endCmd
  split
  · rfl
  · simp [State.updIn, State.setQueue]

@[simp] theorem endCmd_pegVal (c : CmdRef) (st : Status) (result det : Nat) (s : State) (p : Nat) :
    (endCmd c st result det s).pegVal p = s.pegVal p := by simp [State.pegVal, endCmd_pegs]

/-- Noting a torn plank changes nothing that names, or the stage of, a command. -/
theorem noteTorn_inflight (s : State) (c : CmdRef) (b : Bool) :
    (noteTorn c b s).inflight c = (s.inflight c).map fun i => if b then { i with tornRead := true } else i := by
  cases b
  · simp [noteTorn]
  · simpa [noteTorn] using State.inflight_updIn s c ({ · with tornRead := true }) (fun _ => rfl)

/-- A command of one piece whose body succeeds. -/
theorem wholeCmd_ok {s : State} {c : CmdRef} {o : Nat} {f : Block → Nat → State → Except Err Done} {i : InFlight} {d : Done}
    (h : s.ready c o = some i) (hf : f i.pkt (s.cmdPart c) s = .ok d) : wholeCmd c o f s = endCmd c d.st d.result d.det (noteTorn c (s.paramTorn (s.cmdPart c) i.pkt) d.s) := by
  simp [wholeCmd, h, hf]

/-- A command of one piece whose body fails. -/
theorem wholeCmd_error {s : State} {c : CmdRef} {o : Nat} {f : Block → Nat → State → Except Err Done} {i : InFlight} {e : Err}
    (h : s.ready c o = some i) (hf : f i.pkt (s.cmdPart c) s = .error e) : wholeCmd c o f s = failCmd c e s := by
  simp [wholeCmd, h, hf]

/-- Everything a command of one piece can do. -/
theorem wholeCmd_cases (s : State) (c : CmdRef) (o : Nat) (f : Block → Nat → State → Except Err Done) :
    (s.ready c o = none ∧ wholeCmd c o f s = s) ∨
    (∃ i d, s.ready c o = some i ∧ f i.pkt (s.cmdPart c) s = .ok d ∧
      wholeCmd c o f s = endCmd c d.st d.result d.det (noteTorn c (s.paramTorn (s.cmdPart c) i.pkt) d.s)) ∨
    (∃ i e, s.ready c o = some i ∧ f i.pkt (s.cmdPart c) s = .error e ∧ wholeCmd c o f s = failCmd c e s) := by
  cases h : s.ready c o with
  | none => exact Or.inl ⟨rfl, by simp [wholeCmd, h]⟩
  | some i =>
    cases hf : f i.pkt (s.cmdPart c) s with
    | ok d => exact Or.inr (Or.inl ⟨i, d, rfl, hf, wholeCmd_ok h hf⟩)
    | error e => exact Or.inr (Or.inr ⟨i, e, rfl, hf, wholeCmd_error h hf⟩)

/-- A command that begins and whose body succeeds. -/
theorem beginCmd_ok {s t : State} {c : CmdRef} {o : Nat} {f : Block → Nat → State → Except Err State} {i : InFlight}
    (h : s.ready c o = some i) (hf : f i.pkt (s.cmdPart c) (s.updIn c ({ · with stage := .running })) = .ok t) :
    beginCmd c o f s = noteTorn c (s.paramTorn (s.cmdPart c) i.pkt) t := by
  simp [beginCmd, h, hf]

/-- A command that begins and whose body fails. -/
theorem beginCmd_error {s : State} {c : CmdRef} {o : Nat} {f : Block → Nat → State → Except Err State} {i : InFlight} {e : Err}
    (h : s.ready c o = some i) (hf : f i.pkt (s.cmdPart c) (s.updIn c ({ · with stage := .running })) = .error e) :
    beginCmd c o f s = failCmd c e s := by
  simp [beginCmd, h, hf]

/-! ### Pegs -/

theorem latchPeg_pegs (p : Nat) (s : State) : (latchPeg p s).cmd.pegs = s.cmd.pegs := rfl

/-- A change of every queue that leaves the granted commands leaves what is found under a reference. -/
theorem mapQueues_inflight {f : Nat → Queue → Queue} (hf : ∀ k x, (f k x).inflight = x.inflight) (s : State) (c : CmdRef) :
    (s.mapQueues f).inflight c = s.inflight c := by
  simp only [State.mapQueues, State.inflight, State.queue, State.onCmd]
  congr 1
  generalize (s.cmd.wq) = m
  induction m with
  | nil => rfl
  | cons e r ih =>
    obtain ⟨j, v⟩ := e
    by_cases h : j = c.q
    · simp [getD, find?, h, hf]
    · simpa [getD, find?, h] using ih

/-- A latch changes no command that is granted. -/
theorem latchPeg_inflight (p : Nat) (s : State) (c : CmdRef) : (latchPeg p s).inflight c = s.inflight c :=
  mapQueues_inflight (f := fun _ x => { x with fetched := x.fetched.map (latchOn p (s.pegVal p)) }) (fun _ _ => rfl) s c

@[simp] theorem applyUpd_pegVal (p : Nat) (u : PegUpd) (s : State) : (applyUpd p u s).pegVal p = u.value (s.pegVal p) := by
  simp only [applyUpd, State.pegVal, latchPeg_pegs, getD_put_self]

theorem applyUpd_pegVal_other {p q : Nat} (u : PegUpd) (s : State) (h : q ≠ p) : (applyUpd p u s).pegVal q = s.pegVal q := by
  simp only [applyUpd, State.pegVal, latchPeg_pegs]
  exact getD_put_other _ _ _ h

theorem applyUpd_inflight (p : Nat) (u : PegUpd) (s : State) (c : CmdRef) : (applyUpd p u s).inflight c = s.inflight c := by
  simp only [applyUpd, latchPeg_inflight]; rfl

/-- A cycle of one update is that update. -/
@[simp] theorem applyCycle_one (p : Nat) (u : PegUpd) (s : State) : applyCycle p [u] s = applyUpd p u s := by
  cases u <;> simp [applyCycle, sumAdds, applySet, PegUpd.isAdd, PegUpd.addend]

/-- An update of a peg that has had none in this nanosecond begins a cycle. -/
theorem pegUpdate_fresh {p : Nat} {s : State} (k : PegSource) (u : PegUpd) (h : s.PegFresh p) : pegUpdate p k u s = freshUpdate p k u s := by
  unfold pegUpdate
  split
  · rfl
  · rename_i y hy; simp [h y hy]

/-- The value PEG_ADD and PEG_SET return, where the peg has had no update in this nanosecond. -/
theorem pegBefore_fresh {p : Nat} {s : State} (k : PegSource) (u : PegUpd) (h : s.PegFresh p) : s.pegBefore p k u = s.pegVal p := by
  unfold State.pegBefore
  split
  · rfl
  · rename_i y hy; simp [PegCycle.joins, h y hy]

@[simp] theorem setCycle_pegVal (p q : Nat) (y : PegCycle) (s : State) : (setCycle p y s).pegVal q = s.pegVal q := rfl
@[simp] theorem setCycle_inflight (p : Nat) (y : PegCycle) (s : State) (c : CmdRef) : (setCycle p y s).inflight c = s.inflight c := rfl

@[simp] theorem freshUpdate_pegVal (p : Nat) (k : PegSource) (u : PegUpd) (s : State) : (freshUpdate p k u s).pegVal p = u.value (s.pegVal p) := by
  simp [freshUpdate]

theorem freshUpdate_pegVal_other {p q : Nat} (k : PegSource) (u : PegUpd) (s : State) (h : q ≠ p) : (freshUpdate p k u s).pegVal q = s.pegVal q := by
  simp [freshUpdate, applyUpd_pegVal_other _ _ h]

@[simp] theorem freshUpdate_inflight (p : Nat) (k : PegSource) (u : PegUpd) (s : State) (c : CmdRef) :
    (freshUpdate p k u s).inflight c = s.inflight c := by simp [freshUpdate, applyUpd_inflight]

/-- Everything an update of a peg changes: the pegs, what fetched commands have latched, and what arrays wait for. -/
theorem applyUpd_frame (p : Nat) (u : PegUpd) (s : State) :
    applyUpd p u s = { s with cmd := (applyUpd p u s).cmd, arrs := (applyUpd p u s).arrs } := rfl

/-! ### Regulators and accounts -/

/-- Charging a point changes the regulators alone. -/
theorem chargePoint_eq (p k : Nat) (lc : Bool) (n : Nat) (s : State) :
    ∃ m, chargePoint p k lc n s = { s with par := { s.par with regs := m } } := by
  unfold chargePoint
  split
  · exact ⟨_, rfl⟩
  · exact ⟨s.par.regs, rfl⟩

/-- Charging an access changes the regulators alone. -/
theorem chargeAccess_eq (p : Nat) (lc tiered : Bool) (a n : Nat) (s : State) :
    ∃ m, chargeAccess p lc tiered a n s = { s with par := { s.par with regs := m } } := by
  unfold chargeAccess
  split
  · exact ⟨s.par.regs, rfl⟩
  · exact chargePoint_eq _ _ _ _ _

/-- Charging an access of a command changes the regulators alone. -/
theorem chargeCmd_eq (c : CmdRef) (p : Nat) (ad : Addr) (n : Nat) (s : State) :
    ∃ m, chargeCmd c p ad n s = { s with par := { s.par with regs := m } } := chargeAccess_eq _ _ _ _ _ _

/-- With room in the accounting buffer an update waits there, and nothing else changes. -/
theorem accountUpdate_room {q : Nat} {u : Option Nat} {s : State} (h : s.par.acctBuffer.length < 256) :
    accountUpdate q u s = s.onPar fun r => { r with acctBuffer := r.acctBuffer ++ [(q, u)] } := by simp [accountUpdate, h]

end Sys2Proof.Machine
end

