-- ==== Sys2Proof/Laws/Canon.lean ====
section
/-! SUPPORT. Laws of the canonical form of the memories: every shared operation that writes memory, or ends a command, keeps it. -/

namespace Sys2Proof.Machine

/-! ### States that agree on their memories -/

/-- A state whose memories are those of a canonical state is canonical. -/
theorem State.canon_congr {s t : State} (h : s.SameMemory t) (hx : t.sec.xspi = s.sec.xspi) (hs : s.Canon) : t.Canon := by
  obtain ⟨h1, h2, h3, h4⟩ := h
  unfold State.Canon at *
  rw [h1, h2, h3, h4, hx]
  exact hs

/-- A fold whose every step keeps the form keeps it. -/
theorem State.canon_foldl {α : Type} {f : State → α → State} (hf : ∀ s x, s.Canon → (f s x).Canon) (xs : List α) {s : State} (hs : s.Canon) :
    (xs.foldl f s).Canon := by
  induction xs generalizing s with
  | nil => exact hs
  | cons x r ih => exact ih (hf s x hs)

theorem State.canon_onCmd {s : State} (f : CmdState → CmdState) (hs : s.Canon) : (s.onCmd f).Canon := State.canon_congr ⟨rfl, rfl, rfl, rfl⟩ rfl hs

theorem State.canon_setQueue {s : State} (q : Nat) (x : Queue) (hs : s.Canon) : (s.setQueue q x).Canon := State.canon_onCmd _ hs

theorem State.canon_updIn {s : State} (c : CmdRef) (f : InFlight → InFlight) (hs : s.Canon) : (s.updIn c f).Canon := State.canon_setQueue _ _ hs

theorem noteTorn_canon {s : State} (c : CmdRef) (b : Bool) (hs : s.Canon) : (noteTorn c b s).Canon := by
  unfold noteTorn; split
  · exact State.canon_updIn _ _ hs
  · exact hs

/-! ### Writes -/

theorem State.canon_setMem {s : State} (sp : Space) {m : Mem} (hm : Memory.wf m = true) (hs : s.Canon) : (s.setMem sp m).Canon := by
  obtain ⟨h1, h2, h3, h4, h5⟩ := hs
  cases sp
  · exact ⟨hm, h2, h3, h4, h5⟩
  · exact ⟨h1, hm, h3, h4, h5⟩
  · exact ⟨h1, h2, hm, h4, h5⟩

/-- The memory of a space of a canonical state has the form. -/
theorem State.wf_mem {s : State} (hs : s.Canon) (sp : Space) : Memory.wf (s.mem sp) = true := by
  cases sp
  · exact hs.1
  · exact hs.2.1
  · exact hs.2.2.1

theorem State.canon_clearPoison {s : State} (sp : Space) (g : Nat) (hs : s.Canon) : (s.clearPoison sp g).Canon := by
  cases sp <;> exact State.canon_congr ⟨rfl, rfl, rfl, rfl⟩ rfl hs

theorem State.canon_closeReads {s : State} (sp : Space) (g : Nat) (hs : s.Canon) : (s.closeReads sp g).Canon :=
  State.canon_congr ⟨rfl, rfl, rfl, rfl⟩ rfl hs

theorem State.canon_updPlank {s : State} (p i : Nat) (f : Plank → Plank) (hs : s.Canon) : (s.updPlank p i f).Canon :=
  State.canon_congr ⟨rfl, rfl, rfl, rfl⟩ rfl hs

theorem State.canon_updLoftPlank {s : State} (i : Nat) (f : LoftPlank → LoftPlank) (hs : s.Canon) : (s.updLoftPlank i f).Canon :=
  State.canon_congr ⟨rfl, rfl, rfl, rfl⟩ rfl hs

theorem State.canon_noteWrite {s : State} (p : Nat) (b : Bool) (a : Nat) (src : Option (BitVec 20)) (hs : s.Canon) : (s.noteWrite p b a src).Canon := by
  unfold State.noteWrite
  split
  · exact State.canon_updPlank _ _ _ hs
  · split
    · exact State.canon_updLoftPlank _ _ hs
    · exact hs

theorem State.canon_writeGranule {s t : State} {p : Nat} {b : Bool} {a : Nat} {bs : List Byte} {src : Option (BitVec 20)}
    (h : s.writeGranule p b a bs src = .ok t) (hs : s.Canon) : t.Canon := by
  unfold State.writeGranule at h
  split at h
  · simp at h
  · simp only [Except.ok.injEq] at h
    subst h
    apply State.canon_noteWrite
    apply State.canon_closeReads
    have h' := fun x => State.canon_setMem (locSpace b) (wf_memWrite (a := x) (bs := bs) (State.wf_mem hs (locSpace b))) hs
    split
    · exact State.canon_clearPoison _ _ (h' _)
    · exact h' _

theorem State.canon_writeSome {s : State} (p : Nat) (b : Bool) (a : Nat) (bs : List Byte) (src : Option (BitVec 20)) (n : Nat) (hs : s.Canon) :
    (s.writeSome p b a bs src n).1.Canon := by
  induction n generalizing s a bs with
  | zero => exact hs
  | succ n ih =>
    unfold State.writeSome
    split
    · exact hs
    · simp only
      split
      · exact hs
      · exact ih _ _ (State.canon_writeGranule ‹_› hs)

theorem State.canon_writeFor {s : State} (p : Nat) (b : Bool) (a : Nat) (bs : List Byte) (src : Option (BitVec 20)) (hs : s.Canon) :
    (s.writeFor p b a bs src).1.Canon := State.canon_writeSome _ _ _ _ _ _ hs

theorem State.canon_write {s : State} (p : Nat) (b : Bool) (a : Nat) (bs : List Byte) (hs : s.Canon) : (s.write p b a bs).Canon :=
  State.canon_writeFor _ _ _ _ _ hs

theorem State.canon_writeBench {s : State} (array off : Nat) (bs : List Byte) (hs : s.Canon) : (s.writeBench array off bs).Canon := by
  unfold State.writeBench
  apply State.canon_foldl (fun _ _ h => State.canon_clearPoison _ _ h)
  exact ⟨hs.1, hs.2.1, wf_memWrite (wf_memWrite hs.2.2.1), hs.2.2.2.1, hs.2.2.2.2⟩

theorem writeAround_canon {s : State} (c : CmdRef) (p : Nat) (b : Bool) (a : Nat) (bs : List Byte) (n : Nat) (hs : s.Canon) :
    (writeAround c p b a bs n s).1.Canon := by
  induction n generalizing s a bs with
  | zero => exact hs
  | succ n ih =>
    have h1 : (if s.bayGone c b a then (s, none) else
        ((s.writeFor p b a (bs.take (64 - a % 64))).1, (s.writeFor p b a (bs.take (64 - a % 64))).2.2) : State × Option Err).1.Canon := by
      split
      · exact hs
      · exact State.canon_writeFor _ _ _ _ _ hs
    unfold writeAround
    split
    · exact hs
    · simp only
      split
      · exact h1
      · exact ih _ _ h1

theorem chargePoint_canon {s : State} (p k : Nat) (lc : Bool) (n : Nat) (hs : s.Canon) : (chargePoint p k lc n s).Canon := by
  unfold chargePoint
  split
  · exact State.canon_congr ⟨rfl, rfl, rfl, rfl⟩ rfl hs
  · exact hs

theorem chargeAccess_canon {s : State} (p : Nat) (lc b : Bool) (a n : Nat) (hs : s.Canon) : (chargeAccess p lc b a n s).Canon := by
  unfold chargeAccess
  split
  · exact hs
  · exact chargePoint_canon _ _ _ _ hs

theorem cmdWrite_canon {s : State} (c : CmdRef) (p : Nat) (ad : Addr) (bs : List Byte) (hs : s.Canon) : (cmdWrite c p ad bs s).1.Canon := by
  unfold cmdWrite
  apply chargeAccess_canon
  apply State.canon_updIn
  split
  · exact writeAround_canon _ _ _ _ _ _ hs
  · exact State.canon_writeFor _ _ _ _ _ hs

/-! ### Torn marks and the rings -/

theorem State.canon_tear {s : State} (xs : List Extent) (hs : s.Canon) : (s.tear xs).Canon := by
  apply State.canon_foldl _ _ hs
  intro s x hs
  unfold State.tearByte
  split
  · exact hs
  · split
    · exact hs
    · exact State.canon_congr ⟨rfl, rfl, rfl, rfl⟩ rfl hs
  · split
    · exact hs
    · split
      · exact hs
      · exact State.canon_congr ⟨rfl, rfl, rfl, rfl⟩ rfl hs

theorem State.canon_mend {s : State} (xs : List Extent) (hs : s.Canon) : (s.mend xs).Canon := by
  apply State.canon_foldl _ _ hs
  intro s x hs
  unfold mendOne
  split
  · exact hs
  · split
    · exact State.canon_updLoftPlank _ _ hs
    · exact hs
  · split
    · split
      · exact State.canon_congr ⟨rfl, rfl, rfl, rfl⟩ rfl hs
      · exact hs
    · exact hs

theorem msix_canon {s : State} (fn vec : Nat) (hs : s.Canon) : (msix fn vec s).Canon := by
  unfold msix
  dsimp only
  split
  · exact State.canon_congr ⟨rfl, rfl, rfl, rfl⟩ rfl hs
  · split
    · exact hs
    · exact State.canon_congr ⟨rfl, rfl, rfl, rfl⟩ rfl hs

theorem writeEvent_canon {s : State} (e : Event) (p : Nat) (hs : s.Canon) : (writeEvent e p s).Canon := by
  unfold writeEvent
  have h := fun a bs => State.canon_write (s := s) p true a bs hs
  generalize ht : s.write p true _ _ = t
  have hc : t.Canon := ht ▸ h _ _
  have hd : State.Canon { t with flt := { t.flt with evProd := t.flt.evProd + 1 } } := State.canon_congr (s := t) ⟨rfl, rfl, rfl, rfl⟩ rfl hc
  dsimp only
  split
  · exact msix_canon _ _ hd
  · exact hd

theorem appendEvent_canon {s : State} (e : Event) (hs : s.Canon) : (appendEvent e s).Canon := by
  have drop {u : State} (hu : u.Canon) : (dropEvent u).Canon := State.canon_congr ⟨rfl, rfl, rfl, rfl⟩ rfl hu
  have note : (noteClass0 e s).Canon := by
    unfold noteClass0; split
    · exact State.canon_congr ⟨rfl, rfl, rfl, rfl⟩ rfl hs
    · exact hs
  unfold appendEvent; split
  · exact hs
  · unfold ringEvent; split
    · exact drop note
    · dsimp only
      split
      · exact drop note
      · split
        · exact drop note
        · exact writeEvent_canon _ _ note

/-! ### The end of a command -/

theorem endCmd_canon {s : State} (c : CmdRef) (st : Status) (result det : Nat) (hs : s.Canon) : (endCmd c st result det s).Canon := by
  unfold endCmd
  split
  · exact hs
  · apply State.canon_updIn
    unfold endEffects
    split
    · exact appendEvent_canon _ (State.canon_tear _ hs)
    · split
      · exact appendEvent_canon _ hs
      · split
        · exact State.canon_mend _ hs
        · exact hs

theorem failCmd_canon {s : State} (c : CmdRef) (e : Err) (hs : s.Canon) : (failCmd c e s).Canon := endCmd_canon _ _ _ _ hs

/-- A command that runs whole keeps the form when its work does. -/
theorem wholeCmd_canon {s : State} (c : CmdRef) (o : Nat) (f : Block → Nat → State → Except Err Done)
    (hf : ∀ k p u d, u.Canon → f k p u = .ok d → d.s.Canon) (hs : s.Canon) : (wholeCmd c o f s).Canon := by
  unfold wholeCmd
  split
  · exact hs
  · split
    · exact endCmd_canon _ _ _ _ (noteTorn_canon _ _ (hf _ _ _ _ hs ‹_›))
    · exact failCmd_canon _ _ hs

/-- The state after reset has every memory in canonical form. -/
theorem State.reset_canon : State.reset.Canon := by unfold State.Canon; decide

end Sys2Proof.Machine
end

