-- ==== Sys2Proof/Laws/Host.lean ====
section
/-! SUPPORT. Laws of the host interface: what a mask bit of a vector, and the charge of a BAR4 piece, do to the state. -/

namespace Sys2Proof.Machine

/-- Emitting messages in turn appends them to the output and changes nothing else. -/
theorem foldl_emit_eq {α : Type} (g : α → Out) (xs : List α) (s : State) :
    xs.foldl (fun s x => s.emit (g x)) s = { s with out := s.out ++ xs.map g } := by
  induction xs generalizing s with
  | nil => simp
  | cons x r ih => rw [List.foldl_cons, ih]; simp

/-- Messages that fall due leave, and their pending bits clear: only the host state and the output change. -/
theorem flushMsix_eq (fn : Nat) (s : State) : flushMsix fn s = { s with host := (flushMsix fn s).host, out := (flushMsix fn s).out } := by
  unfold flushMsix
  split
  · rfl
  · simp only [foldl_emit_eq]; rfl

/-- A mask bit of a vector changes the host state and the output alone. -/
theorem maskVector_eq (fn vec : Nat) (m : Bool) (s : State) :
    maskVector fn vec m s = { s with host := (maskVector fn vec m s).host, out := (maskVector fn vec m s).out } := by
  unfold maskVector
  simp only
  split
  · rfl
  · split
    · rfl
    · rw [flushMsix_eq]; rfl

end Sys2Proof.Machine
end

