-- ==== Sys2Proof/Tests/Slice0.lean ====
section
/-! SUPPORT. Tests of one step on small states: for each statement, states and operands that meet its hypotheses, and what the command does there;
and ill-formed commands that the checks refuse. -/

namespace Sys2Proof.Tests

set_option Elab.async false

open Sys2Proof Sys2Proof.Machine

/-- The outcome is a next state that satisfies p. -/
def after (o : Host.Outcome State Fault Refusal) (p : State → Bool) : Bool :=
  match o with
  | .next t => p t
  | _ => false

/-- The outcome is the fault of an ill-formed command. -/
def faults (o : Host.Outcome State Fault Refusal) : Bool :=
  match o with
  | .fault e => e == .illFormed
  | _ => false

/-- The command changes nothing. -/
def stays (i : Instr) (s : State) : Bool := after (exec i s) (· == s)

/-- The command has ended with this status, result and detail. -/
def ended (t : State) (c : CmdRef) (st : Status) (r d : Nat) : Bool :=
  (t.inflight c).map (·.stage) == some (.ended ⟨st, BitVec.ofNat 64 r, BitVec.ofNat 32 d, false⟩)

/-- The command has ended with this status. -/
def endedSt (t : State) (c : CmdRef) (st : Status) : Bool := match (t.inflight c).map (·.stage) with
  | some (Stage.ended f) => f.st == st
  | _ => false

/-- The command is running. -/
def running (t : State) (c : CmdRef) : Bool := (t.inflight c).map (·.stage) == some .running

/-- A command packet of generation 1 without waits and signal, with operand fields (byte, bytes, value). -/
def pkt (o : Nat) (fs : List (Nat × Nat × Nat)) : Block :=
  BitVec.ofNat 512 (layout ([(0, 2, o), (2, 1, 1), (10, 1, 3), (18, 1, 3), (25, 1, 0x80)] ++ fs))

/-- The same packet with a signal word. -/
def pktSignal (o w : Nat) (fs : List (Nat × Nat × Nat)) : Block :=
  BitVec.ofNat 512 (layout ([(0, 2, o), (2, 1, 1), (10, 1, 3), (18, 1, 3), (24, 8, w)] ++ fs))

/-- Partition 0 of the PF and partition 1 of function 1 are valid; partition 0 has the first units of each resource kind, partition 1 the queues and pegs from 100.
Queue 0 and completion queue 0 are enabled, with rings of 16 entries; Loft bay 0 belongs to partition 0. -/
def base : State :=
  { State.reset with
    csr := [(0x03000000, 0x3), (0x04000000, 0x0), (0x0F000008, 0x24), (0x0F010008, 0x104), (0x12000000, 0x0001010000000001), (0x12000008, 0x0002001000000001),
      (0x12000040, 0x3F)] ++
      ((List.range 13).map fun k => (0x12000400 + 8 * k, 0x0000001000000000)) ++
      [(0x12000480, 0x0000001000000064), (0x12000488, 0x0000001000000064)] }

/-- The command reference of the tests: slot 0 of queue 0. -/
def c0 : CmdRef := ⟨0, 0⟩

/-- One granted command in queue 0. -/
def granted (k : Block) : State := { base with cmd := { wq := [(0, { inflight := [{ slot := 0, pkt := k }] })] } }

/-- One command of queue 0 in a stage. -/
def staged (k : Block) (st : Stage) : State := { base with cmd := { wq := [(0, { inflight := [{ slot := 0, pkt := k, stage := st }] })] } }

theorem base_selfId : base.selfId = Config.posId.toNat := by
  have h : base.rteSelf = 0 := by decide +kernel
  simp [State.selfId, State.selfCube, State.selfPos, h, fld]

/-! ### Pegs, doorbells, queues -/

theorem test_step_runs_front : after (step { base with pending := [.drainBegin] }) (fun t => t.fab.drain == 1 && t.pending.isEmpty) = true := by decide +kernel

theorem test_idle_step_passes_time : after (step base) (fun t => t.clk == 1 && t.hall == 1) = true := by decide +kernel

/-- R39: two adds and a set in one cycle: the set wins whatever the order of the list; another peg stays. -/
theorem test_peg_cycle : ((applyCycle 3 [.set 9, .add 5, .add 6] base).pegVal 3 = 9 ∧ (applyCycle 3 [.add 5, .add 6] base).pegVal 3 = 11 ∧
    (applyCycle 3 [.add 5] base).pegVal 4 = 0) := by decide +kernel

/-- R39: two sets of one nanosecond, the first from a higher queue. In the same cycle, the queues' order stands: the higher one's value stays; otherwise the later
one's. -/
theorem test_peg_join :
    let s := pegUpdate 3 (.queue 5) (.set 9) base
    let y : PegCycle := ⟨0, 0, [(5 * 512, .set 9)], [], []⟩
    find? s.cmd.cycles 3 = some y ∧ (joinUpdate 3 (.queue 2) (.set 4) y s).pegVal 3 = 9 ∧ (freshUpdate 3 (.queue 2) (.set 4) s).pegVal 3 = 4 ∧
    (joinUpdate 3 .value (.add 7) y s).pegVal 3 = 9 := by decide +kernel

theorem test_wait_conditions : condHolds (5 * 2 ^ 18) 5 = true ∧ condHolds (5 * 2 ^ 18) 4 = false ∧ condHolds (5 * 2 ^ 18 + 2 ^ 16) 5 = true ∧
    condHolds (5 * 2 ^ 18 + 2 * 2 ^ 16) 5 = false ∧ condHolds (3 * 2 ^ 16) 0 = true := by decide +kernel

theorem test_nop : ((granted (pkt 0x0100 [])).ready c0 0x0100).isSome = true ∧
    after (exec (.nop c0) (granted (pkt 0x0100 []))) (fun t => ended t c0 .ok 0 0) = true := by decide +kernel

/-- The sum wraps at 2^64. -/
theorem test_peg_add :
    let s := { granted (pkt 0x0101 [(32, 2, 3), (40, 8, 2 ^ 64 - 1)]) with cmd.pegs := [(3, 7)] }
    (s.ready c0 0x0101).isSome = true ∧ after (exec (.pegAdd c0) s) (fun t => ended t c0 .ok 7 0 && t.pegVal 3 == 6) = true := by decide +kernel

theorem test_peg_set :
    let s := { granted (pkt 0x0102 [(32, 2, 16383), (40, 8, 8)]) with cmd.pegs := [(16383, 7)] }
    (s.ready c0 0x0102).isSome = true ∧ after (exec (.pegSet c0) s) (fun t => ended t c0 .ok 7 0 && t.pegVal 16383 == 8) = true := by decide +kernel

theorem test_peg_read :
    let s := granted (pkt 0x0103 [(32, 2, 3)])
    (s.ready c0 0x0103).isSome = true ∧ after (exec (.pegRead c0) s) (fun t => ended t c0 .ok 0 0) = true := by decide +kernel

/-- R29: the same index, an index a whole ring ahead, and one more. -/
theorem test_producer_index : base.fnOwnsQueue 0 0 = true ∧ base.wqSize 0 = 16 ∧
    stays (.wqProducerIndex 0 0 0) base = true ∧
    after (exec (.wqProducerIndex 0 0 16) base) (fun t => (t.queue 0).producer == 16 && !(t.queue 0).halted) = true ∧
    after (exec (.wqProducerIndex 0 0 17) base) (fun t => (t.queue 0).producer == 0 && (t.queue 0).halted && (t.queue 0).doorbellErr) = true := by decide +kernel

/-- R33: a consumer index at the tail, a ring behind it, and one past it. -/
theorem test_consumer_index :
    let s := { base with cmd.cq := [(0, { tail := 16 })] }
    s.fnOwnsQueue 0 0 = true ∧ after (exec (.cqConsumerIndex 0 0 16) s) (fun t => (t.cqOf 0).consumer == 16) = true ∧
    after (exec (.cqConsumerIndex 0 0 0) s) (fun t => (t.cqOf 0).consumer == 0 && !(t.cqOf 0).cqErr) = true ∧
    after (exec (.cqConsumerIndex 0 0 17) s) (fun t => (t.cqOf 0).consumer == 0 && (t.cqOf 0).cqErr) = true := by decide +kernel

theorem test_doorbell_dropped :
    let s := { base with pwr.ready := false }
    stays (.wqProducerIndex 0 0 1) s = true ∧ stays (.cqConsumerIndex 0 0 1) { base with host.flr := [0] } = true ∧
    base.fnOwnsQueue 1 0 = false ∧ after (exec (.wqProducerIndex 1 0 1) base) (fun t => (getD t.host.errLog 1 {}).valid && t.cmd == base.cmd) = true := by decide +kernel

/-! ### Fetch, grant, time-out, completion -/

/-- A ring in HBM on plank 0 of partition 0, with a NOP, or a CANCEL, in its first slot. -/
def hbmRing (o : Nat) : State :=
  { base with csr := put (put base.csr 0x0F000000 0x1) 0x04000000 0x1, hbm := memWrite [] 0 (blockBytes (pkt o [])), tier := { planks := [(0, { tier := .hbm })] },
              cmd := { wq := [(0, { producer := 1 })] } }

theorem test_fetch : (hbmRing 0x0100).mayFetch 0 = true ∧ bit ((hbmRing 0x0100).wqBase 0) 0 = true ∧
    after (exec (.commandFetch 0) (hbmRing 0x0100)) (fun t => (t.queue 0).head == 1 && (t.queue 0).fetched.map (·.pkt) == [pkt 0x0100 []]) = true ∧
    after (exec (.commandFetch 0) (hbmRing 0x0104)) (fun t => (t.queue 0).fetched.isEmpty && (t.queue 0).inflight.map (·.counted) == [false]) = true := by decide +kernel

theorem test_fetch_fails :
    let s := { hbmRing 0x0100 with tier := {} }
    s.mayFetch 0 = true ∧ after (exec (.commandFetch 0) s) (fun t => (t.queue 0).fetchErr && (t.queue 0).halted && (t.queue 0).head == 0) = true := by decide +kernel

theorem test_fetch_host :
    let s := { base with cmd := { wq := [(0, { producer := 1 })] } }
    s.mayFetch 0 = true ∧ bit (s.wqBase 0) 0 = false ∧ after (exec (.commandFetch 0) s) (fun t => t.out == [.hostRead 0 0 0 64] && (t.queue 0).head == 0) = true := by
  decide +kernel

/-- A fetched command at the issue point. -/
def atIssue (k : Block) (met : Bool) : State := { base with cmd := { wq := [(0, { fetched := [{ slot := 5, pkt := k, latched0 := met, latched1 := met, reached := some 0 }] })] } }

theorem test_grant :
    let s := atIssue (pkt 0x0100 []) true
    s.grantable 0 0 { slot := 5, pkt := pkt 0x0100 [], latched0 := true, latched1 := true, reached := some 0 } = true ∧ checkPkt s 0 (pkt 0x0100 []) = none ∧
    after (exec (.commandGrant 0) s) (fun t => (t.queue 0).fetched.isEmpty && (t.queue 0).inflight.map (·.stage) == [.granted] && (t.cqOf 0).reserved == 1) = true := by
  decide +kernel

theorem test_grant_waits :
    let s := atIssue (pkt 0x0100 []) false
    s.wqOn 0 = true ∧ checkPkt s 0 (pkt 0x0100 []) = none ∧ stays (.commandGrant 0) s = true := by decide +kernel

/-- R36: a reserved opcode; a nonzero reserved operand byte of a NOP. -/
theorem test_grant_rejects :
    let s := atIssue (pkt 0x0105 []) true
    checkPkt s 0 (pkt 0x0105 []) = some ⟨.badOpcode, 0⟩ ∧ checkPkt s 0 (pkt 0x0100 [(40, 1, 1)]) = some (badRsv 0 32) ∧
    after (exec (.commandGrant 0) s) (fun t => (t.queue 0).inflight.map (·.stage) == [.ended ⟨.badOpcode, 0, 0, true⟩]) = true := by decide +kernel

/-- R43: 10 µs, and the last nanosecond before. -/
theorem test_wait_timeout :
    let s := { atIssue (pkt 0x0100 []) false with csr := put base.csr 0x0F000008 0xA0024, clk := 10000 }
    fld (s.wqCfg 0) 31 16 = 10 ∧ stays (.waitTimeout 0) { s with clk := 9999 } = true ∧
    after (exec (.waitTimeout 0) s) (fun t => (t.queue 0).inflight.map (·.stage) == [.ended ⟨.timeout, 0, 3, false⟩]) = true := by decide +kernel

theorem test_complete :
    let k := pktSignal 0x0100 (2 + 9 * 2 ^ 16) []
    let s := staged k (.ended ⟨.ok, 0, 0, false⟩)
    (s.inflight c0).map (·.cq) = some (some 0) ∧ (s.cqOf 0).recErr = false ∧ bit (s.cqBase 0) 0 = false ∧
    after (exec (.commandComplete c0) s) (fun t => (t.inflight c0).isNone && (t.cqOf 0).tail == 1 && t.pegVal 2 == 9 && t.out.length == 1) = true := by decide +kernel

theorem test_status_rank : finalStatus .ok true true = .breach ∧ finalStatus .lateCancel true false = .overflowSat ∧ finalStatus .access true true = .access ∧
    finalDetail ⟨.ok, 0, 5, false⟩ { slot := 0, pkt := 0, sat := true, late := true } = 0x50000005 := by decide +kernel

theorem test_cq_irq_time :
    let s := { base with csr := put base.csr 0x0F010008 0x000100000304, cmd := { cq := [(0, { oldest := some 0, unsignalled := 2 })] }, clk := 1000 }
    bit (s.cqCfg 0) 9 = true ∧ fld (s.cqCfg 0) 47 32 = 1 ∧ stays (.cqIrqTime 0) { s with clk := 999 } = true ∧
    after (exec (.cqIrqTime 0) s) (fun t => (t.cqOf 0).unsignalled == 0 && t.host.pendingBits == [0]) = true := by decide +kernel

/-- R46, R47: one fetched command with the tag and one granted, and another tag. -/
theorem test_cancel :
    let k := pkt 0x0104 [(32, 2, 0), (36, 4, 7)]
    let x := pkt 0x0100 [(4, 4, 7)]
    let bad : State := { base with cmd := { wq := [(0, { fetched := [{ slot := 8, pkt := x }], inflight := [{ slot := 0, pkt := pktSignal 0x0104 0 [(36, 4, 7), (10, 1, 0xFD)], counted := false }] })] } }
    let s := { base with cmd := { wq := [(0, { fetched := [{ slot := 8, pkt := x }, { slot := 9, pkt := pkt 0x0100 [] }], inflight := [{ slot := 7, pkt := x }, { slot := 0, pkt := k, counted := false }] })] } }
    (s.ready c0 0x0104).isSome = true ∧ checkPkt s 0 k = none ∧
    after (exec (.cancel c0) s) (fun t => ended t c0 .ok (1 + 2 ^ 32) 0 && (t.queue 0).fetched.map (·.slot) == [9] &&
      (t.inflight ⟨0, 8⟩).map (·.stage) == some (.ended ⟨.cancelled, 0, 0, false⟩) && (t.inflight ⟨0, 7⟩).map (·.late) == some true) = true ∧
    after (exec (.cancel c0) bad) (fun t => endedSt t c0 .badRsv && (t.queue 0).fetched.length == 1) = true ∧
    after (exec (.waitTimeout 3) s) (fun t => endedSt t c0 .ok) = true := by decide +kernel

/-! ### Queue registers -/

theorem test_wq_cfg : base.mayWriteQueue 0 0 = true ∧
    after (exec (.wqCfgWrite 0 0 0x04) base) (fun t => t.wqCfg 0 == 0x04) = true ∧
    after (exec (.wqCfgWrite 0 0 0x25) base) (fun t => t.wqCfg 0 == 0x24 && (getD t.host.errLog 0 {}).kind == 7) = true ∧
    after (exec (.wqCfgWrite 0 1 0x24) base) (fun t => t.wqCfg 1 == 0x24) = true ∧
    after (exec (.wqCfgWrite 0 1 0x31) base) (fun t => t.wqCfg 1 == 0x11 && (getD t.host.errLog 0 {}).kind == 6) = true := by decide +kernel

theorem test_cq_cfg : base.cqInUse 0 = true ∧ after (exec (.cqCfgWrite 0 0 0x4) base) (fun t => t.cqCfg 0 == 0x104 && (getD t.host.errLog 0 {}).kind == 7) = true ∧
    after (exec (.cqCfgWrite 0 0 0x1000000000304) { base with cmd := { cq := [(0, { cqErr := true })] } }) (fun t => bit (t.cqCfg 0) 9 && !(t.cqOf 0).cqErr) = true := by
  decide +kernel

theorem test_peg_value : base.fnOwnsPeg 1 100 = true ∧ base.fnOwnsPeg 1 99 = false ∧ after (exec (.pegValueWrite 1 100 6) base) (fun t => t.pegVal 100 == 6) = true ∧
    after (exec (.pegValueWrite 1 99 6) base) (fun t => t.cmd == base.cmd && (getD t.host.errLog 1 {}).kind == 5) = true := by decide +kernel

/-! ### Arithmetic -/

/-- Ties go to even: 2.5 to 2, 3.5 to 4, -2.5 to -2. -/
theorem test_rounding : rshiftRne 5 1 = 2 ∧ rshiftRne 7 1 = 4 ∧ rshiftRne (-5) 1 = -2 ∧ rshiftSr 5 1 0 = 2 ∧ rshiftSr 5 1 (2 ^ 63) = 3 ∧
    align (2 ^ 46) 1 0 = (2 ^ 47 - 1, true) ∧ align (-2 ^ 46) 1 0 = (-2 ^ 47, false) := by decide +kernel

/-! ### Matrix arrays and their programs -/

/-- An instruction of opcode o with fields (byte, bytes, value). -/
def ins (o : Nat) (fs : List (Nat × Nat × Nat)) : BitVec 256 := BitVec.ofNat 256 (layout ((0, 1, o) :: fs))

/-- Array 0 stands at the first of two instructions of a launch of the command c0. -/
def atInstr (k : BitVec 256) : State :=
  { staged (pkt 0x0300 []) .running with
    arrs := [(0, { image := some ⟨0, false, 0, [k, ins 0 []]⟩, phase := .running, launch := some { cmd := c0 } })] }

/-- What a test of an instruction says of the state: the array stands at the opcode, and has an instruction after it. -/
def stands (s : State) (o : Nat) : Bool := (s.currentOp 0 o).isSome && (s.arr 0).image.any fun im => decide ((s.arr 0).pc + 1 < im.code.length)

/-- Array 0 has gone on. -/
def wentOn (t : State) : Bool := (t.arr 0).pc == 1 && (t.arr 0).phase == .running

theorem test_at_instr : (atInstr (ins 1 [])).AtInstr 0 1 { cmd := c0 } (ins 1 []) := ⟨by decide +kernel, ⟨0, false, 0, [ins 1 [], ins 0 []]⟩, by decide +kernel, by decide +kernel⟩

theorem test_seq_set_add :
    let s := atInstr (ins 1 [(1, 1, 5), (4, 4, 77)])
    let u := { atInstr (ins 2 [(1, 1, 5), (4, 4, 2)]) with arrs := upd (atInstr (ins 2 [(1, 1, 5), (4, 4, 2)])).arrs 0 {} fun x => { x with s := [(5, 0xFFFFFFFF)] } }
    stands s 1 = true ∧ after (exec (.seqSet 0) s) (fun t => wentOn t && (t.arr 0).sreg 5 == 77) = true ∧
    stands u 2 = true ∧ after (exec (.seqAdd 0) u) (fun t => wentOn t && (t.arr 0).sreg 5 == 1) = true := by decide +kernel

theorem test_bnz :
    let k := ins 3 [(1, 1, 5), (2, 2, 1)]
    let u := { atInstr k with arrs := upd (atInstr k).arrs 0 {} fun x => { x with s := [(5, 2)] } }
    stands u 3 = true ∧ after (exec (.bnz 0) u) (fun t => (t.arr 0).pc == 1 && (t.arr 0).sreg 5 == 1) = true ∧
    after (exec (.bnz 0) (atInstr k)) (fun t => wentOn t && (t.arr 0).sreg 5 == 0) = true := by decide +kernel

theorem test_setkey : stands (atInstr (ins 6 [(4, 4, 9), (8, 8, 3)])) 6 = true ∧
    after (exec (.setkey 0) (atInstr (ins 6 [(4, 4, 9), (8, 8, 3)]))) (fun t => wentOn t && (t.arr 0).key == { seed := 3, tensor := 9 }) = true := by decide +kernel

/-- GE 0 holds at once; GE 1 waits; a latched wait goes on. -/
theorem test_waitpeg :
    let k := ins 4 [(8, 8, 2 ^ 18 + 2)]
    let u := { atInstr k with arrs := upd (atInstr k).arrs 0 {} fun x => { x with wait := some (2 ^ 18 + 2, true) } }
    after (exec (.waitpeg 0) (atInstr (ins 4 [(8, 8, 2)]))) wentOn = true ∧ stands (atInstr k) 4 = true ∧
    after (exec (.waitpeg 0) (atInstr k)) (fun t => (t.arr 0).phase == .waiting && (t.arr 0).wait == some (2 ^ 18 + 2, false)) = true ∧
    after (exec (.waitpeg 0) u) wentOn = true := by decide +kernel

/-- A condition latches when its peg is updated (R41). -/
theorem test_waitpeg_latches :
    let k := ins 4 [(8, 8, 2 ^ 18 + 2)]
    let u := { atInstr k with arrs := upd (atInstr k).arrs 0 {} fun x => { x with wait := some (2 ^ 18 + 2, false) } }
    ((pegUpdate 2 (.queue 0) (.add 1) u).arr 0).wait = some (2 ^ 18 + 2, true) := by decide +kernel

theorem test_waitpeg_timeout :
    let k := ins 4 [(4, 2, 3), (8, 8, 2 ^ 18 + 2)]
    let u := { atInstr k with clk := 3000, arrs := upd (atInstr k).arrs 0 {} fun x => { x with wait := some (2 ^ 18 + 2, false) } }
    u.arraysOf c0 = [(0, { cmd := c0 })] ∧ stays (.waitpegTimeout 0) { u with clk := 2999 } = true ∧
    after (exec (.waitpegTimeout 0) u) (fun t => ended t c0 .timeout 0 0 && (t.arr 0).launch.isNone) = true := by decide +kernel

theorem test_sigpeg :
    let s := atInstr (ins 5 [(8, 8, 2 + 6 * 2 ^ 16)])
    stands s 5 = true ∧ after (exec (.sigpeg 0) s) (fun t => wentOn t && t.pegVal 2 == 6) = true := by decide +kernel

/-- A SET that is the last instruction of its image. -/
theorem test_falls_past :
    let s := { staged (pkt 0x0300 []) .running with arrs := [(0, { image := some ⟨0, false, 0, [ins 1 []]⟩, phase := .running, launch := some { cmd := c0 } })] }
    (s.currentOp 0 1).isSome = true ∧ after (exec (.seqSet 0) s) (fun t => ended t c0 .badRsv 0 0x40000002 && (t.arr 0).faultInstr == 0) = true := by decide +kernel

/-- END of the only array ends the launch; END of one of two ends its part. -/
theorem test_seq_end :
    let s := atInstr (ins 0 [])
    let u := { s with arrs := s.arrs ++ [(1, { image := some ⟨0, false, 0, [ins 0 []]⟩, phase := .running, launch := some { cmd := c0, index := 1 } })] }
    s.arraysOf c0 = [(0, { cmd := c0 })] ∧
    after (exec (.seqEnd 0) s) (fun t => (t.inflight c0).any (fun i => i.stage != .running) && (t.arr 0).launch.isNone) = true ∧
    after (exec (.seqEnd 0) u) (fun t => running t c0 && (t.arr 0).launch == some { cmd := c0, ended := true } && (t.arr 1).phase == .running) = true := by decide +kernel

/-- SCRIBE without a request; with one, on one of two arrays: the registers' 256 bytes fit the save area. -/
theorem test_scribe :
    let s := atInstr (ins 7 [(2, 2, 9)])
    let q : Preempt := { cmd := ⟨0, 3⟩, part := 0, area := 0, len := 256, launches := [c0] }
    let u := { s with par := { requests := [q] }, arrs := s.arrs ++ [(1, { image := some ⟨0, false, 0, [ins 0 []]⟩, phase := .running, launch := some { cmd := c0, index := 1 } })] }
    stands s 7 = true ∧ s.requestOf c0 = none ∧ after (exec (.scribe 0) s) (fun t => wentOn t && (t.arr 0).lastMark == 9) = true ∧
    u.requestOf c0 = some q ∧ (takeResume c0 0 u).isSome = true ∧
    after (exec (.scribe 0) u) (fun t => (t.arr 0).launch == some { cmd := c0, mark := some 9, ended := true } && t.par.resumes.map (·.2.arrs.length) == [1]) = true := by
  decide +kernel

/-- A gather of batches of 1 on a ring of 16 entries at Loft granule 16, whose vectors of one line and one scale byte go to the bench. -/
def gatherIns : BitVec 256 := ins 8 [(2, 2, 1), (4, 3, 500), (7, 1, 4), (8, 2, 2), (12, 4, 16), (16, 2, 8), (18, 2, 1), (20, 2, 32), (22, 2, 1), (24, 2, 1), (26, 2, 40)]

/-- Array 0 stands at a gather, or has one outstanding, with n arrivals; entry 0 of its ring names the vector at granule 32 and the scale at byte 4,096. -/
def gathering (out : Bool) (n : Nat) : State :=
  let s := atInstr gatherIns
  { s with loft := memWrite (memWrite (memWrite [] 1024 (toBytes 16 (layout [(0, 2, 1), (2, 2, 1), (4, 4, 32), (8, 4, 4096), (12, 4, 0xABCD)]))) 2048 [0x11, 0x22]) 4096 [0x7F],
           arrs := upd s.arrs 0 {} fun x => if out then { x with pc := 1, gather := some { pc := 0, k := gatherIns, at_ := 0, peg := 2, used := 0, nonzero := some 0 } } else x,
           cmd := { s.cmd with pegs := [(2, BitVec.ofNat 64 n)] } }

/-- What the entry of `gathering` names. -/
def gatheredEntry : GatherEntry := ⟨0x11 :: 0x22 :: List.replicate 62 0, [0x7F], [0xCD, 0xAB, 0, 0]⟩

/-- A full batch fires at once, or later; an END behind it waits. -/
theorem test_gather_fires :
    let ok (t : State) : Bool := (t.arr 0).pc == 1 && (t.arr 0).sreg 15 == 1 && (t.arr 0).gcount == 1 && memRead t.bench 512 2 == [0x11, 0x22] && memGet t.bench 2048 == 0x7F &&
      memRead t.bench 2560 2 == [0xCD, 0xAB] && getD (t.arr 0).consumed 16 0 == 1 && (t.arr 0).gather.isNone
    let s := gathering false 1
    let u := gathering true 1
    stands s 8 = true ∧ count12 (iline gatherIns 2) ≤ arrivals 0 gatherIns s ∧
    (match gatherEntry { cmd := c0 } gatherIns 0 0 s with
      | .ok e => e == gatheredEntry
      | .error _ => false) = true ∧ after (exec (.gather 0) s) ok = true ∧
    (u.gathering 0).isSome = true ∧ after (exec (.gather 0) u) ok = true ∧ u.current 0 = none := by decide +kernel

theorem test_gather_waits :
    let s := atInstr gatherIns
    let u := gathering true 0
    arrivals 0 gatherIns s < count12 (iline gatherIns 2) ∧ bit gatherIns 8 = false ∧
    after (exec (.gather 0) s) (fun t => wentOn t && (t.arr 0).gather == some { pc := 0, k := gatherIns, at_ := 0, peg := 2, used := 0 } && readSeq t 0 == 0x401) = true ∧
    stays (.gather 0) u = true := by decide +kernel

/-- The deadline of 500 ns passes: with one entry, with none under determinism, and not with none elsewhere (R128, R130). A full batch needs two entries here. -/
theorem test_gather_deadline :
    let two (s : State) : State := s.onArr 0 fun x => { x with gather := x.gather.map fun g => { g with k := ins 8 [(2, 2, 2), (4, 3, 500), (7, 1, 4), (8, 2, 2), (12, 4, 16), (16, 2, 8), (18, 2, 1), (20, 2, 32), (22, 2, 1), (24, 2, 1), (26, 2, 40)] } }
    let det (s : State) : State := s.onArr 0 fun x => { x with launch := some { cmd := c0, det := true } }
    let fired (n : W32) (t : State) : Bool := (t.arr 0).sreg 15 == n && (t.arr 0).gather.isNone && (t.arr 0).gatherPerf.2.1 == 1
    stays (.gatherDeadline 0) { two (gathering true 1) with clk := 499 } = true ∧ after (exec (.gatherDeadline 0) { two (gathering true 1) with clk := 500 }) (fired 1) = true ∧
    stays (.gatherDeadline 0) { gathering true 0 with clk := 500 } = true ∧ after (exec (.gatherDeadline 0) { det (gathering true 0) with clk := 500 }) (fired 0) = true := by decide +kernel

/-- An entry of another generation stops the array. -/
theorem test_gather_bad_entry :
    let s := { gathering true 1 with loft := [] }
    (match gatherEntry { cmd := c0 } gatherIns 0 0 s with
      | .ok _ => false
      | .error e => decide (e.2 = badGen 5 0)) = true ∧ after (exec (.gather 0) s) (fun t => ended t c0 .badGen 0 0x50000) = true := by decide +kernel

/-- An instruction that fills a line of the outstanding GATHER, or reads s15, waits for it; another issues (R119, R131). -/
theorem test_gather_holds_back :
    let s (k : BitVec 256) : State := (gathering true 0).onArr 0 fun x => { x with image := some ⟨0, false, 0, [gatherIns, k, ins 0 []]⟩ }
    (s (ins 0x20 [(1, 1, 3), (12, 2, 8)])).current 0 = none ∧ ((s (ins 0x20 [(1, 1, 3), (12, 2, 9)])).current 0).isSome = true ∧
    (s (ins 1 [(1, 1, 15)])).current 0 = none ∧ ((s (ins 1 [(1, 1, 14)])).current 0).isSome = true := by decide +kernel

theorem test_tload :
    let s := { atInstr (ins 9 [(7, 1, 2), (12, 2, 0)]) with bench := [(4, 0xFE), (5, 0xFF), (6, 0xFF), (7, 0xFF)] }
    stands s 9 = true ∧ after (exec (.tload 0) s) (fun t => wentOn t && getD (t.arr 0).tables 2049 0 == 0xFFFFFFFE && getD (t.arr 0).tables 2048 5 == 0) = true := by
  decide +kernel

/-- A FILL of a gathered batch that is empty goes on; with stochastic rounding under determinism it stops at use_gcount (R439, R554: byte 15). -/
theorem test_fill :
    let k := ins 0x10 [(1, 1, 1), (14, 2, 0x1000)]
    let sr := ins 0x10 [(1, 1, 0x81), (14, 2, 0x1000)]
    let u := { atInstr sr with arrs := upd (atInstr sr).arrs 0 {} fun x => { x with launch := some { cmd := c0, det := true } } }
    bit k 124 = true ∧ stands (atInstr k) 0x10 = true ∧ (fillOp ((atInstr k).arr 0) k).n = 0 ∧ after (exec (.fill 0) (atInstr k)) wentOn = true ∧
    (fillOp (u.arr 0) sr).sr = true ∧ after (exec (.fill 0) u) (fun t => ended t c0 .badRsv 0 (2 ^ 30 + 64 + 15)) = true := by decide +kernel

/-- The example of chapter 3 (Tables Arith-4 and Arith-5): one token of SSI8 activations at lines 0 and 1, SSI4 weights at line 2, their scales at line 40. -/
def arithBench : Mem :=
  let w := memWrite (memWrite (memWrite [] 128 [0x87, 0, 0x30]) 144 [0x0F, 0, 0, 0, 0x06]) 176 [0x05, 0, 0, 0, 0x0A]
  memWrite (memWrite (memWrite (memWrite w 0 ([0x64, 0xDB, 0, 0, 0, 0x40] ++ List.replicate 26 0)) 32 [0x80, 0, 0, 0, 0, 0, 0, 0, 0x19]) 64 [0xFA, 0xF7]) 2560
    ([0xFD, 0xFE, 0x80, 0xEF] ++ List.replicate 124 0x80)

/-- A FILL of mode 0x2, SSI8 by SSI4, of one vector, with flags and out fields. -/
def arithFill (flags out : Nat) : BitVec 256 :=
  ins 0x10 [(1, 1, 2 + 16 * flags), (2, 2, 2), (4, 2, 40), (6, 2, 0), (10, 2, 1), (14, 2, 1), (16, 2, 64), (20, 1, out), (22, 2, 80), (28, 2, 8), (30, 1, 1)]

/-- AUTO, ACC48 to the bench: e_t is -24, S0 is 41,205,760, S1 is -198; scales E16 0xFFE8 and, for columns 32 to 63, the zero block. -/
theorem test_fill_example :
    let s := { atInstr (arithFill 3 1) with bench := arithBench }
    stands s 0x10 = true ∧ (fillOp (s.arr 0) (arithFill 3 1)).n = 1 ∧ (readTile s 0 (fillOp (s.arr 0) (arithFill 3 1))).isOk = true ∧
    after (exec (.fill 0) s) (fun t => wentOn t && memRead t.bench 5120 12 == toBytes 6 41205760 ++ toBytes 6 (bitsOf 48 (-198)) &&
      memRead t.bench (88 * 64) 4 == [0xE8, 0xFF, 0x00, 0x80] && (t.arr 0).mode == 2 && (t.arr 0).validSlots == 1) = true := by decide +kernel

/-- EXPLICIT, first and not last: the sums of column 0 and column 1 at exponent 0 stay in the sum region. -/
theorem test_fill_sums :
    let s := { atInstr (arithFill 5 0) with bench := arithBench }
    stands s 0x10 = true ∧ (fillOp (s.arr 0) (arithFill 5 0)).first = true ∧ (fillOp (s.arr 0) (arithFill 5 0)).explicit = true ∧
    (readAct s 0 2 8 0 64).isOk = true ∧ after (exec (.fill 0) s) (fun t => wentOn t && memRead t.bench 4096 16 == toBytes 8 2 ++ toBytes 8 0) = true := by decide +kernel

/-- An array whose products are wrong by one: the output block is not written, and the launch ends INTEGRITY with the array's number (R83, R84). -/
theorem test_fill_residue :
    let s := { atInstr (arithFill 3 1) with bench := arithBench }
    let u := s.onArr 0 ({ · with upset := { prod := 1 } })
    (fillWork 0 { cmd := c0 } (arithFill 3 1) u).isOk = false ∧
    after (exec (.fill 0) u) (fun t => ended t c0 .integrity 0 (intDetail 1 2 0) && (t.arr 0).residueFault && (t.arr 0).residueErrs == 3 &&
      memRead t.bench 5120 6 == [0, 0, 0, 0, 0, 0] && memRead t.bench (88 * 64) 4 == [0, 0, 0, 0x80]) = true := by decide +kernel

/-- A product of 1 by 1 by 1 on the bench: 3 times 5, ACC48 to the bench in EXPLICIT mode at exponent 0. -/
theorem test_lmatmul :
    let k := ins 0x11 [(2, 2, 100)]
    let blk := toBytes 64 (layout [(0, 2, 1 + 16 * 2 + 256 + 1024), (2, 2, 1), (4, 4, 1), (8, 2, 1), (12, 4, 0), (16, 4, 1), (20, 4, 2), (24, 4, 3), (28, 4, 4), (32, 4, 7), (40, 2, 20), (42, 2, 1), (44, 1, 5)])
    let s := { atInstr k with bench := memWrite (memWrite (memWrite [] 0 [3]) 128 [5]) 6400 blk }
    stands s 0x11 = true ∧ (match checkMat s 0 blk with
      | .ok o => decide (o.n = 1 ∧ o.m = 1 ∧ o.dst = 0 ∧ o.mode = 2) && (rowBlocks s 0 { cmd := c0 } o.wEl o.wSc o.ww o.wBlock false o.k 0).isOk &&
          (rowBlocks s 0 { cmd := c0 } o.aEl o.aSc o.aw (blockBytesOf o.aw) false o.k 0).isOk
      | .error _ => false) = true ∧
    after (exec (.lmatmul 0) s) (fun t => wentOn t && memRead t.bench 256 6 == [15, 0, 0, 0, 0, 0] && memRead t.bench 448 2 == [0, 0]) = true := by decide +kernel

/-! ### Vector instructions -/

/-- Array 0 stands at a vector instruction vd = 3, va = 1, vb = 2, vc = 4 of opcode o, with lane 0 of registers 1, 2 and 4 given. -/
def vec (o : Nat) (x y z : W32) (fs : List (Nat × Nat × Nat)) : State :=
  let s := atInstr (ins o ([(1, 1, 3), (2, 1, 1), (3, 1, 2), (4, 1, 4)] ++ fs))
  { s with arrs := upd s.arrs 0 {} fun a => { a with vregs := [(64, x), (128, y), (256, z)] } }

/-- The instruction stands there, goes on, and leaves v in lane 0 of register 3. -/
def lane0 (i : Instr) (o : Nat) (s : State) (v : W32) : Bool := stands s o && after (exec i s) fun t => wentOn t && (t.arr 0).lane 3 0 == v

theorem test_vadd_saturates : lane0 (.vadd 0) 0x22 (vec 0x22 0x7FFFFFFF 1 0 []) 0x7FFFFFFF = true ∧
    after (exec (.vadd 0) (vec 0x22 0x7FFFFFFF 1 0 [])) (fun t => (t.arr 0).satSeen) = true := by decide +kernel
theorem test_vsub : lane0 (.vsub 0) 0x23 (vec 0x23 5 7 0 []) 0xFFFFFFFE = true := by decide +kernel
theorem test_vmin : lane0 (.vmin 0) 0x24 (vec 0x24 0xFFFFFFFF 7 0 []) 0xFFFFFFFF = true := by decide +kernel
theorem test_vmax : lane0 (.vmax 0) 0x25 (vec 0x25 0xFFFFFFFF 7 0 []) 7 = true := by decide +kernel
theorem test_vcmp : lane0 (.vcmp 0) 0x26 (vec 0x26 5 5 0 [(5, 1, 0x00)]) 1 = true := by decide +kernel
theorem test_vsel : lane0 (.vsel 0) 0x27 (vec 0x27 5 6 0 []) 6 = true ∧ lane0 (.vsel 0) 0x27 (vec 0x27 5 6 9 []) 5 = true := by decide +kernel
theorem test_vand : lane0 (.vand 0) 0x28 (vec 0x28 12 10 0 []) 8 = true := by decide +kernel
theorem test_vor : lane0 (.vor 0) 0x29 (vec 0x29 12 10 0 []) 14 = true := by decide +kernel
theorem test_vxor : lane0 (.vxor 0) 0x2A (vec 0x2A 12 10 0 []) 6 = true := by decide +kernel
theorem test_vmul16 : lane0 (.vmul16 0) 0x2B (vec 0x2B 0xFFFF 0x10002 0 []) 0xFFFFFFFE = true := by decide +kernel
theorem test_vmul32 : lane0 (.vmul32 0) 0x2C (vec 0x2C 0x10000 0x10000 0 []) 0x7FFFFFFF = true := by decide +kernel
theorem test_vshl : lane0 (.vshl 0) 0x2D (vec 0x2D 0xFFFFFFFD 0 0 [(6, 1, 2)]) 0xFFFFFFF4 = true := by decide +kernel
theorem test_vshr : lane0 (.vshr 0) 0x2E (vec 0x2E 5 0 0 [(6, 1, 1)]) 2 = true := by decide +kernel
/-- align from exponent 0 (imm) to -1 (lane 0 of vb) doubles. -/
theorem test_valign : lane0 (.valign 0) 0x2F (vec 0x2F 5 0xFFFFFFFF 0 []) 10 = true := by decide +kernel
theorem test_vblen : lane0 (.vblen 0) 0x30 (vec 0x30 0xFFFFFFF8 0 0 []) 4 = true := by decide +kernel
/-- An index below 0 is clamped, and saturates. -/
theorem test_vlut :
    let s := vec 0x31 0xFFFFFFFF 0 0 [(7, 1, 1)]
    let u := { s with arrs := upd s.arrs 0 {} fun x => { x with tables := [(1024, 77)] } }
    lane0 (.vlut 0) 0x31 u 77 = true ∧ after (exec (.vlut 0) u) (fun t => (t.arr 0).satSeen) = true := by decide +kernel
theorem test_vbsum : lane0 (.vbsum 0) 0x32 (vec 0x32 5 0 0 []) 5 = true ∧
    after (exec (.vbsum 0) (vec 0x32 5 0 0 [])) (fun t => (t.arr 0).lane 3 31 == 5 && (t.arr 0).lane 3 32 == 0) = true := by decide +kernel
theorem test_vbmax : lane0 (.vbmax 0) 0x33 (vec 0x33 0xFFFFFFFF 0 0 []) 0 = true := by decide +kernel
theorem test_vmov : lane0 (.vmov 0) 0x35 (vec 0x35 42 0 0 []) 42 = true := by decide +kernel
/-- A line of 4-bit elements: the second lane is -1. -/
theorem test_vld :
    let s := { vec 0x20 0 0 0 [(5, 1, 0x10)] with bench := [(0, 0xF3)] }
    lane0 (.vld 0) 0x20 s 3 = true ∧ after (exec (.vld 0) s) (fun t => (t.arr 0).lane 3 1 == 0xFFFFFFFF) = true := by decide +kernel
theorem test_vst : stands (vec 0x21 0x12345678 0 0 [(12, 2, 4095)]) 0x21 = true ∧
    after (exec (.vst 0) (vec 0x21 0x12345678 0 0 [(12, 2, 4092)])) (fun t => wentOn t && memRead t.bench (4092 * 64) 5 == [0x78, 0x56, 0x34, 0x12, 0]) = true := by
  decide +kernel
/-- One element of 7 in an otherwise zero block: SSI4 keeps it exactly. -/
theorem test_vreq : stands (vec 0x34 7 0 0 [(16, 4, 4096)]) 0x34 = true ∧
    after (exec (.vreq 0) (vec 0x34 7 0 0 [(16, 4, 4096)])) (fun t => wentOn t && memGet t.bench 0 == 7) = true := by decide +kernel

/-! ### Launches -/

/-- A launch of 32 arrays, the first group, with the image at Loft byte 0 resident. -/
def launching (o : Nat) : State :=
  let s := granted (pkt o [(40, 1, 0), (41, 1, 1), (44, 4, 99)])
  { s with arrs := (List.range 32).map fun a => (a, { image := some ⟨0, false, 0, [ins 0 []]⟩ }) }

theorem test_klaunch :
    let s := launching 0x0300
    (s.ready c0 0x0300).isSome = true ∧ (checkArrays 0 (List.range 32) s).isOk = true ∧ (List.range 32).all (s.hasImage ⟨false, 0⟩) = true ∧
    launchArrays (pkt 0x0300 [(41, 1, 1)]) = List.range 32 ∧
    after (exec (.klaunch c0) s) (fun t => running t c0 && (t.arr 31).pc == 0 && (t.arr 31).sreg 0 == 31 && (t.arr 31).sreg 1 == 99 && (t.arr 31).phase == .running) = true := by
  decide +kernel

/-- An image of one END in the Loft: its header at byte 0 and its code after it. -/
theorem test_kpreload :
    let s := { granted (pkt 0x0301 [(40, 1, 0), (41, 1, 1)]) with loft := [(0, 1), (2, 1)] }
    (s.ready c0 0x0301).isSome = true ∧ (checkArrays 0 (List.range 32) s).isOk = true ∧
    (loadImage c0 0 ⟨false, 0⟩ (s.updIn c0 ({ · with stage := .running }))).isOk = true ∧
    after (exec (.kpreload c0) s) (fun t => ended t c0 .ok 0 0 && (t.arr 31).image.any fun im => im.code == [0]) = true := by decide +kernel

/-! ### Planes and the Dovetail -/

/-- The Loft with n bytes at an address, laid out from fields. -/
def atLoft (a n : Nat) (fs : List (Nat × Nat × Nat)) (s : State) : State := { s with loft := memWrite s.loft a (toBytes n (layout fs)) }

/-- One row of one zero block: scales at byte 128 hold the zero-block code. -/
def planing (o : Nat) : State :=
  atLoft 128 1 [(0, 1, 0x80)] (atLoft 0 64 [(0, 1, 1), (4, 3, 32), (8, 3, 1), (16, 8, 192), (24, 8, 128), (32, 8, 256), (40, 8, 320), (48, 8, if o = 0x02F1 then 384 else 0)]
    (granted (pkt o [(32, 8, 0)])))

theorem test_planes : ∀ e ∈ [(0x02F0, Instr.planePrune c0, PlaneKind.prune), (0x02F1, .planeApply c0, .apply), (0x02F2, .planeExpand c0, .expand)],
    ((planing e.1).ready c0 e.1).isSome = true ∧ (planeOp c0 0 e.2.2 (pkt e.1 [(32, 8, 0)]) (planing e.1)).isOk = true ∧
    after (exec e.2.1 (planing e.1)) (fun t => endedSt t c0 .ok && memGet t.loft 320 == 0x80) = true := by decide +kernel

/-- A layer record for external logits: 4 experts, k_min 1, k_max 2, M 2, table 0. -/
def layerFields : List (Nat × Nat × Nat) := [(0, 1, 0x11), (2, 2, 4), (6, 1, 1), (7, 1, 2), (8, 1, 2), (16, 2, 0x8000), (18, 2, 0x4000)]
/-- That layer, loaded as layer 3, with a table of ones. -/
def withLayer (s : State) : State := { s with dvt := { s.dvt with layers := [(3, BitVec.ofNat 512 (layout layerFields))], tables := [(0, List.replicate 1024 1)] } }

theorem test_layer_load :
    let s := atLoft 0 64 layerFields { granted (pkt 0x0400 [(32, 2, 3)]) with dvt := { tables := [(0, [1])] } }
    (s.ready c0 0x0400).isSome = true ∧ s.inRange 0 2 3 = true ∧ (cmdBlock c0 0 ⟨false, 0⟩ 64 8 0 layerRsv (layerCheck 0 s) s).isOk = true ∧
    after (exec (.dvtLayerLoad c0) s) (fun t => ended t c0 .ok 0 0 && t.dvt.layers.map (·.1) == [3]) = true := by decide +kernel

theorem test_plan_load :
    let s := atLoft 0 64 [(0, 1, 1), (2, 2, 3), (4, 2, 9), (6, 2, 4), (8, 2, 1), (12, 1, 1), (16, 8, 64)]
      (atLoft 64 64 [(0, 4, 2 ^ 20 + 5)] (withLayer (granted (pkt 0x0410 [(32, 2, 3)]))))
    (s.ready c0 0x0410).isSome = true ∧ s.planKib 0 3 + storeKib 4 ≤ s.rangeCount 0 4 ∧
    after (exec (.dvtPlanLoad c0) s) (fun t => ended t c0 .ok 0 0 && t.dvt.plans.map (fun x => (x.1, x.2.epoch, x.2.words.head?)) == [(3, 9, some (2 ^ 20 + 5))]) = true := by
  decide +kernel

theorem test_avail_set :
    let s := granted (pkt 0x0411 [(32, 2, 3), (34, 2, 1), (36, 1, 0x11)])
    (s.ready c0 0x0411).isSome = true ∧ s.inRange 0 2 3 = true ∧
    after (exec (.dvtAvailSet c0) s) (fun t => ended t c0 .ok 0 0 && t.dvt.avail == [(availKey 3 1, 0x11)]) = true := by decide +kernel

theorem test_layout_load_and_switch :
    let s := atLoft 0 64 [(0, 1, 1), (2, 2, 3), (4, 2, 4), (8, 8, 64)]
      (atLoft 64 64 [(0, 4, 2 ^ 20 + 7)] (withLayer (granted (pkt 0x0420 [(32, 8, 0)]))))
    let u := { granted (pkt 0x0421 [(32, 2, 1), (34, 2, 10), (36, 1, 0)]) with dvt := { layouts := [(0, { staged := [(3, [7])] })] }, clk := 5 }
    (s.ready c0 0x0420).isSome = true ∧ after (exec (.dvtLayoutLoad c0) s) (fun t => ended t c0 .ok 0 0 && ((t.layout 0).staged.map fun e => (e.1, e.2.take 2)) == [(3, [2 ^ 20 + 7, 0])]) = true ∧
    newer 1 (u.layout 0).epoch = true ∧
    after (exec (.dvtLayoutSwitch c0) u) (fun t => ended t c0 .ok 0 0 && (t.layout 0).current == [(3, [7])] && (t.layout 0).epoch == 1 && (t.layout 0).graceEnd == 10005) = true := by
  decide +kernel

theorem test_grace_expiry :
    let s := { base with dvt := { layouts := [(1, { grace := [(5, 0)], graceEnd := 10 })] } }
    after (exec (.graceExpiry 1) { s with clk := 9 }) (fun t => (t.layout 1).grace == [(5, 0)]) = true ∧
    after (exec (.graceExpiry 1) { s with clk := 10 }) (fun t => (t.layout 1).grace == []) = true := by decide +kernel

/-- One instance entry: expert 2, instance 0, slots of 2 granules, ring of 16 entries, peg 4. -/
def instFields : List (Nat × Nat × Nat) := [(0, 2, 2), (4, 4, 8), (8, 4, 64), (12, 2, 3), (14, 1, 4), (16, 4, 32), (20, 2, 4)]

theorem test_recv_open :
    let s := atLoft 0 64 [(0, 1, 1), (2, 1, 5), (3, 1, 1), (4, 2, 3), (6, 2, 77), (8, 8, 64)] (atLoft 64 32 instFields (granted (pkt 0x0422 [(32, 8, 0)])))
    (s.ready c0 0x0422).isSome = true ∧ s.inRange 0 7 5 = true ∧ s.inRange 0 2 3 = true ∧
    after (exec (.dvtRecvOpen c0) s) (fun t => ended t c0 .ok 0 0 && t.dvt.windows.map (fun w => (w.1, w.2.layer, w.2.step, w.2.insts.length)) == [(5, 3, 77, 1)]) = true := by
  decide +kernel

theorem test_selection :
    let r : LayerEntry := ⟨BitVec.ofNat 512 (layout layerFields)⟩
    r.kMin ≤ r.kMax ∧ (selectToken r (List.replicate 1024 1) [3, 9, 9, -1]).cand = [(1, 16384), (2, 16384)] ∧ (selectToken r (List.replicate 1024 1) [3, 9, 9, -1]).count = 1 ∧
    share 7 2 0 0 0 = 4 ∧ share 7 2 1 0 0 = 3 := by decide +kernel

/-- The layer record for external logits, of 4 experts. -/
def layerBlk : Block := BitVec.ofNat 512 (layout layerFields)
/-- A Dovetail step that has been granted, with the layer entry and table in force. -/
def stepGranted (k : Block) (st : Stage) (blk : List Byte) : State :=
  { base with cmd := { wq := [(0, { inflight := [{ slot := 0, pkt := k, stage := st, layers := [(3, layerBlk)], tables := [(0, List.replicate 1024 1)], blk := blk }] })] } }
/-- A score block of one token of external SSI16 logits. -/
def scoreFields : List (Nat × Nat × Nat) := [(0, 1, 1), (2, 2, 3), (4, 4, 1), (32, 8, 64), (40, 8, 128)]
/-- A step at work on one token. -/
def stepRun (k : StepKind) (fs : List (Nat × Nat × Nat)) : DvtRun :=
  { cmd := c0, part := 0, lc := false, order := 0, kind := k, blk := toBytes 64 (layout fs), entry := layerBlk, table := List.replicate 1024 1 }

/-- One token of external SSI16 logits in one zero block: the first experts tie. -/
def scoring (st : Stage) : State :=
  atLoft 0 64 scoreFields (atLoft 128 1 [(0, 1, 0x80)] (stepGranted (pkt 0x0402 [(32, 8, 0), (40, 8, 192)]) st []))
/-- The step runs, with what the selection unit holds. -/
def scored (sel : Option CmdRef) : State := { scoring .running with dvt := { runs := [stepRun .score scoreFields], sel := sel } }

/-- A score step begins, is taken by the selection unit, and ends with its record written. -/
theorem test_score :
    ((scoring .granted).ready c0 0x0402).isSome = true ∧ (scoring .granted).run c0 = none ∧
    (readScoreBlock c0 0 ⟨false, 0⟩ 1 ((scoring .granted).updIn c0 ({ · with stage := .running }))).isOk = true ∧ scoreFault ⟨layerBlk⟩ (scoring .granted) = none ∧
    after (exec (.dvtScore c0) (scoring .granted)) (fun t => running t c0 && t.dvt.runs == [stepRun .score scoreFields]) = true ∧
    after (exec (.dvtScore c0) (scored none)) (fun t => t.dvt.sel == some c0) = true ∧ (selectNext (stepRun .score scoreFields) (scored (some c0))).2 = none ∧
    after (exec (.dvtScore c0) (scored (some c0))) (fun t => ended t c0 .ok 1 0 && memRead t.loft 192 3 == [1, 1, 2] && memRead t.loft 200 6 == [0, 0, 0, 64, 1, 0]) = true := by
  decide +kernel

/-- A layer whose logits the score arrays form: 256 experts of 16,384 elements stream in sub-batches of 128 tokens at 8 bits, 256 of few elements. -/
theorem test_sub_batch :
    let e (ax d : Nat) : LayerEntry := ⟨BitVec.ofNat 512 (layout [(0, 1, 1), (1, 1, ax), (2, 2, 256), (4, 2, d)])⟩
    (e 0x00 16384).ext = false ∧ (e 0x00 16384).subBatch = 128 ∧ (e 0x00 64).subBatch = 256 := by decide +kernel

/-- Of two steps that want the selection unit, the LC step is chosen, and of one class the one granted first. -/
theorem test_step_order :
    let r := stepRun .score scoreFields
    let x (lc : Bool) (o : Nat) : DvtRun := { r with cmd := ⟨1, 0⟩, lc := lc, order := o }
    let s (y : DvtRun) : State := { base with dvt := { runs := [r, y] } }
    (s (x true 5)).chosen (DvtRun.wantsSel (s (x true 5))) r = false ∧ (s (x false 5)).chosen (DvtRun.wantsSel (s (x false 5))) r = true ∧
    (s (x true 5)).chosen (DvtRun.wantsSel (s (x true 5))) (x true 5) = true := by decide +kernel

/-- A plan that gives instance 0 of expert 1 one credit. -/
def onePlan : Plan := ⟨BitVec.ofNat 512 (layout [(0, 1, 0x11), (2, 2, 3), (8, 2, 1), (12, 1, 1)]), 0, [0, 0, 0, 0, 2 ^ 20 + 1]⟩
/-- A DVT_ADMIT block of one token. -/
def admitFields : List (Nat × Nat × Nat) := [(0, 1, 1), (2, 2, 3), (4, 4, 1), (8, 8, 128), (16, 8, 256)]
/-- A step that admits one token with one candidate record: its first choice has a credit at instance 0. -/
def admitting (st : Stage) (rs : List DvtRun) : State :=
  let s := atLoft 0 64 admitFields
    (atLoft 128 128 [(0, 1, 1), (1, 1, 1), (2, 1, 2), (6, 2, 3), (8, 4, 1 + 16384 * 2 ^ 16), (12, 4, 2)] (stepGranted (pkt 0x0412 [(32, 8, 0)]) st []))
  { s with dvt := { s.dvt with runs := rs, banks := [(0, ⟨c0, 0, 0, [(3, [0, 0, 0, 0, 2 ^ 20])], [], [(3, onePlan)]⟩)] } }

theorem test_admit :
    let s := admitting .granted []
    let u := admitting .running [stepRun .admission admitFields]
    (s.ready c0 0x0412).isSome = true ∧ (cmdBlock c0 0 ⟨false, 0⟩ 64 0x0C 0 admitRsv admitVals s).isOk = true ∧ (s.stepEntry c0 3).map (·.blk) = some layerBlk ∧
    (admitAgainst c0 3 s).isOk = true ∧ after (exec (.dvtAdmit c0) s) (fun t => running t c0 && t.dvt.runs == [stepRun .admission admitFields]) = true ∧
    u.chosen DvtRun.wantsAdmit (stepRun .admission admitFields) = true ∧ (admitNext (stepRun .admission admitFields) u).2 = none ∧
    after (exec (.dvtAdmit c0) u) (fun t => ended t c0 .ok 1 0 && (t.bankOf c0).isNone) = true := by decide +kernel

/-! ### Units, returns and combine -/

/-- A packet in the inbox. -/
def inboxed (f : Nat) (k : Packet) (s : State) : State := { s with fab := { s.fab with inbox := s.fab.inbox ++ [(f, k)] } }

/-- A dispatch unit of 32 elements at SSI4: source 5, layer 3, step 77, expert 2, its instance named at host 9, under layout epoch 0. -/
def dispatchDesc : List (Nat × Nat × Nat) := [(0, 1, 1), (4, 4, 2 + 3 * 2 ^ 14), (8, 4, 5), (12, 4, 9), (20, 2, 77), (24, 4, 0x0100000), (30, 2, 32)]
/-- A unit's packet, whole: its descriptor, a granule of elements and a granule of scales. -/
def unitPkt (fs : List (Nat × Nat × Nat)) : Packet := ⟨0, toBytes 192 (layout fs)⟩

/-- A window of layer 3 and step 77 with one instance of expert 2: two slots at granule 64, a ring of 16 entries at granule 32, peg 4. -/
def windowed (cap : Nat) : State :=
  { base with dvt := { windows := [(5, ⟨0, 3, 77, [{ entry := BitVec.ofNat 256 (layout instFields), capUsed := cap }], []⟩)] } }
/-- The previous layout is in its grace time, and named instance 0 of expert 2 here. -/
def graced (s : State) : State := { s with dvt := { s.dvt with layouts := [(0, { epoch := 1, prevEpoch := some 0, grace := [(2 + 3 * 2 ^ 14, 0)], graceEnd := 100 })] } }

theorem test_dispatch_none :
    after (exec (.dispatchUnit (unitPkt dispatchDesc)) base) (fun t => t.dvt.discarded == 1 && t.dvt.returns == []) = true := by decide +kernel

/-- A unit that the grace list admits is served: its peg counts, its ring entry names the granule after the descriptor. -/
theorem test_dispatch_served :
    let u := unitPkt dispatchDesc
    let b := toBlock u.payload
    unitOk 0 u.payload = true ∧ (graced (windowed 0)).graced 0 (uWord b) (uInst b) (uf b 16 2) = true ∧
    after (exec (.dispatchUnit u) (graced (windowed 0))) (fun t => t.pegVal 4 == 1 && memRead t.loft 2052 4 == [65, 0, 0, 0] &&
      (t.dvt.windows.map fun w => (w.2.insts.map (·.next), w.2.units.map (·.grace))) == [([1], [true])]) = true := by decide +kernel

/-- The refusals: no grace and no host, an expert marked diverged, an instance marked out, and no space; none is served. -/
theorem test_dispatch_refused :
    let u := unitPkt dispatchDesc
    let b := toBlock u.payload
    let av (v : BitVec 5) : State := { graced (windowed 0) with dvt := { (graced (windowed 0)).dvt with avail := [(availKey 3 2, v)] } }
    (hostOf (instWord ((windowed 0).layout 0).current 3 2 (uInst b))).isNone = true ∧ (windowed 0).graced 0 (uWord b) (uInst b) (uf b 16 2) = false ∧
    (getD (av 0x10).dvt.avail (availKey 3 2) 0).toNat.testBit 4 = true ∧ (getD (av 1).dvt.avail (availKey 3 2) 0).toNat.testBit (uInst b) = true ∧
    ((windowed 8).dvt.windows.map fun w => w.2.insts.map fun x => (takeSpace 0 3 x b 192 (graced (windowed 8))).isNone) = [[true]] := by decide +kernel

/-- A slot that holds one dispatched choice and one still to come. -/
def slotted (comb : Option CmdRef) (timeout clk : Nat) : State :=
  let ch (o : Nat) (st : RetState) : SlotChoice := { token := o, c := 0, expert := 2, inst := 0, disp := 0, p := 1, g := 1, ordinal := o, host := 9, epoch := 0, st := st }
  { staged (pkt 0x0425 []) .running with
    clk := clk,
    dvt := { slots := [(1, { cmd := ⟨0, 9⟩, part := 0, seq := 3, epoch := 0, blk := toBytes 64 (layout [(6, 2, 3), (32, 8, 4096)]), layer := 3, v := 2, d := 32, choices := [ch 0 .sent, ch 1 .queued],
                             comb := comb, combBlk := toBytes 64 (layout [(4, 2, timeout)]), bufs := [(0, 7)] })] } }

/-- A return for choice 0 of slot 1 with sequence number 3, status OK and 32 elements at SSI4. -/
def returnPkt (seq : Nat) : Packet := unitPkt [(0, 1, 0x11), (8, 4, 5), (12, 4, 9), (24, 4, seq * 2 ^ 24 + 2 ^ 20), (30, 2, 32)]

theorem test_return_unit :
    unitOk 1 (returnPkt 3).payload = true ∧
    after (exec (.returnUnit (returnPkt 3)) base) (fun t => t.dvt.staleReturns == 1) = true ∧
    after (exec (.returnUnit (returnPkt 4)) (slotted none 0 0)) (fun t => t.dvt.staleReturns == 1) = true ∧
    after (exec (.returnUnit (returnPkt 3)) (slotted none 0 0)) (fun t => t.dvt.slots.map (fun e => e.2.choices.map (·.st)) == [[.served, .queued]] && memGet t.loft 4096 == 0x11) = true := by
  decide +kernel

theorem test_combine_waits :
    let s := atLoft 0 64 [(0, 2, 0x51), (2, 1, 1)] { slotted none 0 0 with cmd := { wq := [(0, { inflight := [{ slot := 0, pkt := pkt 0x0425 [(32, 8, 0)] }] })] } }
    (s.ready c0 0x0425).isSome = true ∧ s.inRange 0 6 1 = true ∧
    after (exec (.dvtCombine c0) s) (fun t => running t c0 && (t.slot 1).any fun x => x.comb == some c0) = true := by decide +kernel

/-- The timeout of 1 µs has passed at 1,000 ns, not before; 0 never passes. -/
theorem test_combine_timeout :
    stays (.combineTimeout c0) (slotted (some c0) 1 999) = true ∧ stays (.combineTimeout c0) (slotted (some c0) 0 5000) = true ∧
    (((slotted (some c0) 1 1000).slot 1).any fun x => x.cf 4 2 != 0 && decide (x.cf 4 2 * 1000 ≤ 1000)) = true := by decide +kernel

theorem test_dvt_return :
    let w : RecvWin := ⟨0, 3, 77, [], [⟨2, 0, 6, toBlock (unitPkt dispatchDesc).payload, false, false, false⟩]⟩
    let s := atLoft 0 64 [(0, 2, 1), (2, 1, 5), (4, 4, 1), (8, 8, 64), (16, 8, 128), (24, 4, 0), (32, 8, 128)]
      (atLoft 64 4 [(0, 4, 6)] { granted (pkt 0x0424 [(32, 8, 0)]) with dvt := { windows := [(5, w)] } })
    (s.ready c0 0x0424).isSome = true ∧ s.inRange 0 7 5 = true ∧ (cmdBlock c0 0 ⟨false, 0⟩ 64 0x10 0 returnRsv returnVals s).isOk = true ∧
    (cmdRead c0 0 ⟨false, 64⟩ 4 s).toOption = some [6, 0, 0, 0] ∧ (pickReturns [(0, 6)] w.units []).isOk = true := by decide +kernel

/-- A unit's packet for device d: source 5, tag 16, the whole unit of 64 bytes. -/
def unitPacket (d : Nat) (key : Nat := 1) : Packet := mkPacket 5 d 0x28 3 false false key 0 [(32, 4, 16), (36, 4, d), (44, 4, 64)] (List.replicate 64 1)

theorem unitPacket_ok : ∀ p : BitVec 4, (unitPacket p.toNat).ty = 0x28 ∧ (unitPacket p.toNat).cls = 3 ∧ malformed (unitPacket p.toNat) = false ∧
    crcOk (unitPacket p.toNat) = true ∧ epochCheck base (unitPacket p.toNat) = none ∧ (unitPacket p.toNat).f 36 4 % 2 ^ 20 = p.toNat ∧
    (unitPacket p.toNat).f 40 4 % 2 ^ 23 = 0 ∧ (unitPacket p.toNat).f 44 4 = (unitPacket p.toNat).payload.length := by decide +kernel

/-- The unit for this device is taken; the unit for a device of the next bent is one to relay, which waits where its partition has no buffer and goes on where it has
no partition. -/
theorem test_unit_packet :
    (base.Takes 0x28 3 (unitPacket Config.posId.toNat) ∧ (unitPacket Config.posId.toNat).f 36 4 % 2 ^ 20 = base.selfId) ∧
    base.Takes 0x28 3 (unitPacket 16 5) ∧ (unitPacket 16 5).f 36 4 % 2 ^ 20 ≠ base.selfId ∧ base.partOfKey (unitPacket 16 5).key = none ∧
    base.unitBlocked (unitPacket 16) = true := by
  have h := unitPacket_ok Config.posId
  have g : (unitPacket 16 5).ty = 0x28 ∧ (unitPacket 16 5).cls = 3 ∧ malformed (unitPacket 16 5) = false ∧ crcOk (unitPacket 16 5) = true ∧
      epochCheck base (unitPacket 16 5) = none ∧ (unitPacket 16 5).f 36 4 % 2 ^ 20 = 16 ∧ base.partOfKey (unitPacket 16 5).key = none ∧
      (unitPacket 16).f 36 4 % 2 ^ 20 = 16 ∧ base.noStaging (unitPacket 16) = true := by decide +kernel
  have hp := Config.posId.isLt
  refine ⟨⟨⟨h.1, h.2.1, h.2.2.1, rfl, fun _ => ⟨h.2.2.2.1, h.2.2.2.2.1⟩⟩, h.2.2.2.2.2.1.trans base_selfId.symm⟩, ⟨g.1, g.2.1, g.2.2.1, rfl, fun _ => ⟨g.2.2.2.1, g.2.2.2.2.1⟩⟩, ?_,
    g.2.2.2.2.2.2.1, ?_⟩
  · rw [g.2.2.2.2.2.1, base_selfId]; omega
  · rw [State.unitBlocked, g.2.2.2.2.2.2.2.2, Bool.and_true, g.2.2.2.2.2.2.2.1, base_selfId]
    exact bne_iff_ne.mpr (by omega)

/-- A DVT_ROUTE block of slot 1 with return regions of 8 granules. -/
def routeFields : List (Nat × Nat × Nat) := [(0, 2, 1), (2, 1, 1), (6, 2, 8), (8, 8, 512), (40, 4, 1)]
/-- A routing step of one token of external logits whose bank holds no plan of its layer, or one that gives no instance a credit. -/
def routing (st : Stage) (plans : Map Plan) (rs : List DvtRun) (x : CombineSlot) : State :=
  let s := atLoft 0 64 routeFields (atLoft 512 64 scoreFields (atLoft 128 1 [(0, 1, 0x80)] (stepGranted (pkt 0x0423 [(32, 8, 0)]) st (toBytes 64 (layout routeFields)))))
  { s with dvt := { s.dvt with runs := rs, banks := [(0, ⟨c0, 0, 0, [], [], plans⟩)], slots := [(1, x)] } }
/-- A plan without credits. -/
def noPlan : Plan := ⟨BitVec.ofNat 512 (layout [(0, 1, 0x11), (2, 2, 3), (8, 2, 1), (12, 1, 1)]), 0, []⟩
/-- The slot of the step before anything is sent, and one whose units have all been handed over. -/
def freshSlot : CombineSlot := { cmd := c0, part := 0, seq := 0, epoch := 0 }
def sentSlot : CombineSlot := { freshSlot with v := 1, sentN := 4, dropped := 2, bits := 3 }

/-- A DVT_ROUTE begins when its blocks pass; one without a plan ends; one whose units are in ends OK with its counts. -/
theorem test_route :
    let s := routing .granted [(3, noPlan)] [] freshSlot
    let e : State := { routing .granted [] [] freshSlot with dvt := { banks := [(0, ⟨c0, 0, 0, [], [], []⟩)] } }
    let u := routing .running [] [] sentSlot
    ((s.ready c0 0x0423).isSome = true ∧ s.run c0 = none ∧
      ((s.ready c0 0x0423).any fun i => (checkRoute c0 0 i s).isOk) = true ∧
      after (exec (.dvtRoute c0) s) (fun t => running t c0 && t.dvt.runs == [stepRun .route scoreFields]) = true) ∧
    (e.slotOf c0 = none ∧ ((e.ready c0 0x0423).any fun i => match checkRoute c0 0 i e with | .error x => x.st == .badRsv | .ok _ => false) = true ∧
      after (exec (.dvtRoute c0) e) (fun t => endedSt t c0 .badRsv && (t.bankOf c0).isNone) = true) ∧
    sentSlot.queued = [] ∧ (u.running c0).isSome = true ∧
    after (exec (.dvtRoute c0) u) (fun t => ended t c0 .ok (4 + 2 * 2 ^ 32) 3 && (t.bankOf c0).isNone && (t.slot 1).any fun x => !x.routing) = true := by decide +kernel

/-- A token that is selected and a plan without credits: the step's last token is admitted, its choices are dropped, and the step ends. -/
theorem test_route_work :
    let x (y : TokenScore) : DvtRun := { stepRun .route scoreFields with picked := [y] }
    let s := routing .running [(3, noPlan)] [stepRun .route scoreFields] freshSlot
    let s := { s with dvt := { s.dvt with sel := some c0 } }
    (stepEvent (stepRun .route scoreFields) s).2 = none ∧
    after (exec (.dvtRoute c0) s) (fun t => running t c0 && t.dvt.runs.map (fun r => (r.picked.length, r.whole)) == [(1, false)] &&
      after (exec (.dvtRoute c0) { t with dvt := { t.dvt with runs := t.dvt.runs.map fun r => { x (r.picked.headD {}) with entry := BitVec.ofNat 512 (layout (layerFields ++ [(4, 2, 32)])) } } })
        fun v => ended v c0 .ok (2 ^ 32) 0xA) = true := by decide +kernel

/-! ### The Yard and the partitions -/

/-- Partition 0's map has 16 planks; plank 0 lies in HBM frame 3. -/
def mapped (s : State) : State :=
  { s with csr := (0x04000000, 0x4) :: s.csr, tier := { s.tier with planks := [(0, { tier := .hbm, frame := 3 })] } }
/-- HBM with n bytes at an address of plank 0, laid out from fields. -/
def atHbm (a n : Nat) (fs : List (Nat × Nat × Nat)) (s : State) : State := { s with hbm := memWrite s.hbm (3 * 65536 + a) (toBytes n (layout fs)) }
/-- Pool 2 of 16 buffers of 256 bytes at Loft byte 4096, its metadata at tiered byte 0. -/
def poolOf (cache : List Nat) : Pool :=
  { use := 0, log2 := 8, count := 16, tiered := false, base := 4096, meta_ := 0, owner := 0, cache := cache, head := 16, tail := 16 }
/-- A command before pool 2, with free buffers. -/
def withPool (k : Block) (cache : List Nat) : State := { mapped (granted k) with yrd := { pools := [(2, poolOf cache)] } }

theorem test_pool_create :
    let s := atLoft 0 64 [(0, 1, 1), (2, 1, 8), (4, 4, 16), (8, 8, 4096), (16, 8, 1)] (mapped (granted (pkt 0x0780 [(32, 1, 2)])))
    (s.ready c0 0x0780).isSome = true ∧ s.inRange 0 11 2 = true ∧ s.pool 2 = none ∧ (cmdBlock c0 0 ⟨false, 0⟩ 64 0x18 0 poolRsv poolVals s).isOk = true ∧
    s.inSpace 0 false 4096 4096 = true ∧ s.inSpace 0 true 0 (metaBytes 16) = true ∧ (s.writeFor 0 true 0 (freshMeta 16)).2.2 = none ∧
    after (exec (.yardPoolCreate c0) s) (fun t => ended t c0 .ok 0 0 && t.yrd.pools == [(2, poolOf (List.range 16))]) = true := by decide +kernel

theorem test_pool_destroy :
    let s := withPool (pkt 0x0781 [(32, 1, 2)]) (List.range 16)
    (s.ready c0 0x0781).isSome = true ∧ s.anyAllocated (poolOf (List.range 16)) = false ∧
    after (exec (.yardPoolDestroy c0) s) (fun t => ended t c0 .ok 0 0 && t.yrd.pools == []) = true := by decide +kernel

/-- With buffers free an allocation ends with its first handle; with none it waits, or ends NO_PLANK with NO_WAIT. -/
theorem test_alloc :
    let k := pkt 0x0782 [(32, 1, 2), (33, 1, 1)]
    let kn := pkt 0x0782 [(3, 1, 1), (32, 1, 2), (33, 1, 1)]
    let s := withPool k []
    ((s.ready c0 0x0782).isSome = true ∧ s.inRange 0 11 2 = true ∧ (poolOf []).free < 1 ∧ flagNoWait k = false ∧ flagNoWait kn = true) ∧
    after (exec (.yardAlloc c0) (withPool k [])) (fun t => running t c0) = true ∧
    after (exec (.yardAlloc c0) (withPool kn [])) (fun t => ended t c0 .noPlank 0 0) = true ∧
    after (exec (.yardAlloc c0) (withPool k [9])) (fun t => ended t c0 .ok (2 ^ 26 + 2 * 2 ^ 20 + 9) 0) = true := by decide +kernel

/-- Buffer 9 is live with serial 1 and refcount 65,535 or 1; a retain past 65,535 is refused, a release to 0 frees it, a wrong serial is refused. -/
theorem test_retain_release :
    let live (n : Nat) (s : State) : State := atHbm (4 * 16 + 8 * 9) 8 [(0, 8, stateWord true 1 n)] s
    let h := 2 ^ 26 + 2 * 2 ^ 20 + 9
    let k (o h : Nat) : Block := pkt o [(32, 4, h), (36, 2, 1)]
    ((live 1 (withPool (k 0x0783 h) [])).ready c0 0x0783).isSome = true ∧
    after (exec (.yardRetain c0) (live 65534 (withPool (k 0x0783 h) []))) (fun t => ended t c0 .ok 65535 0) = true ∧
    after (exec (.yardRetain c0) (live 65535 (withPool (k 0x0783 h) []))) (fun t => ended t c0 .access 0 0xF2 && t.yrd.refErr == 1) = true ∧
    after (exec (.yardRelease c0) (live 1 (withPool (k 0x0784 h) []))) (fun t => ended t c0 .ok 0 0 && (t.pool 2).map (·.cache) == some [9]) = true ∧
    after (exec (.yardRelease c0) (live 1 (withPool (k 0x0784 (h + 2 ^ 26)) []))) (fun t => ended t c0 .access 0 0xF1 && t.yrd.doubleFree == 1) = true ∧
    after (exec (.yardRelease c0) (withPool (k 0x0784 (16 * 2 ^ 20)) [])) (fun t => ended t c0 .access 0 32) = true := by decide +kernel

/-- Table Yard-4, event 2: a release of the cycle of a retain waits for it, the retain does not wait; an invalid pool is counted. -/
theorem test_yard_cycle :
    let h := 2 ^ 26 + 2 * 2 ^ 20 + 9
    let k (o : Nat) : Block := pkt o [(32, 4, h), (36, 2, 1)]
    let i (o : Nat) : InFlight := { slot := 0, pkt := k o }
    let s : State := { (withPool 0 []) with cmd := { wq := [(3, { inflight := [i 0x0784] }), (7, { inflight := [i 0x0783] })] } }
    s.adjustWaits ⟨3, 0⟩ (i 0x0784) = true ∧ s.adjustWaits ⟨7, 0⟩ (i 0x0783) = false ∧
    (withPool (k 0x0783) []).adjustWaits c0 (i 0x0783) = false ∧
    after (exec (.yardPoolDestroy c0) (mapped (granted (pkt 0x0781 [(32, 1, 2)])))) (fun t => ended t c0 .access 0 0xF0 && t.yrd.stale == 1) = true ∧
    after (exec (.yardAlloc c0) (mapped (granted (pkt 0x0782 [(32, 1, 2), (33, 1, 1)])))) (fun t => ended t c0 .access 0 0xF0 && t.yrd.stale == 1) = true := by decide +kernel

theorem test_par_cfg :
    let v : W64 := 0x0003_0020_0000_0001
    (base.parCfg 2 = 0 ∧ base.parClash 2 v = false ∧ base.pwr.ready = true) ∧
    after (exec (.parCfgWrite 0 2 v) base) (fun t => t.parCfg 2 == v && bit t.sec.partKeys 2) = true ∧
    after (exec (.parCfgWrite 0 2 0x0001_0000_0000_0001) base) (fun t => t.parCfg 2 == 0) = true ∧
    -- a valid partition keeps its key, and partition 0 holds a bay
    after (exec (.parCfgWrite 0 0 0x0005_0100_0000_0001) base) (fun t => t.parCfg 0 == base.parCfg 0 && (getD t.host.errLog 0 {}).kind == 7) = true ∧
    after (exec (.parCfgWrite 0 0 (setFld (base.parCfg 0) 0 0 0)) base) (fun t => t.parCfg 0 == base.parCfg 0) = true ∧
    after (exec (.parCfgWrite 0 1 (setFld (base.parCfg 1) 0 0 0)) base) (fun t => t.parCfg 1 == setFld (base.parCfg 1) 0 0 0) = true := by decide +kernel

theorem test_breach_ring :
    ringLogOk 0x1004 = true ∧ ringLogOk 3 = false ∧
    after (exec (.parBreachRingWrite 0 0 0x1004) base) (fun t => t.reg 0x12000080 == 0x1004) = true ∧
    after (exec (.parBreachRingWrite 0 0 0x1003) base) (fun t => t.csr == base.csr && (getD t.host.errLog 0 {}).kind == 6) = true := by decide +kernel

/-- A regulator of burst 1 and rate 65 accepts two granules and is in debt until its calendar slot 64; while hard it holds the class back. -/
theorem test_regulator :
    let s (hard : Nat) : State := setReg419 0 (BitVec.ofNat 64 (2 ^ 48 + 65 * 2 ^ 16 + 2 * hard + 1)) base
    let t (hard : Nat) : State := chargeAccess 0 false true 64 192 (s hard)
    (s 0).regOpen 0 0 false = true ∧ (getD (t 0).par.regs 0 {}).credit = -65536 ∧ (getD (t 0).par.regs 0 {}).slot = some 64 ∧
    (t 0).regOpen 0 0 false = false ∧ (t 0).regWaits 0 false = false ∧ (t 1).regWaits 0 false = true ∧ (getD (t 1).par.regs 0 {}).credit = -131072 ∧
    ({ t 0 with clk := 854 }).regOpen 0 0 false = true ∧ ({ t 0 with clk := 853 }).regOpen 0 0 false = false := by decide +kernel

/-- An update waits in the buffer; with 256 there it is dropped and a breach opens, which ends when one leaves. -/
theorem test_account :
    let full : State := { base with par := { base.par with acctBuffer := List.replicate 256 (0, some 5) } }
    (accountUpdate 0 (some 7) base).par.acctBuffer = [(0, some 7)] ∧
    ((accountUpdate 0 (some 7) full).par.acctBuffer.length = 256 ∧ (accountUpdate 0 (some 7) full).par.breaches.map (·.cause) = [6]) ∧
    ((settleAccount (accountUpdate 0 (some 7) full)).par.breaches = [] ∧ getD (settleAccount full).par.waitNs 0 0 = 5) := by decide +kernel

/-- A preemption without targets ends at once; with a launch at work it waits for it. -/
theorem test_preempt :
    let k := pkt 0x0700 [(32, 1, 0), (33, 1, 1), (40, 8, 1), (48, 4, 65536)]
    let s := mapped (granted k)
    let u := { s with cmd := { wq := [(0, { inflight := [{ slot := 0, pkt := k }, { slot := 1, pkt := pkt 0x0300 [(41, 1, 1)], stage := .running }] })] } }
    (s.ready c0 0x0700).isSome = true ∧ (addr347 1).tiered = true ∧ s.writeFault 0 true 0 65536 = none ∧ preemptTargets k s = [] ∧
    after (exec (.parPreempt c0) s) (fun t => ended t c0 .ok 0 0) = true ∧
    after (exec (.parPreempt c0) u) (fun t => preemptTargets k u != [] && running t c0) = true ∧
    after (exec (.parPreempt c0) (staged k .granted)) (fun t => endedSt t c0 .access) = true := by decide +kernel

/-- A stopped launch of command slot 7 in entry 3, without arrays. -/
def stoppedEntry (k : Block) : State :=
  { granted k with par := { resumes := [(3, { part := 0, cmd := ⟨0, 7⟩, pkt := pkt 0x0300 [], stopped := true })] } }

theorem test_resume_discard :
    let k (o : Nat) : Block := pkt o [(32, 2, 3)]
    ((stoppedEntry (k 0x0701)).resumeEntry 3).isSome = true ∧
    after (exec (.parResume c0) (stoppedEntry (k 0x0701))) (fun t => ended t c0 .ok 1 0 && running t ⟨0, 7⟩ && t.par.resumes == []) = true ∧
    after (exec (.parResume c0) (granted (k 0x0701))) (fun t => ended t c0 .access 0 0xF8) = true ∧
    after (exec (.parDiscard c0) (stoppedEntry (k 0x0702))) (fun t => endedSt t c0 .ok && t.par.resumes == []) = true := by decide +kernel
/-! ### The Purlin -/

/-- A group of one member, device p, whose tag is 9. -/
def group1 (p : Nat) : PrlGroup := ⟨0, [p], 9, 0, 0xFF, true⟩
/-- A group record of one member and its member word. -/
def groupLoad (p : Nat) : State := atLoft 64 4 [(0, 4, p)] (atLoft 0 64 [(0, 1, 1), (2, 3, 1), (5, 1, 0xFF), (8, 4, 9), (16, 8, 64)] (granted (pkt 0x0500 [(32, 2, 3), (40, 8, 0)])))

theorem groupLoad_ok : ∀ p : BitVec 4, ((groupLoad p.toNat).ready c0 0x0500).isSome = true ∧ (groupLoad p.toNat).inRange 0 8 3 = true ∧
    (cmdBlock c0 0 ⟨false, 0⟩ 64 0x12 0 groupRsv groupVals (groupLoad p.toNat)).isOk = true ∧
    (cmdRead c0 0 ⟨false, 64⟩ 4 (groupLoad p.toNat)).toOption = some (toBytes 4 p.toNat) ∧ memberFault p.toNat 0 (memberWords (toBytes 4 p.toNat) 1) = none ∧
    (groupLoad p.toNat).groupKibUsed 0 3 + groupKib 1 ≤ (groupLoad p.toNat).rangeCount 0 9 := by decide +kernel

/-- A group of this device alone loads; the record of another device at its rank is refused. -/
theorem test_group_load : memberFault base.selfId 0 (memberWords (toBytes 4 Config.posId.toNat) 1) = none ∧ memberFault 5 0 [6] = some 0 := by
  rw [base_selfId]; exact ⟨(groupLoad_ok Config.posId).2.2.2.2.1, by decide +kernel⟩

theorem test_group_drop :
    let s := { granted (pkt 0x0501 [(32, 2, 3)]) with prl := { groups := [(3, group1 5)] } }
    (s.ready c0 0x0501).isSome = true ∧ after (exec (.prlGroupDrop c0) s) (fun t => ended t c0 .ok 0 0 && t.prl.groups == []) = true := by decide +kernel

/-- A gather of a group of one copies its own row; a block whose group is missing ends BAD_RSV. -/
theorem test_allgather_begins :
    let s := atLoft 0 128 [(0, 1, 1), (2, 2, 3), (4, 2, 7), (6, 1, 24), (8, 8, 64), (40, 8, 1024), (56, 8, 2048)] (atLoft 1024 4 [(0, 4, 77)] (granted (pkt 0x0514 [(32, 8, 0)])))
    let u := { s with prl := { groups := [(3, group1 5)] } }
    (s.ready c0 0x0514).isSome = true ∧ s.coll c0 = none ∧ (beginColl c0 0x0514 (pkt 0x0514 [(32, 8, 0)]) 0 (s.updIn c0 ({ · with stage := .running }))).isOk = false ∧
    after (exec (.prlAllgather c0) s) (fun t => endedSt t c0 .badRsv) = true ∧
    (beginColl c0 0x0514 (pkt 0x0514 [(32, 8, 0)]) 0 (u.updIn c0 ({ · with stage := .running }))).isOk = true ∧
    after (exec (.prlAllgather c0) u) (fun t => endedSt t c0 .ok && memGet t.loft 2048 == 77) = true := by decide +kernel

/-- A collective of this member alone, with everything done. -/
def doneColl (opc : Nat) (refused : List Nat) : Coll :=
  { cmd := c0, part := 0, gi := 3, g := group1 5, opc := opc, blk := toBytes 128 (layout [(0, 1, 1), (4, 2, 7), (20, 2, 1)]), regions := [0], refused := refused }
/-- It at work. -/
def atWork (x : Coll) : State := { staged (pkt 0x0510 []) .running with prl := { colls := [x] } }

theorem test_collective_ends :
    let x := doneColl 0x0510 []
    (x.sw = none ∧ x.hasArea = true ∧ x.allReceived = true ∧ x.allAnswered = true ∧ x.needs = [] ∧ x.others = [] ∧ x.outgoing = [] ∧ x.reduces = false ∧ x.chunkEn = false) ∧
    after (exec (.prlAlltoall c0) (atWork x)) (fun t => endedSt t c0 .ok && t.prl.colls == []) = true ∧
    after (exec (.prlAlltoall c0) (atWork (doneColl 0x0510 [4, 2]))) (fun t => endedSt t c0 .quota) = true := by decide +kernel

/-- A message from device 6 of the collective with tag 9 and seq 7, for device fin. -/
def msg (cls kind stage last granted fin : Nat) (bs : List Byte) : Packet :=
  mkPacket 6 5 0x20 cls false false 1 0 [(32, 1, 1 + 16 * kind), (33, 1, last + 2 * stage), (34, 2, 7), (36, 4, 9), (40, 4, 6), (56, 4, granted), (60, 4, fin)] bs

theorem msg_taken : ∀ k ∈ [0, 1, 2, 3, 6], ∀ p ∈ [5, 16], let m := msg 3 k stA2a 0 64 p (List.replicate 64 3)
    m.ty = 0x20 ∧ m.cls = 3 ∧ malformed m = false ∧ crcOk m = true ∧ epochCheck base m = none ∧ mKind m = k ∧ m.f 60 4 % 2 ^ 20 = p := by decide +kernel

/-- A POST without its collective is held early; data for a device of another bent are not for this one. -/
theorem test_post_early :
    let m := msg 3 kPost stA2a 0 64 16 (List.replicate 64 3)
    base.collOf (mTag m) (mSeq m) = none ∧ after (exec (.post m) base) (fun t => t.prl.early == [⟨9, 7, stA2a, 6, 0, 64, List.replicate 64 3⟩]) = true ∧
    after (exec (.exponents (msg 3 kExp stBrs 0 0 0 (List.replicate 64 3))) base) (fun t => t.prl.staleMsgs == 1) = true := by decide +kernel

/-- Data of the member of cube 1 at in-cube position p for device 16 of cube 0, and a group of the two. -/
def relayMsgOf (p : Nat) : Packet :=
  mkPacket (64 + p) p 0x20 3 false false 1 0 [(32, 1, 1 + 16 * kData), (33, 1, 2 * stA2a), (34, 2, 7), (36, 4, 9), (40, 4, 64 + p), (56, 4, 64), (60, 4, 16)] (List.replicate 64 3)
def relayState (p : Nat) : State := { base with prl := { groups := [(3, ⟨0, [64 + p, 16], 9, 0, 0xFF, true⟩)] } }

theorem relay_ok : ∀ p : BitVec 4, (relayMsgOf p.toNat).ty = 0x20 ∧ (relayMsgOf p.toNat).cls = 3 ∧ malformed (relayMsgOf p.toNat) = false ∧
    crcOk (relayMsgOf p.toNat) = true ∧ epochCheck (relayState p.toNat) (relayMsgOf p.toNat) = none ∧ mKind (relayMsgOf p.toNat) = kData ∧
    (relayMsgOf p.toNat).f 60 4 % 2 ^ 20 = 16 ∧ mStage (relayMsgOf p.toNat) = stA2a ∧ mSender (relayMsgOf p.toNat) = 64 + p.toNat ∧
    ((relayState p.toNat).prl.groups.any fun g => g.2.tag == mTag (relayMsgOf p.toNat) && g.2.regular && (g.2.rankOf 16).isSome &&
      (g.2.rankOf (64 + p.toNat)).isSome) = true := by decide +kernel

/-- The member of this cube at the sender's position relays the message to the device of the next bent. -/
theorem test_relay_elsewhere :
    let p := Config.posId.toNat
    (relayMsgOf p).f 60 4 % 2 ^ 20 ≠ (relayState p).selfId ∧ (relayState p).relaysTo (relayMsgOf p) ((relayMsgOf p).f 60 4 % 2 ^ 20) = true := by
  have h := relay_ok Config.posId
  have hp := Config.posId.isLt
  have hs : (relayState Config.posId.toNat).selfId = Config.posId.toNat := base_selfId
  refine ⟨by rw [h.2.2.2.2.2.2.1, hs]; omega, ?_⟩
  simp only [State.relaysTo, h.2.2.2.2.2.2.1, h.2.2.2.2.2.2.2.1, h.2.2.2.2.2.2.2.2.1, hs, h.2.2.2.2.2.2.2.2.2, Bool.and_true, BEq.rfl, Bool.true_and, decide_eq_true_eq]
  omega

/-- An equal all-to-all of devices 5 and 6, one granule each: the message of rank 1 is due. -/
def pairColl (opc : Nat) : Coll :=
  { cmd := c0, part := 0, gi := 3, g := ⟨0, [5, 6], 9, 0, 0xFF, true⟩, opc := opc, blk := toBytes 128 (layout [(0, 1, 1), (4, 2, 7), (8, 5, 64), (20, 2, 1), (56, 8, 4096)]),
    tables := ([(0, 0), (0, 0)], [(0, 0), (64, 64)]), posted := [(stA2a, 0, 1)], retry := [(stA2a, 0, 1, 900)], bufs := [(5, 0, 3)] }

theorem test_message_due :
    let m := msg 3 kData stA2a 1 64 5 (List.replicate 64 3)
    let x := pairColl 0x0510
    (atWork x).collOf (mTag m) (mSeq m) = some x ∧ x.g.rankOf (mSender m) = some 1 ∧ unitsOf x m kData 1 = some (0, 1) ∧ x.due ⟨stA2a, 1, kData, 0, 1⟩ = true ∧
    (atWork x).coll c0 = some x ∧ ({ x with got := [⟨stA2a, 1, kData, 0, 1⟩] } : Coll).got.contains ⟨stA2a, 1, kData, 0, 1⟩ = true := by decide +kernel

/-- The members of a flat reduction take its slices in rank order: of five blocks, rank 0 has two, and takes its result to the others. -/
theorem test_flat_slices :
    let x : Coll := { doneColl 0x0512 [] with g := ⟨0, [5, 6, 70], 9, 0, 0xFF, false⟩, blk := toBytes 128 (layout [(0, 1, 1), (1, 1, 0x6D), (4, 2, 7), (8, 5, 160)]) }
    (List.range 3).map x.ownSlice = [(0, 2), (2, 4), (4, 5)] ∧ x.reduceSends stFlat 0 0 1 = [(2, 4), (0, 2)] ∧
    x.msgs false stFlat 0 0 1 1 = [⟨stFlat, 1, kData, 2, 2⟩, ⟨stFlat, 1, kData, 0, 2⟩] ∧ x.offsetOf ⟨stFlat, 1, kData, 0, 2⟩ = 5 * blockBytesOf x.inBits := by decide +kernel

/-- A member holds a switch chunk that its peer lost: the POST for it has the chunk resent. -/
theorem test_chunk_resent :
    let x : Coll := { doneColl 0x0512 [] with g := ⟨0, [5, 6], 9, 0, 0, true⟩, blk := toBytes 128 (layout [(0, 1, 1), (1, 1, 0x6D), (4, 2, 7), (8, 5, 128)]), sw := some (1, 4) }
    x.swChunks = 4 ∧ x.partAt stBrs (x.partOff stBrs 2) = 2 ∧
    ((takePost c0 stBrs (x.partOff stBrs 2) 6 64 x.blk (atWork x)).coll c0).map (fun y => (y.direct, y.posts)) = some ([2], [(stBrs, 2, 1, 64)]) := by decide +kernel

/-- REFUSE, RETRY and DONE of rank 1: each is taken, and meets its clause. -/
theorem test_purlin_ctrl :
    (∀ e ∈ [(kRefuse, 0), (kRetry, 0), (kDone, 0), (kDone, 1)], let m := msg 0 e.1 stA2a e.2 0 3 []
      m.ty = 0x20 ∧ m.cls = 0 ∧ malformed m = false ∧ mKind m = e.1 ∧ mLast m = (e.2 == 1) ∧ (atWork (pairColl 0x0511)).collOf (mTag m) (mSeq m) = some (pairColl 0x0511)) ∧
    (pairColl 0x0511).isV = true ∧ (pairColl 0x0511).regions = [] ∧ (pairColl 0x0511).posted.contains (stA2a, (pairColl 0x0511).partAt stA2a 0, 1) = true ∧ (pairColl 0x0511).doneFrom = [] ∧
    after (exec (.retry (msg 0 kRetry stA2a 0 0 3 [])) (atWork (pairColl 0x0511))) (fun t => t.prl.colls.map (·.retry) == [[(stA2a, 0, 1, 900), (stA2a, 0, 1, 3000)]]) = true := by
  decide +kernel

/-- Before its time the POST waits, and the collective does; at 1 µs it ends TIMEOUT. -/
theorem test_collective_timeout :
    let s (clk : Nat) : State := { atWork { pairColl 0x0510 with bufs := [] } with clk := clk }
    ((s 899).coll c0).any (fun x => x.f 20 2 == 1) = true ∧
    after (exec (.postRetryInterval c0) (s 899)) (fun t => t.prl.colls.map (·.retry) == [[(stA2a, 0, 1, 900)]]) = true ∧
    stays (.collectiveTimeout c0) (s 999) = true := by decide +kernel

theorem test_join_terms : joinTerms true (some [1, -2]) (some [0, 5]) = some [1, 5] ∧ joinTerms false (some [2 ^ 63 - 1]) (some [1]) = some [-2 ^ 63] ∧
    joinTerms true (some [-3]) none = some [0] := by decide +kernel
/-! ### Links -/

/-- The part with fabric port f in a state. -/
def withPort (f : Nat) (x : Port) : State := { base with fab := { ports := [(f, x)] }, clk := 5000 }
/-- A link-control flit. -/
def ctl (sub : Nat) (fs : List (Nat × Nat × Nat)) : Block := BitVec.ofNat 512 (layout ([(0, 1, sub), (1, 1, 1)] ++ fs))
/-- Port 3 runs, without traffic yet. -/
def upPort : State := withPort 3 { st := .up, txHalves := 3, rxHalves := 3 }
/-- The next state has exactly this port 3. -/
def portIs (o : Host.Outcome State Fault Refusal) (x : Port) : Bool := after o fun t => t == { upPort with fab := { ports := [(3, x)] } }

/-- Each subtype is taken on a running port; a malformed flit is counted; a port without a link ignores both. -/
theorem test_link_ctl :
    (∀ sub ∈ [1, 2, 3, 4, 6, 7, 8, 9, 10], (upPort.port 3).linked = true ∧ ctlOk (ctl sub []) = true ∧ byteFld (ctl sub []) 0 1 = sub) ∧
    ctlOk (ctl 11 []) = false ∧ ctlOk 0 = false ∧ stays (.heartbeat 4 (ctl 3 [])) upPort = true ∧
    portIs (exec (.heartbeat 3 (ctl 11 [])) upPort) { (upPort.port 3) with event := 0x40 } = true ∧
    portIs (exec (.heartbeat 3 (ctl 3 [(8, 2, 7), (10, 1, 1)])) upPort) { (upPort.port 3) with heard := 5000, peerEpoch := 7, peerFenced := true } = true := by decide +kernel

/-- One entry adds the difference of the freed counts; 0 and 21 entries are malformed. -/
theorem test_credit :
    let s := withPort 3 { st := .up, credits := [(19, 4)], freedIn := [(19, 0xFFFF)] }
    after (exec (.credit 3 (ctl 1 [(2, 1, 1), (4, 1, 19), (5, 2, 2)])) s) (fun t => getD (t.port 3).credits 19 0 == 7 && getD (t.port 3).freedIn 19 0 == 2) = true ∧
    ctlOk (ctl 1 [(2, 1, 21)]) = true ∧ after (exec (.credit 3 (ctl 1 [(2, 1, 21)])) s) (fun t => (t.port 3).event == 0x40) = true ∧
    after (exec (.credit 3 (ctl 1 [])) s) (fun t => (t.port 3).event == 0x40) = true := by decide +kernel

/-- Two flits wait for acknowledgement, numbers 8 and 9: 8 to 10 may be asked for, 7 takes the link down. -/
theorem test_retry_req :
    let s := withPort 3 { st := .up, txSeq := 10, replay := [(2, 0), (3, 0)] }
    after (exec (.retryReq 3 (ctl 2 [(2, 2, 8)])) s) (fun t => (t.port 3).sendAt == 8 && (t.port 3).replays == 1) = true ∧
    ((7 : W16) - ((10 : W16) - 2)).toNat > 2 ∧ ctlOk (ctl 2 [(2, 2, 7)]) = true := by decide +kernel

/-- A card whose first byte is 1 for the port's class, whole in two flits; and one of generation 0. -/
def cardHalf (i : Nat) (fs : List (Nat × Nat × Nat)) : Block := ctl (4 + i) (fs.map fun e => (8 + e.1, e.2))
/-- The credits of a card: 65 of each VC, or 8 of CTRL. -/
def cardCredits (lo hi : Nat) : List (Nat × Nat × Nat) := (List.range 20).filterMap fun v => if lo ≤ 40 + 2 * v ∧ 40 + 2 * v < hi then some (40 + 2 * v - lo, 2, 80) else none

theorem test_card :
    let a := cardHalf 0 ([(0, 1, 1), (2, 1, 1), (3, 1, 1), (16, 8, 5), (26, 2, 1)] ++ cardCredits 0 56)
    let b := cardHalf 1 (cardCredits 56 112)
    let s := withPort 3 { st := .card, cardAcked := false }
    (ctlOk a = true ∧ ctlOk b = true ∧ byteFld a 0 1 = 4 ∧ byteFld b 0 1 = 5) ∧ cardOk (cardPart a ++ cardPart b) 3 = true ∧
    after (exec (.card 3 a b) s) (fun t => (t.port 3).card == some (cardPart a ++ cardPart b) && (t.port 3).st == .card) = true ∧
    cardOk (cardPart (ctl 4 []) ++ cardPart b) 3 = false ∧
    after (exec (.card 3 (ctl 4 []) b) s) (fun t => (t.port 3).card.isNone && (t.port 3).event == 0x40) = true := by decide +kernel

/-- WIDTH: mask 1 is one half of the port's two; a request is noted for the answer that changes the mapping, an answer is taken; mask 4 is no half of it. -/
theorem test_width :
    let w (m a : Nat) : Block := ctl 7 [(2, 1, a), (4, 4, m)]
    upPort.allHalves 3 = 3 ∧ portIs (exec (.width 3 (w 1 1)) upPort) { (upPort.port 3) with heard := 5000, rxHalves := 1, rxMap := 1, rxBlocks := 0 } = true ∧
    portIs (exec (.width 3 (w 1 0)) upPort) { (upPort.port 3) with heard := 5000, txNext := some 1 } = true ∧
    portIs (exec (.width 3 (w 4 1)) upPort) { (upPort.port 3) with heard := 5000 } = true := by decide +kernel

/-- TIME: an answer gives half the difference of the round trip; SYNC from the source of hall time steps an unstepped counter. -/
theorem test_time_sync :
    let s : State := { upPort with hall := 100 }
    let u : State := { upPort with csr := (0x19000000, 2 * 2 ^ 44 + 3 * 2 ^ 38) :: upPort.csr }
    after (exec (.time 3 (ctl 9 [(2, 1, 1), (8, 8, 1000), (16, 8, 1100), (24, 8, 1200)])) s) (fun t => (t.port 3).delay == 250) = true ∧
    after (exec (.time 3 (ctl 9 [(8, 8, 9)])) s) (fun t => (t.port 3).ctl == [timeFlit true 9 1600 0]) = true ∧
    u.timSource = 2 ∧ fld (u.reg 0x19000000) 43 38 = 3 ∧ u.pwr.stepped = false ∧
    after (exec (.sync 3 (ctl 10 [(8, 8, 1600)])) u) (fun t => t.hall == 100 && t.pwr.stepped) = true ∧
    after (exec (.sync 3 (ctl 10 [(8, 8, 1600)])) s) (fun t => t.hall == 100 && !t.pwr.stepped) = true := by decide +kernel

/-- TAG: its slot is the receive slot; a count other than the segment's does not verify, and the segment is asked for again; twice before, the port fails or goes down. -/
theorem test_tag :
    let b := ctl 8 [(8, 8, 4), (16, 2, 2)]
    let s (n : Nat) (first : Bool) : State := withPort 3 { st := .up, rxSegment := [(2, 0)], rxSegSeq := 40, rxSeq := 41, tagFails := n, rxFirst := first }
    ctlOk b = true ∧ byteFld b 2 1 % 2 = ((s 0 true).port 3).rxSlot ∧ byteFld b 16 2 ≠ ((s 0 true).port 3).rxSegment.length ∧
    ((s 1 true).port 3).tagFails + 1 < 3 ∧ 3 ≤ ((s 2 true).port 3).tagFails + 1 ∧ ((s 2 false).port 3).rxFirst = false := by decide +kernel

/-- A TAG that carries the tag itself verifies. -/
theorem test_tag_verifies : ∃ v : Nat, (Config.gcmTag 0 4 (segmentAad 4 []) []).toNat = v ∧ v < 2 ^ 128 := ⟨_, rfl, (Config.gcmTag 0 4 (segmentAad 4 []) []).isLt⟩

/-- A block none of whose flits passes; one whose flits are idle passes. -/
theorem test_link_block :
    let bad := List.replicate 1056 (0xFF : Byte)
    faults (exec (.linkBlock 3 []) upPort) = true ∧ stays (.linkBlock 4 bad) upPort = true ∧ portClass 3 ≠ 2 ∧ bad.length = 1056 ∧
    ((blockFlits bad).filter fun e => !e.1).length = 16 ∧
    after (exec (.linkBlock 3 bad) upPort) (fun t => (t.port 3).crcErrs == 16 && (t.port 3).wait.isSome) = true := by decide +kernel

theorem test_link_block_good :
    let good := blockOf 0 0 ((List.range 16).map fun _ => (0, 0))
    good.length = 1056 ∧ ((blockFlits good).filter fun e => !e.1).length = 0 := by decide +kernel

/-- The timers on port 3: just before, nothing; at the time, the action. -/
theorem test_link_timers :
    let s (x : Port) (clk : Nat) : State := { withPort 3 x with clk := clk }
    let w (n : Nat) : Port := { st := .up, wait := some (n, 0), rxSeq := 9 }
    stays (.retryReqRepeat 3) (s (w 6) 999) = true ∧
    after (exec (.retryReqRepeat 3) (s (w 6) 1000)) (fun t => (t.port 3).wait == some (7, 1000) && (t.port 3).ctl == [retryFlit 9]) = true ∧
    ((s (w 7) 1000).port 3).wait = some (7, 0) ∧ stays (.retryReqRepeat 3) upPort = true ∧
    stays (.linkSilenceTimeout 3) (s { st := .up } 59999) = true ∧ stays (.heartbeatTimer 3) (s { st := .up } 19999) = true ∧
    stays (.heartbeatTimer 4) (s { st := .up } 60000) = true ∧ (s { st := .up } 60000).isLive 3 = true ∧
    stays (.linkDelayTimer 3) (s { st := .up } 999999) = true ∧
    after (exec (.linkDelayTimer 3) (s { st := .up } 1000000)) (fun t => (t.port 3).timeAt == 1000000 && (t.port 3).ctl == [timeFlit false 0 0 0]) = true := by decide +kernel

theorem test_link_timers2 :
    let s (f : Nat) (x : Port) (clk : Nat) : State := { withPort f x with clk := clk }
    stays (.keyRollover 3) (s 3 { st := .up, txCounter := 2 ^ 47 - 1 } 0) = true ∧
    ((s 3 { st := .up, txCounter := 2 ^ 47 } 0).isLive 3 = true ∧ ((s 3 { st := .up, txCounter := 2 ^ 47 } 0).port 3).replay = []) ∧
    stays (.creditRepeatTimer 3) (s 3 { st := .up } 19999) = true ∧
    after (exec (.creditRepeatTimer 3) (s 3 { st := .up } 20000)) (fun t => (t.port 3).creditDue == List.range 20 && (t.port 3).creditAt == 20000) = true ∧
    stays (.cardResendTimer 3) (s 3 { st := .card } 9999) = true ∧ ((s 3 { st := .card } 10000).port 3).cardAcked = false ∧
    portClass 32 = 2 ∧ ((s 32 { st := .card } 10000).port 32).cardAcked = false ∧
    stays (.segmentCloseTimeout 3) (s 3 { st := .up, txSegment := [(2, 0)] } 63) = true ∧
    ((s 3 { st := .up, txSegment := [(2, 0)] } 64).port 3).txSegment ≠ [] := by decide +kernel

/-- Training: a signal, a block lock, its time-out, a lost key. -/
theorem test_training :
    let s (f : Nat) (x : Port) (clk : Nat) : State := { withPort f x with clk := clk }
    after (exec (.signalDetect 3) (s 3 { st := .detect } 7)) (fun t => (t.port 3).st == .equalize && (t.port 3).entered == 7) = true ∧ stays (.signalDetect 3) upPort = true ∧
    ((s 3 { st := .equalize } 7).port 3).st = .equalize ∧
    after (exec (.blockLock 3) (s 3 { st := .up, rxHalves := 1, widening := some (2, 0) } 7)) (fun t => (t.port 3).rxHalves == 3 && (t.port 3).ctl == [widthFlit false 3]) = true ∧
    stays (.trainingTimeout 3) (s 3 { st := .align } 99999999) = true ∧
    after (exec (.trainingTimeout 3) (s 3 { st := .align } 100000000)) (fun t => (t.port 3).st == .failed && (t.port 3).reason == 6) = true ∧
    stays (.sakTimeout 32) (s 32 { st := .check } 5999999999) = true ∧
    after (exec (.sakTimeout 32) (s 32 { st := .check } 6000000000)) (fun t => (t.port 32).st == .failed && (t.port 32).reason == 5) = true := by decide +kernel

theorem test_port_commands :
    let s (f : Nat) (x : Port) (clk : Nat) : State := { withPort f x with clk := clk }
    let en : State := { s 3 { st := .up } 7 with csr := (portReg 3 0, 1) :: base.csr }
    (portClass 32 = 2 ∧ (s 32 { st := .up, sak := some 1 } 0).isLive 32 = true ∧ ((s 32 { st := .up, sak := some 1 } 0).port 32).sak.isSome = true) ∧
    after (exec (.portEnable 3 true) (s 3 {} 7)) (fun t => (t.port 3).st == .detect && bit (t.portCfg 3) 0) = true ∧
    bit (en.portCfg 3) 0 = true ∧ (en.port 3).linked = true ∧ en.pwr.ready = true ∧ stays (.retrain 3) upPort = true ∧
    after (exec (.retrain 3) { en with pwr := { ready := false } }) (fun t => (getD t.host.errLog 0 {}).kind == 7 && (t.port 3).st == .up) = true ∧
    after (exec (.widen 3) (s 3 { st := .up, rxHalves := 2 } 7)) (fun t => (t.port 3).widening == some (1, 7)) = true ∧ stays (.widen 4) upPort = true ∧
    after (exec (.widenTimeout 3) (s 3 { st := .up, widening := some (1, 0) } 100000000)) (fun t => (t.port 3).widening == none) = true ∧ stays (.widenTimeout 3) upPort = true ∧
    remaining false 3 0 ≠ 0 ∧ after (exec (.laneFault 3 7) upPort) (fun t => (t.port 3).rxHalves == 2 && (t.port 3).degrades == 1) = true ∧
    remaining false 1 0 = 0 ∧ stays (.laneFault 3 16) upPort = true := by decide +kernel

theorem test_expected_peer :
    let s := withPort 32 { st := .up }
    (s.pwr.ready = true ∧ s.host.flr.contains 0 = false ∧ s.host.bootState.toNat < 2) ∧
    after (exec (.expectedPeerWrite 0 32 (5 * 2 ^ 28)) s) (fun t => t.portCfg 32 == 5 * 2 ^ 28) = true ∧ stays (.expectedPeerWrite 0 3 5) upPort = true ∧
    after (exec (.expectedPeerWrite 1 32 5) s) (fun t => (getD t.host.errLog 1 {}).valid && t.csr == s.csr) = true := by decide +kernel

/-! ### Hall frames -/

/-- A frame in the clear of a kind, with sequence number, acknowledgement and flits. -/
def hallFrame (kind : Nat) (seq ack : W32) (fs : List (Nat × Block)) : List Byte :=
  let b := List.replicate 28 (0 : Byte) ++ framePlain base 32 kind seq ack fs ++ List.replicate 16 0
  b ++ toBytes 4 (crc32 b)
/-- Hall port 32 runs, in the clear: it expects frame 4, and holds frames 8 and 9. -/
def hallUp : State := withPort 32 { st := .up, rxFrame := 4, txFrame := 10, frames := [[(0, 0)], [(0, 0)]] }

theorem test_hall_data :
    after (exec (.hallDataFrame 32 (hallFrame 0 4 8 [(0, 0)])) hallUp) (fun t => (t.port 32).rxFrame == 5 && (t.port 32).ackDue) = true ∧
    after (exec (.hallDataFrame 32 (hallFrame 0 3 8 [(0, 0)])) hallUp) (fun t => (t.port 32).rxFrame == 4 && (t.port 32).ackDue) = true ∧
    after (exec (.hallDataFrame 32 (hallFrame 0 5 8 [(0, 0)])) hallUp) (fun t => (t.port 32).rxFrame == 4 && (t.port 32).nakAt == some 5000 && t.out.length == 1) = true := by
  decide +kernel

theorem test_hall_others :
    after (exec (.hallAckFrame 32 (hallFrame 1 0 9 [])) hallUp) (fun t => (t.port 32).frames.length == 1) = true ∧
    after (exec (.hallNakFrame 32 (hallFrame 2 0 9 [])) hallUp) (fun t => (t.port 32).frames.length == 1 && t.out.length == 1 && (t.port 32).replays == 1) = true ∧
    after (exec (.hallTrainFrame 32 (hallFrame 3 0 0 [(1, ctl 4 [])])) hallUp) (fun t => (t.port 32).cardHalf == some (ctl 4 [])) = true := by
  decide +kernel

/-- Why a frame is not opened. -/
def frameBad (x : Port) (f : List Byte) : Option FrameBad := match openFrame x f with
  | .error e => some e
  | .ok _ => none

theorem test_hall_bad :
    frameBad (hallUp.port 32) [] = some .fcs ∧ after (exec (.hallAckFrame 32 []) hallUp) (fun t => (t.port 32).crcErrs == 1) = true ∧
    (let x : Port := { st := .up, sak := some 1, rxPn := 1 }
     frameBad x (hallFrame 1 0 9 []) = some .icv ∧ after (exec (.hallAckFrame 32 (hallFrame 1 0 9 [])) (withPort 32 x)) (fun t => (t.port 32).authErrs == 1) = true) ∧
    stays (.hallAckFrame 3 []) upPort = true ∧ stays (.mkaFrame 32 []) hallUp = true := by decide +kernel

theorem test_hall_rto :
    let s (clk : Nat) : State := { hallUp with clk := clk }
    fld (base.udpCfg 32) 13 6 = 10 ∧ stays (.hallRto 32) (s 9999) = true ∧
    after (exec (.hallRto 32) (s 10000)) (fun t => (t.port 32).ackAt == 10000 && t.out.length == 2) = true := by decide +kernel
/-! ### Routing, scheduling, time and the sweep -/

/-- A CTRL packet from device 5 of this cube to device d. -/
def ctrlTo (d ty : Nat) (fs : List (Nat × Nat × Nat)) : Packet := mkPacket 5 d ty 0 false false 0 0 fs []

/-- The drain and its switch: taken in order, with a newer staged epoch, and at the time. -/
theorem test_drain_switch :
    let s (d : Nat) (e : Nat) (hall : Nat) : State :=
      { base with csr := (0x0D000010, BitVec.ofNat 64 (e * 2 ^ 32)) :: (0x0D000020, 50) :: (0x0D000400, 0x11) :: base.csr, fab := { drain := d }, hall := BitVec.ofNat 64 hall }
    after (exec .drainBegin (s 0 1 0)) (fun t => t.fab.drain == 1) = true ∧ stays .drainBegin (s 1 1 0) = true ∧ after (exec .drainBegin (s 2 1 0)) (fun t => t.fab.drain == 1) = true ∧ stays .drainEnd (s 0 1 0) = true ∧
    after (exec .drainEnd (s 1 1 0)) (fun t => t.fab.drain == 0) = true ∧
    newer (BitVec.ofNat 16 (s 1 1 0).stagedEpoch) 0 = true ∧ after (exec .switch (s 1 1 0)) (fun t => t.fab.drain == 2) = true ∧
    newer (BitVec.ofNat 16 (s 1 0 0).stagedEpoch) 0 = false ∧ after (exec .switch (s 1 0 0)) (fun t => (getD t.host.errLog 0 {}).valid && t.fab == (s 1 0 0).fab) = true ∧
    stays .switchTimeReached (s 2 1 49) = true ∧
    after (exec .switchTimeReached (s 2 1 50)) (fun t => t.fab.epoch == 1 && t.fab.drain == 0 && isTable 0x0D000400 && t.cur 0x0D000400 == 0x11) = true := by decide +kernel

/-- A running port delivers a packet for this device, discards one of another route epoch, and counts a malformed one. -/
theorem transit_ok : ∀ p : BitVec 4, let k := mkPacket 5 p.toNat 0x28 3 false false 1 0 [(44, 4, 64)] (List.replicate 64 0)
    malformed k = false ∧ k.cls ≠ 0 ∧ k.routeEpoch = 0 ∧ k.dest = p.toNat := by decide +kernel

theorem test_transit :
    (mkPacket 5 Config.posId.toNat 0x28 3 false false 1 0 [(44, 4, 64)] (List.replicate 64 0)).dest = base.selfId ∧
    (upPort.isUp 3 = true ∧ upPort.flt.fenced = false ∧ upPort.holdsAt 3 (ctrlTo 0 0 []) = false ∧ upPort.fab.drain ≠ 2) ∧
    malformed (ctrlTo 0 0x43 []) = false ∧ malformed (ctrlTo 0 0x99 []) = true ∧ sweepType (ctrlTo 0 0x40 []) = true ∧
    stays (.transitPacket 4 (ctrlTo 0 0x43 [])) upPort = true ∧
    after (exec (.transitPacket 3 (ctrlTo 0 0x99 [])) upPort) (fun t => (t.port 3).event == 0x40) = true ∧
    after (exec (.transitPacket 3 (ctrlTo 0 0x40 [])) upPort) (fun t => t.fab.waiting == [{ src := 3, dst := engineOf 0x40, q := { k := ctrlTo 0 0x40 [], vc := 0, since := 5000 } }]) = true := by
  rw [base_selfId]; exact ⟨(transit_ok Config.posId).2.2.2, by decide +kernel⟩

/-- A packet crosses the Truss: admitted in one slot, sent on when its middle buffer serves its output, delivered to its engine. -/
theorem test_truss :
    let e : Crossing := { src := 3, dst := 36, q := { k := ctrlTo 0 0x40 [], vc := 0, since := 5000 } }
    let s : State := { upPort with fab := { upPort.fab with waiting := [e] } }
    let a := trussSlot 0 s
    (s.hasRoom 36 0 1 = true ∧ corePort 3 = 40 ∧ corePort 36 = 47) ∧
    a.fab.waiting = [] ∧ a.fab.middle = [(40, 47, ⟨(3, 36, 0), false, 0, 1, some e.q⟩)] ∧ a.fab.inbox = [] ∧
    (trussSlot 6 a).fab.inbox = [] ∧ (trussSlot 7 a).fab.middle = [] ∧ (trussSlot 7 a).fab.inbox = [(3, e.q.k)] := by decide +kernel

/-- Packets of one source, class and engine are taken in order; one that does not wait comes now. -/
theorem test_in_turn :
    let s : State := { base with fab := { inbox := [(3, ctrlTo 0 0x40 []), (3, ctrlTo 0 0x41 [])] } }
    s.inTurn (ctrlTo 0 0x40 []) = true ∧ s.inTurn (ctrlTo 0 0x41 []) = false ∧ (∀ k ∈ [ctrlTo 0 0x42 [], ctrlTo 0 0x43 []], base.inTurn k = true) := by decide +kernel

/-- A port with an open long packet starts only short CTRL and REPLY packets. -/
theorem test_open_packet :
    let x : Port := { txOpen := some { k := ctrlTo 0 0x43 [] } }
    let q (vc len : Nat) : Queued := { k := mkPacket 5 0 0x43 0 false false 0 0 [] (List.replicate len 0), vc := vc, since := 0 }
    ({ x with txOpen := none } : Port).mayPreempt (q 10 64) = true ∧ x.mayPreempt (q 10 0) = false ∧ x.mayPreempt (q 5 64) = false ∧ x.mayPreempt (q 5 0) = true := by decide +kernel

theorem test_plane_state :
    let k := ctrlTo 0 0x43 [(32, 4, 63), (36, 1, 7), (37, 1, 0)]
    k.ty = 0x43 ∧ k.cls = 0 ∧ malformed k = false ∧ after (exec (.planeState k) base) (fun t => getD t.fab.planeDown 63 0 == 0x80) = true := by decide +kernel

/-- A request of tag 7 for device 9 and its loss; one of an unknown tag is ignored. -/
def lossOf (tag : Nat) : Packet := ctrlTo 0 0x42 [(32, 4, 9), (37, 1, 1), (38, 2, tag)]
/-- One request is outstanding under tag 7. -/
def outstanding (ty : Nat) : State :=
  { staged (pkt 0x0604 []) .running with
    rem := { tags := [(7, { cmd := c0, k := mkPacket 5 9 ty 2 false false 1 7 [(44, 2, 1)] [], off := 0, len := 8, at_ := 0 })], jobs := [{ cmd := c0, part := 0, peer := 9, win := 0, total := 8, next := 8 }] } }

theorem test_loss :
    ((lossOf 7).ty = 0x42 ∧ (lossOf 7).cls = 0 ∧ malformed (lossOf 7) = false ∧ (lossOf 7).f 37 1 < 0x20 ∧ (lossOf 7).f 38 2 = 7) ∧
    (find? (outstanding 5).rem.tags 7).any (fun x => !x.k.ordered) = true ∧ stays (.loss (lossOf 8)) (outstanding 5) = true := by decide +kernel

/-- A shaper in its calendar slot leaves it when the slot is reached. -/
theorem test_shaper :
    let s (clk : Nat) : State := { base with clk := clk, csr := (0x08001000, 0x0010000001000001) :: base.csr, fab := { shapers := [(0, { credit := -32, slot := some 2 })] } }
    stays (.shaperEligible 0) (s 15) = true ∧ after (exec (.shaperEligible 0) (s 16)) (fun t => t.eligible 0 && (t.shaper 0).credit == 0) = true := by decide +kernel

theorem test_qsample :
    let s (clk : Nat) : State := { base with clk := clk, fab := { qsample := [(32, { maxDelay := 9, delay := 3 })] } }
    2 ^ fld (base.reg 0x08000500) 4 0 = 65536 ∧ stays .qsamplePeriod (s 32767) = true ∧
    after (exec .qsamplePeriod (s 32768)) (fun t => t.fab.sampledAt == 32768 && (getD t.fab.qsample 32 {}).maxDelay == 9 && (getD t.fab.qsample 32 {}).delay == 0) = true ∧
    after (exec .qsampleClear (s 0)) (fun t => (getD t.fab.qsample 32 {}).maxDelay == 0 && (getD t.fab.qsample 32 {}).delay == 3) = true := by decide +kernel

theorem test_tel_hdr :
    let s : State := { base with fab := { telProd := 5 } }
    (s.pwr.ready = true ∧ s.host.flr.contains 0 = false ∧ s.host.bootState.toNat < 2) ∧
    after (exec (.telHdrCfgWrite 0 (2 ^ 37 + 2 ^ 39)) s) (fun t => t.reg 0x09000000 == 2 ^ 37 && t.fab.telProd == 0 && (t.port 32).lfsrIn == 33) = true := by decide +kernel

theorem test_time :
    let s (src : Nat) (stepped : Bool) : State := { base with csr := (0x19000000, BitVec.ofNat 64 (src * 2 ^ 44 + 1)) :: (0x19000008, 500) :: base.csr, pwr := { base.pwr with stepped := stepped }, hall := 490 }
    after (exec .time1ppsEdge (s 3 false)) (fun t => t.hall == 500 && t.pwr.stepped) = true ∧
    after (exec .time1ppsEdge (s 3 true)) (fun t => t.hall == 490 && t.pwr.slew == 10) = true ∧ stays .time1ppsEdge (s 1 true) = true ∧
    after (exec .timeSourceLost (s 1 true)) (fun t => t.pwr.timState == 3) = true ∧ stays .timeSourceLost (s 0 true) = true ∧
    after (exec .ppsOutEdge { s 0 true with hall := 1000000000 }) (fun t => t.out == [.pin "TIME_1PPS_OUT" true]) = true ∧ stays .ppsOutEdge (s 0 true) = true := by decide +kernel

/-- Bent ports 2 and 4 run towards devices 6 and 7, since hall time 40. -/
def neighbours (w : Sweep) : State :=
  { base with clk := 300000, hall := 90, csr := (0x0D000040, 5 * 2 ^ 32) :: base.csr,
              fab := { ports := [(2, { st := .up, peerId := 6 }), (4, { st := .up, peerId := 7 })], firstUp := some 40, sweep := w } }
/-- A sweep of number 5 with a probe out to port 4 and a child on port 2. -/
def sweeping (root : Bool) : State :=
  neighbours { number := some 5, root := root, parent := if root then none else some (4, 7), running := true, probes := [((4, 7), 280001)], children := [((2, 6), 299999, false)] }

theorem test_sweep_start :
    (neighbours {}).probeList none = [(2, 6), (4, 7)] ∧
    after (exec .sweepStart { base with csr := (0x0D000040, 5 * 2 ^ 32) :: base.csr }) (fun t => t.fab.sweep.root && t.fab.sweep.number == some 5 && t.fab.sweep.state == 2) = true := by
  decide +kernel

/-- SWEEP 6 from port 4 is newer and late enough; 5 again, or one from before the first port was up, is not. -/
theorem test_sweep :
    let k (num start : Nat) : Packet := mkPacket 7 0 0x40 0 false false 0 0 [(32, 4, num), (36, 4, 7), (40, 8, start)] []
    ((k 6 40).ty = 0x40 ∧ (k 6 40).cls = 0 ∧ malformed (k 6 40) = false ∧ (neighbours {}).fab.firstUp = some 40) ∧
    (k 6 40).f 40 8 = 40 ∧ (k 6 39).f 40 8 = 39 ∧ (k 6 40).f 32 4 = 6 ∧ (neighbours {}).probeList (some (4, 7)) = [(2, 6)] ∧
    base.fab.firstUp = none := by decide +kernel

theorem test_sweep_answers :
    let k (ty : Nat) (fs : List (Nat × Nat × Nat)) : Packet := mkPacket 7 0 ty 0 false false 0 0 ((32, 4, 5) :: fs) []
    let d := mkPacket 6 0 0x46 0 false false 0 0 [(32, 4, 5), (36, 4, 3), (41, 1, 2)] []
    (∀ ty ∈ [0x41, 0x44, 0x45, 0x46], (k ty []).ty = ty ∧ (k ty []).cls = 0 ∧ malformed (k ty []) = false ∧ (sweeping true).inSweep (k ty []) = true ∧ base.inSweep (k ty []) = false) ∧
    after (exec (.sweepAck 4 (k 0x41 [])) (sweeping true)) (fun t => t.fab.sweep.probes == [] && t.fab.sweep.children.map (·.1) == [(2, 6), (4, 7)]) = true ∧
    after (exec (.sweepDone 2 d) (sweeping true)) (fun t => t.fab.sweep.devices == 3 && t.fab.sweep.late == 2 && t.fab.sweep.children == [((2, 6), 300000, true)]) = true ∧
    after (exec (.sweepAlive 2 (mkPacket 6 0 0x45 0 false false 0 0 [(32, 4, 5)] [])) (sweeping true)) (fun t => t.fab.sweep.children == [((2, 6), 300000, false)]) = true := by decide +kernel

/-- A root writes a report into its ring of 16 entries in plank 0; without a PF partition it is lost. -/
theorem test_sweep_report :
    let k := mkPacket 6 0 0x44 0 false false 0 0 [(32, 4, 5), (36, 4, 77)] []
    let s : State := mapped (sweeping true)
    let s : State := { s with csr := (0x0D000050, 0x4) :: s.csr }
    s.partOfFn 0 = some 0 ∧ ringSize (s.reg 0x0D000050) = 16 ∧ s.writeFault 0 true 0 32 = none ∧
    after (exec (.sweepReport 2 k) s) (fun t => t.fab.sweep.ringAt == 1 && memRead t.hbm (3 * 65536 + 4) 1 == [77]) = true ∧
    ({ sweeping true with csr := [] } : State).partOfFn 0 = none := by decide +kernel

theorem test_sweep_timers :
    stays (.sweepAliveTimer) (neighbours { running := true, aliveAt := 250001 }) = true ∧
    ((sweeping false).fab.sweep.parent = some (4, 7) ∧ (sweeping false).fab.sweep.running = true ∧ 50000 ≤ (sweeping false).clk - (sweeping false).fab.sweep.aliveAt) ∧
    after (exec (.sweepProbeTimeout 4) (sweeping true)) (fun t => t.fab.sweep.probes == [((4, 7), 280001)]) = true ∧
    after (exec (.sweepProbeTimeout 4) { sweeping true with clk := 300001 }) (fun t => t.fab.sweep.probes == []) = true ∧
    after (exec (.sweepChildLost 2) (sweeping true)) (fun t => t.fab.sweep.children.length == 1) = true ∧
    after (exec (.sweepChildLost 2) { sweeping true with clk := 499999 }) (fun t => t.fab.sweep.children == [] && t.fab.sweep.incomplete) = true ∧
    stays (.sweepChildLost 2) base = true ∧ stays (.sweepProbeTimeout 2) base = true := by decide +kernel

theorem test_sweep_followup :
    let s (n : Nat) : State := { base with fab := { sweep := { number := some 5, root := true, partialAt := some 0, followups := n } } }
    fld (base.reg 0x0D000008) 17 16 = 3 ∧ stays .sweepFollowup (s 3) = true ∧
    after (exec .sweepFollowup (s 2)) (fun t => t.fab.sweep.number == some 6 && t.fab.sweep.followups == 3) = true := by decide +kernel
/-! ### Remote operations and the Clamp -/

/-- A memory window of peer 9 with all rights of memory, 4,096 bytes from byte 0; handle 3. -/
def window3 : BitVec 256 := BitVec.ofNat 256 (layout [(0, 1, 1), (1, 1, 7), (2, 2, 1), (4, 4, 9), (8, 8, 0), (16, 8, 4096)])
/-- A peg window of peer 9: 4 pegs from 8. -/
def window4 : BitVec 256 := BitVec.ofNat 256 (layout [(0, 1, 0x11), (1, 1, 8), (2, 2, 1), (4, 4, 9), (8, 8, 8), (16, 8, 4)])
/-- A command of remote operations, with both windows. -/
def remote (k : Block) : State := { granted k with rem := { windows := [(3, window3), (4, window4)] } }

theorem test_window_install :
    let s := atLoft 0 32 [(0, 1, 1), (1, 1, 7), (2, 2, 1), (4, 4, 9), (16, 8, 4096)] (granted (pkt 0x0610 [(32, 2, 5), (40, 8, 0)]))
    (s.ready c0 0x0610).isSome = true ∧ (∀ p : BitVec 4, (cmdBlock c0 0 ⟨false, 0⟩ 32 0x14 0 winRsv (winVals p.toNat) s).isOk = true) ∧
    after (exec (.remWinRemove c0) (remote (pkt 0x0611 [(32, 2, 3)]))) (fun t => ended t c0 .ok 0 0 && t.rem.windows == [(4, window4)]) = true := by decide +kernel

/-- Past its end, by a byte that is not of a word, without the right, or without the window, an operation is refused. -/
theorem test_window_fault :
    (∀ e ∈ [(3, 4088, none), (3, 4096, some 40), (3, 4092, some 40), (4, 0, some 32), (5, 0, some 32)],
      windowFault (find? (remote 0).rem.windows e.1) (pkt 0x0602 [(32, 2, e.1), (40, 8, e.2.1)]) = e.2.2) ∧
    windowFault (some window4) (pkt 0x0604 [(32, 2, 4), (40, 8, 3)]) = none ∧ windowFault (some window4) (pkt 0x0604 [(32, 2, 4), (40, 8, 4)]) = some 40 ∧
    after (exec (.remFadd c0) (remote (pkt 0x0602 [(32, 2, 3), (40, 8, 4096)]))) (fun t => ended t c0 .access 0 40) = true := by decide +kernel

/-- A tag is free, whichever it is; an unordered request is not held by a flow. -/
theorem test_remote_begins :
    let k := pkt 0x0604 [(32, 2, 4), (40, 8, 3), (48, 8, 1)]
    ((remote k).ready c0 0x0604).isSome = true ∧ (remote k).rem.jobs = [] ∧ 0 < remLength k ∧ (putData c0 0 k 0 1 (remote k)).isOk = true ∧
    flagOrdered k = false ∧ (remote k).freeTag = some (Config.allocHint 0 % 65536) := by
  refine ⟨by decide +kernel, by decide +kernel, by decide +kernel, by decide +kernel, by decide +kernel, ?_⟩
  have h : ∀ t, (remote (pkt 0x0604 [(32, 2, 4), (40, 8, 3), (48, 8, 1)])).tagFree t = true := fun t => by simp [State.tagFree, remote, granted, base, find?]
  have d : (remote (pkt 0x0604 [(32, 2, 4), (40, 8, 3), (48, 8, 1)])).draws = 0 := by decide +kernel
  simp [State.freeTag, scan, h, d]

/-- A reply from device 9 to tag 7, incarnation inc. -/
def reply (ty inc st : Nat) (bs : List Byte) : Packet := mkPacket 9 0 ty 1 false false 1 7 [(32, 1, st), (34, 2, inc), (40, 8, 99)] bs

/-- A reply of another incarnation is stale; the last of a fetch-add ends it with the old value; of a get, with its bytes. -/
theorem test_replies :
    let g : State := { outstanding 2 with cmd := { wq := [(0, { inflight := [{ slot := 0, pkt := pkt 0x0601 [(48, 8, 4096)], stage := .running }] })] } }
    (∀ e ∈ [(0x10, reply 0x10 1 0 []), (0x11, reply 0x11 1 0 (List.replicate 8 5))], e.2.ty = e.1 ∧ e.2.cls = 1 ∧ malformed e.2 = false ∧ crcOk e.2 = true ∧ epochCheck base e.2 = none) ∧
    Status.ofCode ((reply 0x10 1 0 []).f 32 1) = .ok ∧
    after (exec (.ack (reply 0x10 2 0 [])) (outstanding 5)) (fun t => t.rem.stale == 1) = true ∧
    after (exec (.ack (reply 0x10 1 0 [])) (outstanding 5)) (fun t => ended t c0 .ok 99 0 && t.rem.tags == []) = true ∧
    after (exec (.getData (reply 0x11 1 0 (List.replicate 8 5))) g) (fun t => ended t c0 .ok 8 0 && memRead t.loft 4096 8 == List.replicate 8 5) = true := by decide +kernel

/-- A request is late 50 µs after it was issued, not before. -/
theorem test_e2e :
    fld (base.reg 0x0D000008) 9 0 = 50 ∧ stays (.e2eTimeout 7) { outstanding 5 with clk := 49999 } = true ∧ stays (.e2eTimeout 8) { outstanding 5 with clk := 50000 } = true ∧
    (outstanding 5).clk + 50000 - 0 ≥ 50 * 1000 := by decide +kernel

/-- A request from device 5 on byte 4096 of partition 0's Loft space: tag 7, incarnation inc. -/
def req (ty inc : Nat) (fs : List (Nat × Nat × Nat)) (bs : List Byte) : Packet := mkPacket 5 0 ty 2 false false 1 7 ([(32, 8, if ty = 5 then 0 else 4096), (44, 2, inc)] ++ fs) bs
/-- The requests of the tests. -/
def reqs : List Packet :=
  [req 1 1 [] (List.replicate 64 5), req 2 1 [(46, 2, 8)] [], req 3 1 [(56, 8, 10)] [], req 4 1 [(56, 8, 0)] (toBytes 8 9), req 5 1 [(52, 2, 8), (56, 8, 3)] [],
   req 6 0 [(46, 2, 8), (49, 1, 1)] (toBytes 8 5), req 7 0 [(49, 1, 1)] (toBytes 4 5 ++ toBytes 2 7 ++ toBytes 2 1 ++ toBytes 8 10)]

theorem test_requests_taken : ∀ k ∈ reqs, k.cls = 2 ∧ malformed k = false ∧ crcOk k = true ∧ epochCheck base k = none ∧ k.src / 64 = base.selfCube ∧
    (base.hallUs - BitVec.ofNat 32 (k.f 40 4)).toNat ≤ fld base.remCfg 49 36 := by decide +kernel

theorem test_targets :
    (∀ k ∈ reqs, k.ty ≠ 5 → (checkTarget base k false).toOption = some 0) ∧ (checkTarget base (req 3 1 [] []) true).toOption = some 0 ∧
    (∀ k ∈ reqs, k.ty < 6 → newer (reqInc k) (getD base.rem.served (servedAt k.src k.tag) {}).inc = true) ∧ base.partOfKey 1 = some 0 ∧ base.inRange 0 1 8 = true ∧
    newer 0 1 = false ∧ base.readFault 0 false false 4096 = none ∧ base.wordAt 0 ⟨false, 4096⟩ = 4096 ∧
    (base.writeFor 0 false 4096 (List.replicate 64 5) (some 5)).2.2 = none ∧ (clampRead 0 (req 2 1 [(46, 2, 8)] []) base).1.isOk = true := by decide +kernel

/-- A word at byte 4096 with an update in progress, and an open group of one member since time 0. -/
def hot (ms : List FaddMember) (clk : Nat) : State := { base with clk := clk, rem := { words := [(4096, { open_ := some (0, ms) })] } }
/-- A member of device d that adds n. -/
def adder (d n : Nat) : FaddMember := ⟨d, 7, 1, BitVec.ofNat 64 n, 0, 4096, false, 1, false, none, none, false⟩

/-- A further member joins the open group; the window of 2 µs closes it; at the end of the update the idle word leaves. -/
theorem test_groups :
    base.clampWindow = 2000 ∧ bit base.remCfg 1 = true ∧
    after (exec (.fadd (req 3 1 [(56, 8, 10)] [])) (hot [adder 6 2] 1999)) (fun t => t.rem.words == [(4096, { open_ := some (0, [adder 6 2, memberOf (req 3 1 [(56, 8, 10)] []) 0]) })]) = true ∧
    stays (.clampWindowExpiry 4096) (hot [adder 6 2] 1999) = true ∧
    after (exec (.clampWindowExpiry 4100) (hot [adder 6 2] 2000)) (fun t => t.rem.words == [(4096, { closed := [(.ok, [adder 6 2])] })]) = true ∧
    stays (.atomicUpdateDone 4096) { base with clk := 7, rem := { words := [(4096, {})] } } = true ∧
    after (exec (.atomicUpdateDone 4096) { base with clk := 8, rem := { words := [(4096, {})] } }) (fun t => t.rem.words == []) = true ∧
    stays (.atomicUpdateDone 4104) (hot [] 0) = true ∧ stays (.clampWindowExpiry 4104) (hot [] 0) = true ∧
    (closeGroup { open_ := some (0, [adder 6 2]) }).closed = [(.ok, [adder 6 2])] := by decide +kernel

/-- What goes on, what waits: a CAS for the update in progress on its word, a request for a batch member of its flow; a granule on a FLASH plank fails check 5. -/
theorem test_waits :
    (∀ k ∈ reqs, base.isWaiting k = false ∧ (closeFor 0 k (takeIn k base)).reqWaits 0 k = false) ∧
    (let k := req 4 1 [(56, 8, 0)] (toBytes 8 9)
     let s := hot [] 0
     s.isWaiting k = false ∧ (closeFor 0 k (takeIn k s)).reqWaits 0 k = true ∧ after (exec (.cas k) s) (fun t => t.rem.waiting == [(s.portOf k, k)]) = true) ∧
    (let k : Packet := mkPacket 5 0 1 2 false true 1 8 [(32, 8, 8192), (44, 2, 1)] (List.replicate 64 5)
     let s : State := { base with rem := { batches := [⟨4096, 1, 2, 0, [{ adder 5 1 with ordered := true }]⟩] } }
     (closeFor 0 k (takeIn k s)).reqWaits 0 k = true) ∧
    (let k : Packet := mkPacket 5 0 2 2 false false 1 8 [(32, 8, 4097), (44, 2, 1), (46, 2, 8)] []
     (checkTarget { base with tier := { planks := [(0, { tier := .flash })] } } k false).toOption = none) := by decide +kernel

/-- A batch that is too old leaves; a younger one stays. -/
theorem test_batch_timeout :
    let s (clk : Nat) : State := { base with clk := clk, rem := { batches := [⟨4096, 1, 2, 0, []⟩] } }
    fld base.remCfg 35 20 = 1000 ∧ stays (.batchTimeout 4096) (s 999999) = true ∧
    after (exec (.batchTimeout 4096) (s 1000000)) (fun t => t.rem.batches == [] && t.rem.batchTimeouts == 1) = true := by decide +kernel

/-- Combined requests over cube port 15: one member, which is new. -/
theorem test_combined :
    let g := req 6 0 [(46, 2, 8), (49, 1, 1)] (toBytes 8 5)
    let f := req 7 0 [(49, 1, 1)] (toBytes 4 5 ++ toBytes 2 7 ++ toBytes 2 1 ++ toBytes 8 10)
    portClass ((inboxed 15 g base).portOf g) = 1 ∧ portClass ((inboxed 15 f base).portOf f) = 1 ∧ membersOf f 16 = [(5, 7, 1, 10)] ∧ f.f 49 1 = 1 ∧
    newer 1 (getD base.rem.served (servedAt 5 7) {}).inc = true ∧ base.heldMember (adder 5 10) = false := by decide +kernel
/-! ### Memory tiers, sequences and the Ledger -/

theorem test_copy :
    let k := pkt 0x0200 [(32, 8, 64), (40, 8, 4096), (48, 4, 128)]
    let s := atLoft 127 1 [(0, 1, 9)] (granted k)
    ((s.ready c0 0x0200).isSome = true ∧ (∀ g < 2, s.readFault 0 false (flagTorn k) (64 + 64 * g) = none) ∧ (∀ g < 2, (s.loftPlace 0 (4096 + 64 * g)).isOk = true)) ∧
    after (exec (.copy c0) s) (fun t => ended t c0 .ok 128 0 && memGet t.loft 4159 == 9 && memGet t.loft 127 == 9) = true := by decide +kernel

theorem test_copy_host :
    let s := granted (pkt 0x0200 [(32, 8, 4096 + 3), (40, 8, 4096), (48, 4, 128)])
    after (exec (.copy c0) s) (fun t => running t c0 && t.out == [.hostRead 0 0 4096 128]) = true := by decide +kernel

/-- Planks of partition 0: 16 in its map, quotas of 32 in HBM and 32 on flash; SSDs 0 and 1 are ready. -/
def tiered (ps : List (Nat × Plank)) (s : State) : State :=
  { s with csr := (0x04000000, 0x4) :: (0x12000040, 0x200000083F) :: s.csr,
           tier := { planks := ps, ssds := [(0, { st := .ready, capacity := 64 }), (1, { st := .ready, capacity := 64 })] } }

theorem test_plank_alloc :
    let k (n f : Nat) : Block := pkt 0x0201 [(3, 1, f), (32, 4, 3), (36, 4, n)]
    ((tiered [] (granted (k 1 0))).ready c0 0x0201).isSome = true ∧ (rangeOf (k 1 0) 0 (tiered [] base)).toOption = some [3] ∧
    (tiered [] base).hbmUsed 0 + 1 ≤ (tiered [] base).hbmLimit 0 ∧ fld ((tiered [] base).parQuota 0) 31 6 = 32 ∧ (rangeOf (k 14 0) 0 (tiered [] base)).toOption = none := by
  decide +kernel

/-- A free frame is found, wherever the search begins. -/
theorem test_plank_alloc_frame : (allocPlanks 0 true [3] base).isSome = true := by
  have h : ∀ f, base.frameTaken f = false := fun f => by
    have e : base.tier.planks = [] := by decide +kernel
    have m : ∀ p ∈ List.range 8, base.mapPlanks p = 0 := by decide +kernel
    simp only [State.frameTaken, State.plankOfFrame, e, pick, Bool.or_eq_false_iff]
    refine ⟨by simp, ?_⟩
    rw [List.any_eq_false]; intro p hp; simp [m p hp]
  simp [allocPlanks, takeFrame, State.freeFrame, frames, scan, h]

theorem test_plank_free :
    let s (k : Block) : State := tiered [(5, { tier := .hbm, frame := 9 })] (granted k)
    let r := fun (o : Nat) => pkt o [(32, 4, 4), (36, 4, 3), (40, 8, 4096)]
    after (exec (.plankFree c0) (s (r 0x0202))) (fun t => ended t c0 .ok 1 0 && t.tier.planks == []) = true ∧
    after (exec (.plankStat c0) (s (r 0x0204))) (fun t => endedSt t c0 .ok && memRead t.loft 4096 1 == [0] && memRead t.loft 4128 5 == [1, 0, 0, 0, 9]) = true ∧
    after (exec (.ckptSet c0) (s (pkt 0x0803 [(32, 4, 5), (36, 4, 1), (40, 1, 1)]))) (fun t => ended t c0 .ok 1 0 && (t.plank 0 5).ckpt && (t.plank 0 5).cdirty == 3) = true := by decide +kernel

theorem test_plank_digest :
    let s := tiered [(5, { tier := .hbm, frame := 9 })] (granted (pkt 0x0205 [(32, 4, 5), (36, 4, 1)]))
    (s.ready c0 0x0205).isSome = true ∧ (rangeOf (pkt 0x0205 [(32, 4, 5), (36, 4, 1)]) 0 s).isOk = true ∧ (s.read 0 true (5 * 65536) 65536 false).isOk = true := by decide +kernel

/-- A demotion of a clean plank with a copy is done at once; of one without, it starts a write; the copy of a BOTH plank is dropped. -/
theorem test_tier_move :
    let k (o : Nat) : Block := pkt 0x0203 [(32, 4, 5), (36, 4, 1), (40, 1, o)]
    let s (t : Tier) (o : Nat) : State := tiered [(5, { tier := t, frame := 9, lba := 3 })] (granted (k o))
    ((s .both 0).ready c0 0x0203).isSome = true ∧ (rangeOf (k 0) 0 (s .both 0)).toOption = some [5] ∧
    after (exec (.tierMove c0) (s .both 0)) (fun t => ended t c0 .ok 1 0 && (t.plank 0 5).tier == .flash) = true ∧
    after (exec (.tierMove c0) (s .both 3)) (fun t => ended t c0 .ok 1 0 && (t.plank 0 5).tier == .hbm) = true ∧
    (s .both 3).nvmeOpen c0 = false := by decide +kernel

/-- The flash write of plank 5 is outstanding as operation 7. -/
def saving (demote dirty : Bool) : State :=
  let s := tiered [(5, { tier := .moving, frame := 9, lba := 3, dirty := dirty, move := some (.hbm, demote) })] (staged (pkt 0x0203 []) .running)
  { s with tier := { s.tier with nvme := [(7, { ssd := 0, for_ := .save 5, cmd := c0 })] } }

theorem test_flash_write_premises :
    pick (fun (e : Nat × NvmeOp) => e.2.sent && e.2.for_ == .save (plankKey 0 5)) (saving true true).tier.nvme = some (7, { ssd := 0, for_ := .save 5, cmd := c0 }) ∧
    find? (saving true true).tier.nvme 7 = some { ssd := 0, for_ := .save 5, cmd := c0 } ∧ ((saving true true).plank 0 5).tier = .moving ∧ ((saving true true).plank 0 5).move = some (.hbm, true) ∧
    (saving true true).tier.steps = [] := by decide +kernel

theorem test_ssd :
    let l (n : Nat) : State := { saving true false with tier := { (saving true false).tier with nvme := [(7, { ssd := 0, for_ := .ledger 0 n, cmd := c0 })] } }
    after (exec (.ssdRemoval 1) (tiered [] base)) (fun t => (getD t.tier.ssds 1 {}).st == .removed) = true ∧
    after (exec (.ssdCompletion 7 false) (saving true false)) (fun t => endedSt t c0 .integrity && (getD t.tier.ssds 0 {}).errors == 1 && t.tier.nvme == []) = true ∧
    find? (l 4).tier.nvme 7 = some { ssd := 0, for_ := .ledger 0 4, cmd := c0 } ∧
    after (exec (.ssdCompletion 7 true) (l 4)) (fun t => ended t c0 .ok 1 0 && (t.ledger 0).slot == 1) = true := by decide +kernel

theorem test_scrub :
    let s (n clk : Nat) : State := { tiered [(5, { tier := .hbm, frame := 9 })] base with clk := clk, csr := (0x04000208, BitVec.ofNat 64 n) :: base.csr }
    stays .scrubVisit (s 0 100) = true ∧ stays .scrubVisit (s 100 99) = true ∧ (s 100 100).scrubNext = some (5, { tier := .hbm, frame := 9 }) ∧
    (∀ g < 1024, (s 100 100).poisoned .hbm (9 * 65536 + 64 * g) = none) := by decide +kernel

theorem test_bay :
    let new : W64 := 0x103
    (new ≠ base.bayCfg 1 ∧ base.baysOwned 1 + 1 > fld (base.parQuota 1) 5 0 ∧ base.baysOwned 0 + 1 ≤ fld (base.parQuota 0) 5 0) ∧
    after (exec (.lftBayCfgWrite 0 0 2) (atLoft 77 1 [(0, 1, 5)] base)) (fun t => t.bayCfg 0 == 2 && (find? t.tier.bayBusy 0).isSome && memGet t.loft 77 == 0) = true ∧
    after (exec (.bayReconfigDone 0) { base with tier := { bayBusy := [(0, 5)] } }) (fun t => t.tier.bayBusy == []) = true ∧
    -- a granted command of the old owner keeps the lost part in mind, and reads zeros there; nothing begins while the bay of its partition is busy
    (let s := atLoft 77 1 [(0, 1, 5)] (granted (pkt 0x0200 []))
     after (exec (.lftBayCfgWrite 0 0 2) s) (fun t => t.bayGone c0 false 77 && !t.bayGone c0 true 77 &&
       (cmdRead c0 0 ⟨false, 77⟩ 1 t).toOption == some [0] && (cmdWrite c0 0 ⟨false, 77⟩ [9] t).2.1 == 1 && memGet (cmdWrite c0 0 ⟨false, 77⟩ [9] t).1.loft 77 == 0) = true ∧
     ({ s with tier := { s.tier with bayBusy := [(0, 5)] } } : State).ready c0 0x0200 = none) := by decide +kernel

theorem test_sequences :
    let j := atLoft 0 32 [(0, 1, 0x11), (2, 2, 4), (4, 1, 2), (8, 4, 10), (12, 4, 1024), (16, 4, 1), (20, 4, 15)] (tiered [] (granted (pkt 0x0210 [(32, 8, 0)])))
    let l := { granted (pkt 0x0211 [(32, 2, 4)]) with tier := { seqs := [(4, { st := .running, max := 15 })] } }
    (j.ready c0 0x0210).isSome = true ∧ (j.seq 4).st = .gone ∧ 1 + 15 ≤ j.mapPlanks 0 ∧
    after (exec (.seqJoin c0) j) (fun t => running t c0 && (t.seq 4).st == .queued && (t.seq 4).max == 15 && (t.seq 4).arrival == 0) = true ∧
    after (exec (.seqLeave c0) l) (fun t => running t c0 && (t.seq 4).leave == some c0) = true := by decide +kernel

/-- A step without sequences ends with all counts zero; one whose sequence leaves releases it. -/
theorem test_seq_step :
    let s := atLoft 0 24 [(0, 1, 1), (8, 8, 64), (16, 8, 128)] (granted (pkt 0x0212 [(32, 8, 0)]))
    let l : State := { s with tier := { seqs := [(4, { st := .running, max := 0, leave := some ⟨0, 9⟩ })] } }
    (s.ready c0 0x0212).isSome = true ∧ (updateLen [] 0 0 0 s).toOption.isSome = true ∧ s.nvmeOpen c0 = false ∧
    after (exec (.seqStep c0) s) (fun t => ended t c0 .ok 0 0) = true ∧
    after (exec (.seqStep c0) l) (fun t => endedSt t c0 .ok && (t.seq 4).st == .gone) = true := by decide +kernel

/-- An open Ledger on SSDs 0 and 1 without positions. -/
def ledger0 : Ledger := { isOpen := true, mask := 3, id := 5, rec0 := (0, 0), rec1 := (1, 0), base := (16, 32) }
/-- A command before it. -/
def ledgered (k : Block) (level : Nat) : State :=
  let s := tiered [] (granted k)
  { s with tier := { s.tier with ledgers := [(0, ledger0)] }, sec := { s.sec with debugLevel := level } }

theorem test_ledger_open :
    let s := atLoft 0 64 [(0, 1, 1), (2, 1, 3), (8, 8, 5), (16, 4, 4), (20, 1, 0), (21, 1, 1), (32, 8, 16)] (ledgered (pkt 0x0800 [(32, 8, 0)]) 0)
    (s.ready c0 0x0800).isSome = true ∧ s.present = 2 ∧
    after (exec (.ledgerOpen c0) s) (fun t => running t c0 && t.out == [.nvme 0 0 0]) = true ∧
    after (exec (.ledgerOpen c0) (ledgered (pkt 0x0800 []) 1)) (fun t => ended t c0 .access 0 0xF9) = true := by decide +kernel

theorem test_ckpt_commit :
    let s := ledgered (pkt 0x0801 []) 0
    (s.ready c0 0x0801).isSome = true ∧ (s.ledger 0).isOpen = true ∧ s.deadSsd (s.ledger 0) = none ∧ s.ckptPlanks 0 = [] ∧
    after (exec (.ckptCommit c0) s) (fun t => running t c0 && t.out == [.nvme 0 2 32]) = true := by decide +kernel

/-- A record copy of Ledger 5 with no slots, its table digest and CRC. -/
def recordBytes0 : List Byte :=
  let b := toBytes 124 (layout [(0, 1, 1), (1, 1, 3), (8, 8, 6), (16, 8, 5), (32, 8, 16), (40, 8, 32), (56, 8, crc64 [])])
  b ++ toBytes 4 (crc32c b)

theorem test_ckpt_restore :
    let s := { ledgered (pkt 0x0802 []) 0 with flash := memWrite [] (flashAt 0 0 0) recordBytes0, tier := { (ledgered (pkt 0x0802 []) 0).tier with seals := [(lbaKey 0 0, ledger0.recSeal)] } }
    (s.ready c0 0x0802).isSome = true ∧ s.positions (ledgerOf ledger0 recordBytes0) = [] ∧ (reserveFrames 0 [] s).isSome = true ∧
    -- under another storage tag the copy is not valid
    s.recordValid ledger0 (0, 0) = true ∧ s.recordValid { ledger0 with tag := 1 } (0, 0) = false ∧ s.recordValid ledger0 (1, 0) = false := by decide +kernel
/-! ### Power and resets -/

/-- PWR_CFG as it leaves reset on the faster grade, with brake_sw as given. -/
def power (sw : Nat) (p : PwrState) : State := { base with csr := (0x16000000, BitVec.ofNat 64 (0x0008986400010642 + sw)) :: base.csr, pwr := p, clk := 200000 }

/-- T rises by at most 0.03 A, the duty cap holds, and the Brace burns the rest; under the brake T falls to 0. -/
theorem test_brace :
    (braceCycle 6000 6000 (power 0 { target := 3000 })).pwr = { target := 3003, duty := 32, burn := 64 * 3003 - 32 * 6000 } ∧
    (braceCycle 6000 6000 (power 1 { target := 3000, fwReady := true })).pwr.target = 2997 ∧
    (braceCycle 6000 6000 (power 0 { target := 3000, dutyCap := 16 })).pwr.duty = 16 ∧
    -- with no work T keeps the floor of PWR_CFG
    (braceCycle 0 0 (power 0 { target := 1 })).pwr.target = min (100 * fld (power 0 {}).pwrCfg 27 20) 4 ∧
    (power 0 {}).busyWith governed = false ∧ after (exec .braceUpdate (power 0 { rails := false })) (· == power 0 { rails := false }) = true := by decide +kernel

theorem test_brake :
    after (exec (.brakeN true) (power 0 {})) (fun t => t.pwr == { brakeN := true }) = true ∧
    after (exec (.brakeN false) (power 0 { brakeN := true, braked := true })) (fun t => t.pwr == {}) = true ∧
    after (exec (.brakeN false) (power 1 { brakeN := true, braked := true })) (fun t => t.pwr == { braked := true }) = true ∧
    (power 1 { fwReady := true }).braking = true ∧ after (exec .brakeLevelReached (power 1 { fwReady := true })) (fun t => t.pwr.braked) = true ∧
    (power 0 { fwReady := true }).braking = false ∧ stays .brakeLevelReached (power 0 { fwReady := true }) = true ∧
    -- during power-up the request waits for fw_ready (R507)
    (power 1 {}).braking = false ∧
    -- at the brake level an array holds its state (R489, R492)
    (let s := { staged (pkt 0x0300 []) .running with arrs := [(0, { image := some ⟨0, false, 0, [ins 0 []]⟩, phase := .running, launch := some { cmd := c0 } })] }
     (s.current 0).isSome = true ∧ stays (.seqEnd 0) s = false ∧ stays (.seqEnd 0) { s with pwr := { s.pwr with braked := true } } = true) := by decide +kernel

theorem test_limits :
    after (exec (.hotspotN true) (power 0 {})) (fun t => t.pwr == { hotspot := true, alert := true } && t.powerLimit == 1600 && t.out == [.pin "ALERT_N" false]) = true ∧
    after (exec (.hotspotN false) (power 0 { hotspot := true, alert := true })) (fun t => t.pwr == {} && t.powerLimit == 2200 && t.out == [.pin "ALERT_N" true]) = true ∧
    after (exec .thermtrip (power 0 {})) (fun t => t.pwr.thermtrip && t.out == [.pin "THERMTRIP_N" false, .pin "ALERT_N" false]) = true ∧
    stays .thermtrip (power 0 { thermtrip := true }) = true ∧
    after (exec .vinLow (power 0 {})) (fun t => t.pwr.vinLow && t.pwr.vinBrake && t.brakeRequest) = true ∧
    after (exec (.dutyCapStep true) (power 0 { dutyCap := 60, unmet := true, alert := true })) (fun t => t.pwr == { dutyCap := 61, capAt := some 200000 }) = true ∧
    (power 0 { capAt := some 196000 }).apart (some 196000) 5000 = false ∧ stays (.dutyCapStep true) (power 0 { capAt := some 196000 }) = true := by decide +kernel

theorem grade_cases : gradeClk = 36 ∨ gradeClk = 40 := by unfold gradeClk; split <;> simp

theorem floor_16 (p : PwrState) : (power 0 p).clkFloor = 16 := by
  have h : (power 0 {}).clkFloor = 16 := by decide +kernel
  exact h

/-- CLK_ARR steps down while it lies above clk_floor (16 × 50 MHz), and the duty cap moves only at the floor; a step up needs the cap lifted. -/
theorem test_clock_steps :
    ((power 0 {}).clkFloor < (power 0 {}).clkArr ∧ (power 0 {}).apart none 5000 = true) ∧
    (∃ n, (power 0 { stepsBelow := n }).clkArr = 16 ∧ (power 0 { stepsBelow := n }).clkArr ≤ (power 0 { stepsBelow := n }).clkFloor) ∧
    ((0 : Nat) < 1 ∧ 1 ≤ gradeClk ∧ (power 0 { stepsBelow := 1 }).apart none 100000 = true ∧ (power 0 {}).apart (some 150000) 100000 = false) ∧
    (∃ t, exec .clockStepDown (power 0 {}) = .next t ∧ t.pwr.stepsBelow = 1 ∧ t.pwr.stepsDown = 1 ∧ t.pwr.limited = true ∧ t.pwr.alert = true) ∧
    after (exec .clockStepUp (power 0 { stepsBelow := 1 })) (fun t => t.pwr == { stepAt := some 200000 }) = true ∧
    stays .clockStepUp (power 0 { stepsBelow := 1, dutyCap := 63 }) = true ∧ stays .clockStepUp (power 0 {}) = true := by
  have h : (power 0 {}).clkFloor < (power 0 {}).clkArr := by
    rw [floor_16]; show 16 < gradeClk - 0; rcases grade_cases with h | h <;> omega
  refine ⟨⟨h, by decide +kernel⟩, ⟨gradeClk - 16, ?_, ?_⟩, ⟨by decide, ?_, by decide +kernel, by decide +kernel⟩, ?_, by decide +kernel, by decide +kernel, by decide +kernel⟩
  · show gradeClk - (gradeClk - 16) = 16; rcases grade_cases with h | h <;> omega
  · rw [floor_16]; show gradeClk - (gradeClk - 16) ≤ 16; rcases grade_cases with h | h <;> omega
  · rcases grade_cases with h | h <;> omega
  · refine ⟨_, congrArg Host.Outcome.next (if_pos ⟨h, by decide +kernel⟩), ?_, ?_, ?_, ?_⟩ <;> decide +kernel

/-- The power-up sequence from a device without power; a brown-out, a PERST# and a lost always-on supply. -/
theorem test_power_sequence :
    let off : PwrState := { aux := false, rails := false, perst := true, ready := false, locked := 0 }
    let aux : PwrState := { off with aux := true }
    after (exec .vauxUp (power 0 off)) (fun t => t.pwr.aux && bit t.pwr.locked 16 && !bit t.pwr.locked 0) = true ∧
    stays .vin12Up (power 0 off) = true ∧
    after (exec .vin12Up (power 0 { vinBrake := true, braked := true })) (fun t => t == power 0 {}) = true ∧
    after (exec .perstRelease (power 0 { aux with rails := true })) (fun t => t.pwr == { aux with rails := true, perst := false, locked := BitVec.allOnes 25 }) = true ∧
    stays .perstRelease (power 0 {}) = true ∧ stays .perstRelease (power 0 off) = true ∧
    after (exec .perstAssert (power 0 { fwReady := true })) (fun t => t.pwr.perst && !t.pwr.ready && t.pwr.lastReset == 1 && t.csr == [] &&
      t.out == [.pin "RP_PERST0_N" false, .pin "RP_PERST1_N" false]) = true ∧
    stays .perstAssert (power 0 off) = true ∧
    after (exec .brownout (power 0 { target := 500 })) (fun t => !t.pwr.rails && t.pwr.lastReset == 6 && t.pwr.target == 0) = true ∧ stays .brownout (power 0 off) = true ∧
    after (exec .vaux3p3Loss (power 0 {})) (fun t => !t.pwr.aux && t.host.i3cAddr == none) = true ∧ stays .vaux3p3Loss (power 0 off) = true := by decide +kernel

theorem test_fw_ready :
    after (exec .fwReady (power 0 {})) (fun t => t.pwr.fwReady && t.host.bootState == 1 && t.out == [.pin "RP_PERST0_N" true, .pin "RP_PERST1_N" true]) = true ∧
    stays .fwReady (power 0 { fwReady := true }) = true ∧ stays .fwReady { power 0 {} with host := { bootState := 2 } } = true := by decide +kernel

theorem test_refclk :
    after (exec (.refclkLost 4) (power 0 {})) (fun t => bit t.pwr.refLost 4 && fld t.pwr.locked 13 12 == 0) = true ∧
    after (exec (.refclkLost 2) (power 0 {})) (fun t => t.pwr.lastReset == 3 && bit t.sec.resetCause 1) = true ∧
    after (exec (.refclkLost 0) (power 0 {})) (fun t => bit t.pwr.refLost 0 && t.pwr.ready) = true ∧
    stays (.refclkLost 5) (power 0 {}) = true ∧ stays (.refclkLost 1) (power 0 { rails := false }) = true := by decide +kernel

/-- A warm reset keeps brake_sw and configuration space and destroys the rest; a VF's attempt is logged. -/
theorem test_resets :
    let cfg (s : State) : State := { s with host := { cfgRegs := [(1, 0x406)] }, sec := { fusedSvn := 3, imageSvn := 5 } }
    ((power 0 {}).pwr.ready = true ∧ (power 0 {}).host.flr.contains 0 = false ∧ (power 0 {}).host.bootState.toNat < 2) ∧
    after (exec (.warm 0) (cfg (power 1 { fwReady := true }))) (fun t => t.pwr.lastReset == 2 && !t.pwr.fwReady && !t.pwr.ready && t.cmd.wq == [] &&
      t.host.cfgRegs == [(1, 0x406)] && t.csr.length == 1) = true ∧
    after (exec (.zeroize 0) (power 0 {})) (fun t => t.pwr.lastReset == 3 && t.sec.resetCause == 8 && !t.sec.storageRoot) = true ∧
    after (exec (.svnCommit 0) (cfg (power 0 {}))) (fun t => t.sec == { fusedSvn := 5, imageSvn := 5 }) = true ∧
    after (exec (.warm 1) (power 0 {})) (fun t => t.pwr == {} && (getD t.host.errLog 1 {}).valid) = true ∧
    (power 0 {}).powered = true ∧ (power 0 { perst := true }).powered = false ∧ stays .glitchDetect (power 0 { perst := true }) = true ∧
    after (exec .watchdogExpiry (power 0 { fwReady := true })) (fun t => t.pwr.lastReset == 5) = true ∧ stays .watchdogExpiry (power 0 {}) = true := by decide +kernel

/-- A partition reset of partition 1 empties its queues and pegs; during one the next is absorbed; its end draws new keys. -/
theorem test_part_reset :
    let s : State := { power 0 {} with cmd := { wq := [(100, { head := 7 })], pegs := [(100, 9), (1, 4)] }, sec := { partKeys := 3 } }
    (s.flrOver 1 = false ∧ s.inRange 1 0 100 = true ∧ s.inRange 1 1 100 = true ∧ s.pwr.partBusy.contains 1 = false) ∧
    after (exec (.partReset 0 1) s) (fun t => t.pwr.partBusy == [1] && t.queue 100 == {} && t.pegVal 100 == 0 && t.pegVal 1 == 4 && t.sec.partKeys == 1) = true ∧
    stays (.partReset 0 1) (power 0 { partBusy := [1] }) = true ∧
    after (exec (.partReset 0 1) (power 0 { ready := false })) (fun t => t.pwr == { ready := false }) = true ∧
    after (exec (.partReset 0 1) { s with host := { flr := [1] } }) (fun t => t.pwr.partPending == [1] && t.pegVal 100 == 9) = true ∧
    after (exec (.partitionResetDone 1) (power 0 { partBusy := [2, 1] })) (fun t => t.pwr.partBusy == [2] && bit t.sec.partKeys 1) = true ∧
    stays (.partitionResetDone 1) (power 0 { partBusy := [2] }) = true := by decide +kernel

/-- An FLR of function 1 disables the queues of partition 1 at once; with a host read outstanding it waits. -/
theorem test_flr :
    let h : HostState := { cfgRegs := [(4096 + 1, 6), (1, 6)], unmasked := [2048, 3] }
    let s : State := { power 0 {} with cmd := { wq := [(100, { head := 7 })] }, host := h }
    let r : State := { s with cmd := { s.cmd with reads := [(0, { fn := 1, n := 64, for_ := .ring 100 })] } }
    (s.partResetOf 1 = false ∧ s.queuesOf 1 100 = true ∧ s.cmd.reads = [] ∧ r.readsOf 1 = true ∧ s.host.flr.contains 1 = false) ∧
    after (exec (.flr 1) s) (fun t => t.queue 100 == {} && !t.wqOn 100 && t.host.cfgRegs == [(1, 6)] && t.host.unmasked == [3] && t.host.flr == []) = true ∧
    after (exec (.flr 1) r) (fun t => t.host.flr == [1] && t.cmd.reads.all (·.2.dead)) = true ∧
    after (exec (.flr 1) (power 0 { partBusy := [1] })) (fun t => t.host.flrPending == [1]) = true ∧
    stays (.flr 1) { s with host := { flr := [1] } } = true ∧
    after (exec (.flr 1) { s with pwr := { ready := false } }) (fun t => t.host.cfgRegs == [(1, 6)]) = true := by decide +kernel

/-! ### Faults -/

/-- A fault state under power. -/
def faultState (f : FltState) : State := { base with flt := f, clk := 300000, hall := 200000 }

theorem base_selfPos : base.selfPos = Config.posId.toNat := by
  have h : base.rteSelf = 0 := by decide +kernel
  simp [State.selfPos, h, fld]

/-- LEASE_REQ of device q in epoch e. -/
def leaseReqOf (q e fenced : Nat) : Packet := ctrlTo 0 0x30 [(32, 4, q), (36, 2, e), (38, 1, fenced), (40, 8, 777)]
/-- LEASE_GRANT for device q. -/
def grantOf (q n : Nat) : Packet := ctrlTo 0 0x31 [(32, 4, q), (36, 2, 1), (40, 8, n)]

theorem test_lease_req :
    let s := faultState { mask := 0x20, epoch := 4 }
    (∀ k ∈ [leaseReqOf 5 4 0, leaseReqOf 5 3 0, leaseReqOf 5 4 1, leaseReqOf 69 4 0], k.ty = 0x30 ∧ k.cls = 0 ∧ malformed k = false) ∧
    s.selfCube = 0 ∧ (leaseReqOf 69 4 0).f 32 4 / 64 = 1 ∧ newer s.flt.epoch 3 = true ∧ newer s.flt.epoch 4 = false ∧
    bit (leaseReqOf 5 4 1).hdr (8 * 38) = true ∧ bit s.flt.mask 5 = true ∧ bit s.flt.mask 6 = false ∧
    -- an older epoch, and another cube's device
    after (exec (.leaseReq 3 (leaseReqOf 5 3 0)) s) (fun t => t.flt.lastReq == [(5, 300000)] && t.out == []) = true ∧
    after (exec (.leaseReq 3 (leaseReqOf 69 4 0)) s) (fun t => t.flt == s.flt) = true := by decide +kernel

theorem test_lease_grant :
    let s := faultState { leaseEn := true, leaseFrom := some 500, echo := 500 }
    (∀ p : BitVec 4, let k := grantOf p.toNat 900; k.f 32 4 % 2 ^ 20 = p.toNat ∧ k.ty = 0x31 ∧ k.cls = 0 ∧ malformed k = false) ∧
    s.flt.leaseEn = true ∧ s.flt.leaseFrom = some 500 := by decide +kernel

/-- The lease ends 120 µs after the time it was last extended to. -/
theorem test_lease_expiry :
    let s (t : W64) : State := { faultState { leaseEn := true, leaseFrom := some t } with cmd := (granted (pkt 1 [])).cmd }
    ((80000 : Nat) + 120000 ≤ (s 80000).hall.toNat ∧ (s 80001).hall.toNat < 80001 + 120000) ∧ stays .leaseExpiry (s 80001) = true ∧
    after (exec .leaseExpiry (s 80000)) (fun t => t.flt.fenced && endedSt t c0 .fenced) = true ∧ stays .leaseExpiry (faultState { leaseFrom := some 0 }) = true := by decide +kernel

/-- The device asks every 20 µs; without a partner it never does. -/
theorem test_lease_timer :
    (∃ q, (faultState { mask := 0xFFFF, leaseEn := true }).partner (faultState { mask := 0xFFFF, leaseEn := true }).selfPos = some q) ∧
    stays .leaseReqTimer (faultState { mask := 0xFFFF, reqSent := none }) = true ∧
    (faultState { mask := 0, leaseEn := true }).partner (faultState {}).selfPos = none := by
  have h : ∀ p : BitVec 4, ((faultState { mask := 0xFFFF, leaseEn := true }).partner p.toNat).isSome = true := by decide +kernel
  have g : ∀ p : BitVec 4, (faultState { mask := 0, leaseEn := true }).partner p.toNat = none := by decide +kernel
  have e (f : FltState) : (faultState f).selfPos = Config.posId.toNat := base_selfPos
  refine ⟨?_, ?_, ?_⟩
  · rw [e]; exact Option.isSome_iff_exists.mp (h _)
  · have q := h Config.posId
    simp only [stays, after, exec, execLeaseReqTimer, e]
    split
    · simp
    · simp [faultState]
  · rw [e]; exact g _

/-- Of two members of a bent each is the other's partner. -/
theorem test_lease_silence : ∃ pos : Fin 64, ∃ s : State, pos.val ≠ s.selfPos ∧ bit s.flt.mask pos = true ∧ s.partner pos = some s.selfPos ∧
    200000 ≤ s.clk - getD s.flt.lastReq pos 0 ∧ s.flt.leaseReported.contains (pos.val, 3) = false ∧ (faultState {}).flt.leaseReported.contains (pos.val, 3) = false := by
  have h : ∀ p : BitVec 4, let s := faultState { mask := BitVec.ofNat 64 (2 ^ p.toNat + 2 ^ (p + 1).toNat) }
      let pos := (p + 1).toNat
      pos < 64 ∧ pos ≠ p.toNat ∧ bit s.flt.mask pos = true ∧ s.partner pos = some p.toNat ∧ 200000 ≤ s.clk - getD s.flt.lastReq pos 0 := by decide +kernel
  have e (f : FltState) : (faultState f).selfPos = Config.posId.toNat := base_selfPos
  obtain ⟨h1, h2, h3, h4, h5⟩ := h Config.posId
  exact ⟨⟨_, h1⟩, _, by rw [e]; exact h2, h3, by rw [e]; exact h4, h5, rfl, rfl⟩

/-- A report about a suspect opens a merge; one more adds to it; a late one is counted; the merge closes after 20 µs. -/
theorem test_reports :
    let r (level kind : Nat) : Packet := ctrlTo 0 0x32 [(32, 4, 9), (36, 4, 5), (40, 2, 4), (42, 1, kind), (43, 1, level), (44, 2, 1), (48, 8, 77)]
    let m (n : Nat) (closed : Bool) : Merge := ⟨9, 1, 0, n, 290000, 77, closed⟩
    let s (ms : List Merge) : State := faultState { epoch := 4, merges := ms }
    (∀ k ∈ [r 0 1, r 1 1, r 2 1], k.ty = 0x32 ∧ k.cls = 0 ∧ malformed k = false ∧ (s []).overtaken k = false) ∧ urgentKind 1 = false ∧
    after (exec (.report (r 0 1)) (s [])) (fun t => t.flt.merges == [⟨9, 1, 0, 1, 300000, 77, false⟩]) = true ∧
    after (exec (.report (r 0 1)) (s [m 2 false])) (fun t => t.flt.merges == [m 3 false]) = true ∧
    after (exec (.report (r 0 1)) (s [m 2 true])) (fun t => t.flt.reportsMerged == 1 && t.flt.merges == [m 2 true]) = true ∧
    stays (.report (r 2 1)) (s [m 2 false]) = true ∧ stays (.reportMergeClose 9) (s [m 2 false]) = true ∧ stays (.reportMergeClose 8) (s [m 2 false]) = true ∧
    (let d := { faultState { epoch := 4, hist := [(0, 1 + 9 * 2 ^ 28 + 5 * 2 ^ 48)] } with clk := 0 }; d.declaredDead 9 = true) ∧
    (20000 : Nat) ≤ (s []).clk - (m 2 false).first + 10000 := by decide +kernel

theorem test_merge_close :
    let m : Merge := ⟨9, 1, 1, 2, 280000, 77, false⟩
    20000 ≤ (faultState { merges := [m] }).clk - m.first ∧
    after (exec (.reportMergeClose 9) (faultState { merges := [m] })) (fun t => t.flt.merges == [{ m with closed := true }]) = true := by decide +kernel

/-- A VERDICT of a newer epoch, one of an older, and one whose prior epoch is not the device's. -/
theorem test_verdict :
    let v (e prior : Nat) : Packet := ctrlTo 0 0x33 [(32, 2, e), (34, 2, prior), (36, 4, 64 + 9), (40, 8, 77)]
    let s := faultState { epoch := 4, mask := 0x20 }
    (∀ k ∈ [v 5 4, v 6 5, v 4 4], k.ty = 0x33 ∧ k.cls = 0 ∧ malformed k = false) ∧ newer 5 s.flt.epoch = true ∧ newer 4 s.flt.epoch = false ∧
    stays (.verdict (v 4 4)) s = true ∧ BitVec.ofNat 16 ((v 6 5).f 34 2) ≠ s.flt.epoch := by decide +kernel

theorem test_verdict_issue :
    let s := faultState { epoch := 4, mask := 0x20 }
    after (exec (.verdictIssue 0 0x0005000000000000) s) (fun t => t.reg 0x14000018 == 0x0005000000000000 && t.flt == s.flt) = true ∧
    after (exec (.verdictIssue 0 0x0004000000000001) s) (fun t => (getD t.host.errLog 0 {}).kind == 6 && t.flt == s.flt) = true ∧
    newer (BitVec.ofNat 16 (fld (0x0005000490000001 : W64) 63 48)) s.flt.epoch = true ∧ bit (0x0005000490000001 : W64) 0 = true := by decide +kernel

/-- FENCED of a peer with a request of slot 0 outstanding; FENCED with a newer epoch. -/
theorem test_fenced :
    let f (reason e : Nat) : Packet := ctrlTo 0 0x34 [(32, 2, e), (34, 4, 9), (38, 1, reason)]
    (∀ k ∈ [f 1 4, f 0 5, f 0 4], k.ty = 0x34 ∧ k.cls = 0 ∧ malformed k = false) ∧
    after (exec (.fenced (f 1 4)) (outstanding 5)) (fun t => t.rem.jobs == [] && ended t c0 .fenced 0 0) = true ∧
    after (exec (.fenced (f 1 4)) (faultState {})) (fun t => t.flt == {}) = true ∧
    after (exec (.fenced (f 0 5)) (faultState { epoch := 4 })) (fun t => t.flt.fenced) = true ∧ stays (.fenced (f 0 4)) (faultState { epoch := 4 }) = true := by decide +kernel

theorem test_rejoin :
    let s (reset : List Nat) : State := { faultState { epoch := 4, fenced := true } with par := { resetSince := reset } }
    ((s [0, 1]).allReset = true ∧ (s [0]).allReset = false) ∧
    after (exec (.rejoin 0 0x0007000000000003) (s [0, 1])) (fun t => !t.flt.fenced && t.flt.epoch == 7 && t.flt.leaseEn) = true ∧
    after (exec (.rejoin 0 0x0007000000000003) (s [0])) (fun t => t.flt.fenced && (getD t.host.errLog 0 {}).kind == 7) = true ∧
    after (exec (.rejoin 0 0x0007000000000001) (faultState { epoch := 4, leaseEn := true })) (fun t => t.flt.epoch == 4 && (getD t.host.errLog 0 {}).valid) = true := by decide +kernel

/-- Copies: with a manifest that neither copy meets the check ends DIVERGED; a queue of another partition may not ask. -/
theorem test_copy_check :
    let data : List Byte := List.replicate 64 7
    let s (fl m : Nat) := atLoft 0 64 [(0, 1, fl), (2, 1, 1), (8, 8, 4096), (16, 4, 64), (24, 8, m), (32, 8, 5)] (atLoft 4096 64 (((List.range 64).map fun i => (i, 1, 7))) (granted (pkt 0x0F40 [])))
    ((s 1 0).ready c0 0x0F40).isSome = true ∧ (s 1 0).cmdFn c0 = 0 ∧ (cmdBlock c0 0 (addr154 0) 64 0x19 0 copyCheckRsv copyCheckVals (s 1 0)).isOk = true ∧
    (match cmdRead c0 0 (addr347 4096) 64 (s 1 0) with
      | .ok d => d == data
      | _ => false) = true ∧ (s 1 0).inRange 0 2 (wordLayer 0) = true ∧
    after (exec (.fltCopyCheck c0) (s 0x11 1)) (fun t => ended t c0 .diverged (crc64 data) (3 + 16 * 1)) = true ∧
    after (exec (.fltCopyCheck c0) (s 0x11 (crc64 data))) (fun t => ended t c0 .ok (crc64 data) (1 + 16 * 1)) = true ∧
    (let c : CmdRef := ⟨100, 0⟩
     let t : State := { base with cmd := { wq := [(100, { inflight := [{ slot := 0, pkt := pkt 0x0F40 [] }] })] } }
     (t.ready c 0x0F40).isSome = true ∧ t.cmdFn c ≠ 0 ∧ after (exec (.fltCopyCheck c) t) (fun t => endedSt t c .access) = true) := by decide +kernel

theorem test_selftest :
    let s := granted (pkt 0x0F41 [(32, 1, 2)])
    (s.ready c0 0x0F41).isSome = true ∧ (s.arr 2).launch = none ∧ (s.arr 2).upset = {} ∧ (getD s.dvt.arrays 2 {}).upset = {} ∧
    after (exec (.fltSelftest c0) s) (fun t => ended t c0 .ok 0 0) = true ∧
    after (exec (.fltSelftest c0) (granted (pkt 0x0F41 [(32, 1, 2), (33, 1, 1)]))) (fun t => ended t c0 .ok 0 0) = true ∧
    after (exec (.fltSelftest c0) { s with arrs := [(2, { launch := some { cmd := c0 } })] }) (fun t => endedSt t c0 .badRsv) = true ∧
    (let u := (granted (pkt 0x0F41 [(32, 1, 1), (33, 1, 1)])).onDvt fun d => { d with runs := [{ cmd := c0, part := 0, lc := false, order := 0, kind := .score, blk := [], entry := BitVec.ofNat 512 (layout [(2, 2, 128)]) }], stream := some (c0, 0, 1) }
     u.streaming 1 = true ∧ after (exec (.fltSelftest c0) u) (fun t => endedSt t c0 .badRsv) = true) := by decide +kernel

/-! ### Security, boot and management -/

/-- The security core with open sessions, and a fabric key of generation 5. -/
def secure (xs : List Bool) : State := { base with sec := { base.sec with sessions := xs, fabricKey := some 9, fabricGen := 5 } }
/-- A vendor response. -/
def answered (t : State) (bs : List Byte) : Bool := t.out == [.response bs]

theorem test_spdm :
    (base.secRuns = true ∧ base.seedOk = true ∧ { base with pwr := { ready := false } }.secRuns = false) ∧
    ((spdmSigned ++ spdmPlain).contains 0x90 = false ∧ spdmPlain.contains 0xEC = true ∧ spdmPlain.contains 0x84 = true) ∧
    after (exec (.spdmRequest [0x12, 0x90]) base) (fun t => answered t [0x12, 0x7F, 7, 0]) = true ∧
    after (exec (.spdmRequest [0x12, 0xFE]) base) (fun t => answered t [0x12, 0x7F, 4, 0]) = true ∧
    (spdmSupported [0x11, 0x81] = false ∧ spdmSupported [0x10, 0x84] = true ∧ spdmSupported [0x12, 0xE0, 0, 1] = false ∧ spdmSupported [0x12, 0xE0, 1, 1] = true ∧
      spdmSupported [0x13, 0x82, 1, 0] = false ∧ spdmSupported [0x12, 0xE4, 0, 0] = true ∧ spdmSupported [0x12, 0xEC] = true) ∧
    ({ base with sec := { base.sec with seedOff := true } }.seedOk = false ∧
      after (exec (.spdmRequest [0x12, 0x83, 0, 0]) { base with sec := { base.sec with seedOff := true } }) (fun t => t.sec.sessions == [] && t.out.length == 1) = true) ∧
    stays (.spdmRequest [0x12, 0x84]) { base with pwr := { ready := false } } = true ∧
    after (exec (.spdmRequest [0x12, 0xE4]) (secure [true])) (fun t => t.sec.sessions == [true, false]) = true ∧
    after (exec (.spdmRequest [0x12, 0xEC]) (secure [true, false])) (fun t => t.sec.sessions == [true]) = true := by decide +kernel

theorem test_vendor :
    let gen (n : Nat) : List Byte := toBytes 36 (n + 0xAB * 2 ^ 32)
    let cak (p r : Nat) : List Byte := toBytes 52 (p + r * 256 + 7 * 2 ^ 32)
    ((secure [true]).sec.sessions.contains true = true ∧ (secure [false]).sec.sessions.contains true = false) ∧
    after (exec (.setFabricKey (gen 6)) (secure [true])) (fun t => t.sec.fabricKey == some 0xAB && t.sec.fabricGen == 6 && answered t [0]) = true ∧
    after (exec (.setFabricKey (gen 5)) (secure [true])) (fun t => t.sec == (secure [true]).sec && answered t [1]) = true ∧
    after (exec (.setFabricKey (gen 6)) (secure [false])) (fun t => t.sec == (secure [false]).sec && answered t [0x12, 0x7F, 4, 0]) = true ∧
    after (exec (.setHallCak (cak 9 0)) (secure [true])) (fun t => t.sec.cak == [(9, 7)] && answered t [0]) = true ∧
    after (exec (.setHallCak (cak 10 0)) (secure [true])) (fun t => t.sec.cak == [] && answered t [1]) = true ∧
    after (exec .getKeyStatus (secure [true])) (fun t => answered t [0, 1, 0, 0, 0, 5, 0, 0, 0]) = true ∧
    after (exec .getKeyStatus (secure [false])) (fun t => answered t [0x12, 0x7F, 4, 0]) = true := by decide +kernel

theorem test_dbg_unlock :
    let s (n : Nat) : State := { base with draws := 7, sec := { base.sec with unlockFails := n } }
    (8 ≤ (s 8).sec.unlockFails ∧ (s 7).sec.unlockFails < 8) ∧ stays (.dbgUnlock [1]) (s 8) = true ∧
    after (exec (.dbgUnlock [1]) (s 7)) (fun t => t.sec.unlockFails == 8 && t.sec.nonceAt == 7 && t.pwr == base.pwr) = true := by decide +kernel

/-- With no image that verifies in either slot the boot halts; a running device does not boot. -/
theorem test_boot :
    let s : State := { base with pwr := { ready := false } }
    s.powered = true ∧ (verifySlot 0 s).1 = 1 ∧ (verifySlot 1 (verifySlot 0 s).2).1 = 1 ∧ s.selected = none ∧ stays .secureBoot base = true ∧
    (boot s).host.bootState = 2 ∧ (boot s).sec.slot = 3 ∧ (boot s).sec.failThis = 1 ∧ (boot s).pwr.ready = true := by decide +kernel

/-- The select record with the higher sequence and a right CRC names the slot. -/
theorem test_select :
    let s : State := { base with sec := { base.sec with xspi := memWrite (memWrite [] 0 (selectRecord 3 0)) 0x1000 (selectRecord 4 1) } }
    s.selected = some (4, 1) ∧ (xspiWrite 0x103C [0] s).selected = some (3, 0) ∧ (writeSelect 0 s).1 = 5 ∧ (writeSelect 0 s).2.selected = some (5, 0) := by decide +kernel

/-- Recovery only after a halt, with a legal length; a buffer that is no image fails with code 1. -/
theorem test_recovery :
    let s (b : Byte) : State := { base with host := { bootState := b } }
    let v : W64 := 0x0000200100000003
    (8193 ≤ fld v 56 32 ∧ fld v 56 32 ≤ 16777216 ∧ bit v 0 = true ∧ (s 2).host.updater = none ∧ (s 2).pwr.ready = true ∧ (s 2).host.flr.contains 0 = false) ∧
    (verify (s 2).recoveryRead (s 2)).1 = 1 ∧
    after (exec (.recoveryGo 0 v) (s 2)) (fun t => t.host.bootState == 3 && t.host.recovState == 4 && t.host.recovCode == 1 && t.sec == base.sec) = true ∧
    after (exec (.recoveryGo 0 v) (s 1)) (fun t => t.host.bootState == 1 && (getD t.host.errLog 0 {}).kind == 7) = true := by decide +kernel

theorem test_update_timeout :
    let s (clk : Nat) : State := { base with clk := clk, host := { updater := some (.pldm, 5), pldm := .download } }
    stays .updateHoldTimeout (s 60000000004) = true ∧ stays .updateHoldTimeout base = true ∧
    after (exec .updateHoldTimeout (s 60000000005)) (fun t => t.host == {}) = true := by decide +kernel

/-- FW_WRITE of 64 bytes from the Loft, FW_VERIFY of an empty slot, FW_SELECT before and after a verification. -/
theorem test_firmware :
    let w := atLoft 4096 64 [(0, 8, 0xABCD)] (granted (pkt 0x0F10 [(32, 8, 4096), (40, 4, 128), (44, 4, 64)]))
    let v := granted (pkt 0x0F11 [])
    let sel (b : Bool) : State := { granted (pkt 0x0F12 []) with host := { verified := b } }
    let held (s : State) : State := { s with host := { s.host with updater := some (.pldm, 0) } }
    ((w.ready c0 0x0F10).isSome = true ∧ (v.ready c0 0x0F11).isSome = true ∧ ((sel true).ready c0 0x0F12).isSome = true ∧ w.cmdFn c0 = 0) ∧
    (held v).heldElsewhere = true ∧ v.heldElsewhere = false ∧
    after (exec (.fwWrite c0) w) (fun t => ended t c0 .ok 64 0 && t.xspiRead (0x01100000 + 128) 8 == toBytes 8 0xABCD) = true ∧
    after (exec (.fwVerify c0) v) (fun t => ended t c0 .ok 1 0 && !t.host.verified) = true ∧
    after (exec (.fwVerify c0) (held v)) (fun t => ended t c0 .access 0 0xFA) = true ∧
    after (exec (.fwSelect c0) (sel false)) (fun t => ended t c0 .access 0 0xFB) = true ∧
    after (exec (.fwSelect c0) (sel true)) (fun t => ended t c0 .ok 1 0 && t.selected == some (1, 1)) = true := by decide +kernel

/-- FW_WRITE from host memory asks for it. -/
theorem test_fw_write_host :
    let s := granted (pkt 0x0F10 [(32, 8, 4096 + 3), (44, 4, 64)])
    (s.ready c0 0x0F10).isSome = true ∧ (match addr378 (op (pkt 0x0F10 [(32, 8, 4096 + 3), (44, 4, 64)]) 32 8) with
      | .host a => a == 4096
      | _ => false) = true ∧
    after (exec (.fwWrite c0) s) (fun t => running t c0 && t.out == [.hostRead 0 0 4096 64]) = true := by decide +kernel

/-- The management endpoint at address 8 with firmware running. -/
def managed (h : HostState) : State := { base with host := { h with i3cAddr := some 8, bootState := 1 } }

theorem test_addresses :
    after (exec (.entdaa 8) base) (fun t => t.host.i3cAddr == some 8) = true ∧ stays (.entdaa 9) (managed {}) = true ∧
    (managed {}).mctpUp = true ∧ base.mctpUp = false ∧ after (exec (.setEndpointId 77) (managed {})) (fun t => t.host.eid == 77) = true ∧
    stays (.setEndpointId 77) base = true := by decide +kernel

theorem test_sensors :
    (managed {}).sensorUp 18 = true ∧ (managed {}).sensorUp 10 = false ∧ { base with pwr := { aux := false } }.sensorUp 1 = false ∧
    (let s : State := { granted (pkt 0x0F00 [(32, 2, 18)]) with host := { sensors := [(18, 2000000)] } }
     (s.ready c0 0x0F00).isSome = true ∧ after (exec (.mgtSensor c0) s) (fun t => ended t c0 .ok 2000000 0) = true) := by decide +kernel

/-- A PLDM update: RequestUpdate, data that leave the image unfinished, an activation, a cancel. -/
theorem test_pldm :
    let h (step : UpdateStep) : HostState := { updater := some (.pldm, 0), pldm := step, fwLen := 4096, fwAt := 64 }
    let data : List Byte := List.replicate 32 5
    (managed {}).fwRuns = true ∧
    after (exec (.pldmFwUpdate [0x81, 5, 0x10]) (managed {})) (fun t => t.host.updater == some (.pldm, 0) && answered t [1, 5, 0x10, 0]) = true ∧
    after (exec (.pldmFwUpdate [0x81, 5, 0x10]) (managed (h .download))) (fun t => answered t [1, 5, 0x10, 0x81]) = true ∧
    after (exec (.pldmFwUpdate ([1, 5, 0x15, 0] ++ data)) (managed (h .download))) (fun t => t.host.fwAt == 96 && t.xspiRead (0x01100000 + 64) 32 == data) = true ∧
    after (exec (.pldmFwUpdate [0x81, 5, 0x1A]) (managed (h .apply))) (fun t => t.host.updater == none && t.host.pldm == .idle) = true ∧
    after (exec (.pldmFwUpdate [0x81, 5, 0x1D]) (managed (h .download))) (fun t => t.host.updater == none && t.host.pldm == .idle) = true ∧
    stays (.pldmFwUpdate [0x81, 5, 0x10]) base = true ∧ stays (.pldmRequest [0x81, 2]) base = true := by decide +kernel

/-! ### The host interface -/

/-- An error log entry was made by function fn with this kind and width, for a write in BAR0. -/
def logged (t : State) (fn kind width off : Nat) : Bool :=
  getD t.host.errLog fn {} == { valid := true, kind := BitVec.ofNat 4 kind, width := BitVec.ofNat 3 width, bar := 0, write := true, offset := BitVec.ofNat 36 off, count := 1 }

/-- Writes of 1 and 2 bytes, where no register lies, of half a W64 register, and of an odd shape. -/
theorem test_csr_errors :
    after (exec (.csrWrite 0 (.bar0 0x18000000) 1 1) base) (logged · 0 1 0 0x18000000) = true ∧ after (exec (.csrWrite 0 (.bar0 0x18000002) 2 1) base) (logged · 0 1 1 0x18000002) = true ∧
    regAt 0x18000010 = none ∧ after (exec (.csrWrite 0 (.bar0 0x18000010) 8 1) base) (logged · 0 4 3 0x18000010) = true ∧
    (match regAt 0x16000000 with
      | some r => r.w64
      | none => false) = true ∧ after (exec (.csrWrite 0 (.bar0 0x16000004) 4 1) base) (logged · 0 2 2 0x16000004) = true ∧
    after (exec (.csrWrite 0 (.bar0 0x16000008) 3 1) base) (logged · 0 3 2 0x16000008) = true ∧
    stays (.csrWrite 0 (.bar0 0x10000000) 8 1) { base with pwr := { ready := false } } = true ∧ asksReset 0x0A000300 4 = true ∧
    after (exec (.csrWrite 0 (.bar0 0x18000000) 8 0x100) { base with pwr := { ready := false } }) (logged · 0 7 3 0x18000000) = true := by decide +kernel

/-- A write of a register is its register operation. -/
theorem test_csr_write :
    after (exec (.csrWrite 0 (.bar0 (BitVec.ofNat 29 (0x10000000 + 8 * 7))) 8 9) base) (fun t => t.pegVal 7 == 9) = true ∧
    after (exec (.csrWrite 0 (.bar0 0x13000000) 8 3) base) (fun t => t.det 0 && t.reg 0x13000000 == 1) = true ∧
    after (exec (.csrWrite 0 (.bar0 0x15000070) 8 2) { base with sec := { fusedSvn := 3, imageSvn := 5 } }) (fun t => t.sec.fusedSvn == 5) = true := by decide +kernel

/-- The error log latches the first event and counts the next, to 255; writing 1 to valid clears both. -/
theorem test_err_log :
    let l : ErrLog := { valid := true, kind := 4, width := 3, bar := 0, write := true, offset := 0x123, count := 255 }
    let s : State := { base with host := { errLog := [(1, l)] } }
    getD (logErr 1 9 0 2 false 5 s).host.errLog 1 {} = l ∧ (getD (logErr 2 9 0 2 false 5 s).host.errLog 2 {}).count = 1 ∧
    (s.pwr.ready = true ∧ s.host.flr.contains 1 = false ∧ s.host.bootState.toNat < 2) ∧
    after (exec (.csrWrite 1 (.bar0 0x108) 8 0x8000000000000000) s) (fun t => getD t.host.errLog 1 {} == { l with valid := false, count := 0 }) = true ∧
    stays (.csrWrite 1 (.bar0 0x108) 8 0) s = true := by decide +kernel

/-- BAR4: a write and a read of the Loft; beyond the map; of a function without a partition; before readiness. -/
theorem test_bar4 :
    (base.powered = true ∧ base.partOfFn 0 = some 0 ∧ base.partOfFn 5 = none ∧ (match base.loftPlace 0 64 with
      | .ok a => a == 64
      | _ => false) = true ∧ (match base.loftPlace 0 0x1000000 with
      | .ok _ => false
      | .error _ => true) = true ∧ base.poisoned .loft 64 = none) ∧
    after (exec (.bar4Access 0 64 (.write [1, 2])) base) (fun t => t.loft == [(64, 1), (65, 2)] && t.host == base.host) = true ∧
    after (exec (.bar4Access 0 64 (.read 2)) { base with loft := [(64, 1)] }) (fun t => t.out == [.completion 0 [1, 0]]) = true ∧
    after (exec (.bar4Access 0 0x1000000 (.read 2)) base) (fun t => t.out == [.completion 0 [0xFF, 0xFF]] && (getD t.host.errLog 0 {}).kind == 9) = true ∧
    after (exec (.bar4Access 5 64 (.read 1)) base) (fun t => t.out == [.completion 5 [0xFF]]) = true ∧ stays (.bar4Access 5 64 (.write [1])) base = true ∧
    stays (.bar4Access 0 64 (.write [1])) { base with pwr := { ready := false } } = true := by decide +kernel

theorem test_config :
    after (exec (.configRequest 0 0 none) { base with pwr := { ready := false } }) (fun t => t.out == [.retryStatus 0]) = true ∧
    after (exec (.configRequest 0 8 none) base) (fun t => t.out == [.completion 0 [1, 0, 0, 0x12]]) = true ∧
    (∃ reg : BitVec 12, reg.toNat / 4 ≠ 0 ∧ reg.toNat / 4 ≠ 2 ∧ reg.toNat / 4 ≠ Config.msixCap) := by
  refine ⟨by decide +kernel, by decide +kernel, ?_⟩
  by_cases h : Config.msixCap = 1
  · exact ⟨12, by decide, by decide, by rw [h]; decide⟩
  · exact ⟨4, by decide, by decide, fun e => h e.symm⟩

theorem test_atomicop_msix :
    let s : State := { base with host := { pendingBits := [2048 + 3] } }
    let m : State := { base with host := { pendingBits := [2048 + 3], fnMask := [1] } }
    after (exec (.atomicop 0 2 0) base) (fun t => t.out == [.unsupported 0]) = true ∧
    after (exec (.atomicop 0 0 8) base) (fun t => t.out == [.completion 0 (List.replicate 8 0xFF)] && logged t 0 3 3 8) = true ∧
    stays (.atomicop 1 0 8) { base with host := { flr := [1] } } = true ∧
    after (exec (.csrWrite 1 (.bar2 0x40003C) 4 0) s) (fun t => t.out == [.msix 1 3] && t.host.pendingBits == []) = true ∧
    after (exec (.csrWrite 1 (.bar2 0x40003C) 4 1) { base with host := { unmasked := [2048 + 3] } }) (fun t => t == base) = true ∧
    (s.pwr.ready = true ∧ s.host.flr.contains 1 = false ∧ s.host.fnMask.contains 1 = false ∧ s.host.pendingBits.contains (1 * 2048 + 3) = true ∧ m.host.fnMask.contains 1 = true) ∧
    after (exec (.msixUnmask 1 3) s) (fun t => t.out == [.msix 1 3] && t.host.pendingBits == []) = true ∧
    after (exec (.msixUnmask 1 3) m) (fun t => t.out == [] && t.host.pendingBits == [2048 + 3] && t.host.unmasked == [2048 + 3]) = true := by decide +kernel

/-- A ring slot arrives, or fails; data for a stopped owner are discarded; a copy's read fails. -/
theorem test_host_read :
    let s (dead : Bool) : State := { base with cmd := { wq := [(0, { fetching := some 0 })], reads := [(0, { fn := 0, for_ := .ring 0, n := 64, dead := dead })] } }
    let c : State := { (staged (pkt 0x0100 []) .running) with cmd := { (staged (pkt 0x0100 []) .running).cmd with reads := [(4, { fn := 0, for_ := .copy 0 0, n := 64 })] } }
    let bs := toBytes 64 (pkt 0x0001 []).toNat
    (find? (s true).cmd.reads 0).isSome = true ∧ (find? (s true).cmd.reads 1).isNone = true ∧ (s true).host.flr.contains 0 = false ∧ 64 ≤ bs.length ∧
    opcode (toBlock bs) ≠ 0x0104 ∧ (c.running ⟨Fin.ofNat 1024 0, 0⟩).isSome = true ∧
    stays (.hostReadCompletion 1 .failed) (s false) = true ∧
    after (exec (.hostReadCompletion 0 (.bytes bs)) (s true)) (fun t => t == { s true with cmd := { (s true).cmd with reads := [] } }) = true ∧
    after (exec (.hostReadCompletion 0 (.bytes bs)) (s false)) (fun t => (t.queue 0).head == 1 && (t.queue 0).fetched.map (·.pkt) == [pkt 0x0001 []]) = true ∧
    after (exec (.hostReadCompletion 0 .failed) (s false)) (fun t => (t.queue 0).halted && (t.queue 0).head == 0) = true ∧
    after (exec (.hostReadCompletion 4 .failed) c) (fun t => endedSt t c0 .integrity) = true := by decide +kernel

/-! ### The block as a whole -/

theorem test_reset :
    State.reset.pending = [] ∧ State.reset.csr = [] ∧ State.reset.loft = [] ∧ State.reset.hbm = [] ∧ State.reset.bench = [] ∧ State.reset.flash = [] ∧
    State.reset.wqOn 5 = false ∧ State.reset.parValid 0 = false ∧ (State.reset.port 7).st = .disabled ∧ State.reset.pegVal 9 = 0 ∧
    State.reset.reg 0x0E000000 = 0x00003E803E87D003 ∧ State.reset.flt.fenced = false := by decide +kernel

theorem reset_canon : State.reset.Canon := by unfold State.Canon; decide +kernel

/-- The front of the queue is executed; an empty queue lets time pass. -/
theorem test_step :
    after (step { base with pending := [.entdaa 8, .entdaa 9] }) (fun t => t.pending == [.entdaa 9] && t.host.i3cAddr == some 8) = true ∧
    after (step State.reset) (fun t => t.clk == 1 && t.pending == []) = true ∧ decodeTableWord 0 0 = none ∧ State.reset.withFetchWord 0 0 = State.reset := by decide +kernel

/-- Operands that no row of the table carries. -/
theorem test_ill_formed :
    let big : Packet := ⟨0, List.replicate 4097 0⟩
    let i : List Instr := [.dispatchUnit big, .post big, .put big, .transitPacket 0 big, .sweep 0 big, .verdict big, .leaseReq 0 big, .linkBlock 0 [],
      .linkBlock 0 (List.replicate 1055 0), .csrWrite 0 (.bar0 0) 0 0, .csrWrite 0 (.bar0 0) 4097 0, .csrWrite 0 (.bar0 0) 1 256, .bar4Access 0 0 (.read 0), .bar4Access 0 0 (.read 4097),
      .bar4Access 0 0 (.write []), .hostReadCompletion 0 (.bytes [])]
    i.all (fun i => !i.wellFormed) = true ∧ (Instr.csrWrite 0 (.bar0 0) 1 255).wellFormed = true ∧ (Instr.linkBlock 0 (List.replicate 1056 0)).wellFormed = true ∧
    faults (exec (.linkBlock 0 []) base) = true := by decide +kernel

end Sys2Proof.Tests
end

section
/-! The statement of chapter 20 on BAR0 writes (R12, R517 to R520, R525): rules for the register map, for a write that reaches the device and for
each block, and the statement settled from them. -/

namespace Sys2Proof.Machine

/-! ### The register map (R517) -/

/-- A list that holds an element with the property has one picked. -/
theorem exists_pick {α : Type} {p : α → Bool} {xs : List α} {x : α} (hx : x ∈ xs) (hp : p x = true) : ∃ y, pick p xs = some y := by
  induction xs with
  | nil => simp at hx
  | cons y r ih =>
    by_cases hy : p y = true
    · exact ⟨y, by simp [pick, hy]⟩
    · have hr : x ∈ r := (List.mem_cons.1 hx).resolve_left fun e => hy (e ▸ hp)
      simpa [pick, hy] using ih hr

/-- Each of a row's offsets holds a register. -/
theorem exists_regAt_of_row (r : RegRow) (i : Nat) (hr : r ∈ regRows) (hi : i < r.count) (hs : 0 < r.stride) :
    ∃ r', regAt (r.base + r.stride * i) = some r' :=
  exists_pick hr (by simp [RegRow.has, Nat.mul_div_cancel_left i hs, hi])

/-- A 64-bit write where a register lies is the write of that register. -/
theorem writeWord_of_regAt {off : Nat} (h : ∃ r, regAt off = some r) (fn : Nat) (v : W64) (s : State) :
    writeWord fn off v s = writeReg fn off v s := by
  obtain ⟨r, hr⟩ := h
  simp [writeWord, hr]

/-! ### Whether a write reaches the device (R525, R528, R529) -/

/-- A BAR0 write asks for no reset where the register is neither RST_CTL nor of a link block. -/
theorem asksReset_eq_false {off : Nat} (h : off ≠ 0x18000000) (hb : off / 2 ^ 24 < 0x0A ∨ 0x0C < off / 2 ^ 24) (v : W64) :
    asksReset off v = false := by
  have hl : [0x0A, 0x0B, 0x0C].contains (off / 2 ^ 24) = false := by
    generalize off / 2 ^ 24 = k at hb
    simp only [List.contains_cons, List.contains_nil, Bool.or_eq_false_iff, beq_eq_false_iff_ne, and_true]
    omega
  simp only [asksReset, beq_eq_false_iff_ne.2 h, hl, Bool.false_and, Bool.or_self]

/-- Before configuration is ready a BAR0 write does nothing but log one that asks for a reset (R510, R525). -/
theorem csrWrite_of_not_ready {s : State} (h : s.pwr.ready = false) (fn off n v : Nat) :
    csrWrite fn off n v s = if n = 8 ∧ asksReset off (BitVec.ofNat 64 v) = true then logWrite fn 7 off s else s := by
  by_cases hn : n = 0
  · simp [csrWrite, hn]
  · simp [csrWrite, hn, h]

/-- A write of the PF that reaches its block acts. -/
theorem barWrite_of_pfWrites {s : State} (h : s.PfWrites) (off : Nat) (act : State → State) : barWrite 0 off act s = act s := by
  obtain ⟨hready, hflr, hboot⟩ := h
  have hne : (s.host.bootState == 4) = false := beq_eq_false_iff_ne.2 fun e => by simp [e] at hboot
  have hlt : decide (s.host.bootState.toNat ≥ 2) = false := decide_eq_false (by omega)
  simp only [barWrite, hready, hflr, hne, hlt, Bool.not_true, Bool.or_self, Bool.false_and, Bool.false_eq_true, ↓reduceIte]

/-- The PF's register operation that reaches its block acts. -/
theorem pfOp_of_pfWrites {s : State} (h : s.PfWrites) (off : Nat) (act : State → State) : pfOp 0 off act s = act s := by
  simp [pfOp, pfOnly, barWrite_of_pfWrites h]

/-- A write to BAR0 never faults. -/
theorem exec_csrWrite_bar0 (fn : Fn) (a : BitVec 29) (n v : Nat) (s : State) :
    exec (.csrWrite fn (.bar0 a) n v) s = .next (csrWrite fn a.toNat n v s) := rfl

/-! ### Shapes that are logged (R518 to R520) -/

section Shapes
variable {s : State} (h : s.PfWrites) (off v : Nat)
include h

/-- A write of 1 byte, or an aligned one of 2 bytes, is logged with kind 1, whether or not a register lies there (the model's choice, log 86). -/
theorem csrWrite_narrow {n : Nat} (hn : n = 1 ∨ (n = 2 ∧ off % 2 = 0)) : csrWrite 0 off n v s = logErr 0 1 (widthCode n) 0 true off s := by
  have h0 : n ≠ 0 := by omega
  have h8 : n ≠ 8 := by omega
  have h4 : n ≠ 4 := by omega
  simp [csrWrite, h.1, h0, h8, h4, hn, barWrite_of_pfWrites h]

/-- A write of 3 bytes has no shape of Table Host-4 and is logged with kind 3. -/
theorem csrWrite_three : csrWrite 0 off 3 v s = logErr 0 3 (widthCode 3) 0 true off s := by
  simp [csrWrite, h.1, barWrite_of_pfWrites h]

/-- An aligned 8-byte write that reaches the device is a 64-bit write. -/
theorem csrWrite_eight (h8 : off % 8 = 0) : csrWrite 0 off 8 v s = writeWord 0 off (BitVec.ofNat 64 v) s := by
  simp [csrWrite, h.1, h8, barWrite_of_pfWrites h]

/-- An aligned 4-byte write that reaches the device is a 32-bit write. -/
theorem csrWrite_four (h4 : off % 4 = 0) : csrWrite 0 off 4 v s = writeHalf 0 off v s := by
  simp [csrWrite, h.1, h4, barWrite_of_pfWrites h]

end Shapes

/-! ### An aligned 8-byte write is the register operation of its register -/

/-- An 8-byte write at a register is the write of that register, where the device takes it. -/
theorem csrWrite_register {off : Nat} {s : State} {v : W64} (hreg : ∃ r, regAt off = some r) (h8 : off % 8 = 0)
    (hrst : s.pwr.ready = false → asksReset off v = false) (fn : Nat) :
    csrWrite fn off 8 v.toNat s = barWrite fn off (writeReg fn off v) s := by
  have hw : writeWord fn off v = writeReg fn off v := funext (writeWord_of_regAt hreg fn v)
  cases hready : s.pwr.ready with
  | false => simp [csrWrite_of_not_ready hready, hrst hready, barWrite, hready]
  | true => simp [csrWrite, hready, h8, hw]

/-- The same of the instruction, for a register that is neither RST_CTL nor of a link block: a write of it asks for no reset. -/
theorem exec_csrWrite_register {a : BitVec 29} {off : Nat} (ha : a.toNat = off) (hreg : ∃ r, regAt off = some r) (h8 : off % 8 = 0)
    (hrst : off ≠ 0x18000000) (hlink : off / 2 ^ 24 < 0x0A ∨ 0x0C < off / 2 ^ 24) (fn : Fn) (v : W64) (s : State) :
    exec (.csrWrite fn (.bar0 a) 8 v.toNat) s = .next (barWrite fn off (writeReg fn off v) s) := by
  subst ha
  rw [exec_csrWrite_bar0, csrWrite_register hreg h8 (fun _ => asksReset_eq_false hrst hlink v)]

/-- The same for an offset below the end of BAR0. -/
theorem exec_csrWrite_ofNat {off : Nat} (hlt : off < 2 ^ 29) (hreg : ∃ r, regAt off = some r) (h8 : off % 8 = 0)
    (hrst : off ≠ 0x18000000) (hlink : off / 2 ^ 24 < 0x0A ∨ 0x0C < off / 2 ^ 24) (fn : Fn) (v : W64) (s : State) :
    exec (.csrWrite fn (.bar0 (BitVec.ofNat 29 off)) 8 v.toNat) s = .next (barWrite fn off (writeReg fn off v) s) :=
  exec_csrWrite_register (by simp only [BitVec.toNat_ofNat]; omega) hreg h8 hrst hlink fn v s

/-- A write of the PF that the device takes, at any register. -/
theorem exec_csrWrite_of_pfWrites {a : BitVec 29} {off : Nat} {fn : Fn} {s : State} (h : s.PfWrites) (hfn : fn.val = 0) (ha : a.toNat = off)
    (hreg : ∃ r, regAt off = some r) (h8 : off % 8 = 0) (v : Nat) :
    exec (.csrWrite fn (.bar0 a) 8 v) s = .next (writeReg 0 off (BitVec.ofNat 64 v) s) := by
  subst ha
  have he : csrWrite 0 a.toNat 8 v s = writeReg 0 a.toNat (BitVec.ofNat 64 v) s :=
    (csrWrite_eight h _ v h8).trans (writeWord_of_regAt hreg 0 _ s)
  rw [exec_csrWrite_bar0, hfn, he]

/-! ### The register writes by block (Table Host-3) -/

/-- PEG_VALUE. -/
theorem writeReg_peg (fn : Nat) (p : PegIx) (v : W64) : writeReg fn (0x10000000 + 8 * p.val) v = writePeg fn p v := by
  have hb : (0x10000000 + 8 * p.val) / 2 ^ 24 = 0x10 := by omega
  have hi : (0x10000000 + 8 * p.val - 0x10000000) / 8 = p.val := by omega
  funext s
  simp only [writeReg, hb, hi]

/-- The second register of a queue's 64 bytes in the WQ block: WQ_CFG below offset 0x10000, CQ_CFG from there on. -/
theorem writeWq_cfg {off q : Nat} (hr : (off - 0x0F000000) % 0x40 = 8) (hq : (off - 0x0F000000) % 0x10000 / 0x40 = q) (fn : Nat) (v : W64) :
    writeWq fn off v = if 0x10000 ≤ off - 0x0F000000 then writeCqCfg fn q v else writeWqCfg fn q v := by
  funext s
  unfold writeWq
  simp only [hq]
  rw [hr]
  by_cases hc : 0x10000 ≤ off - 0x0F000000 <;> simp [hc]

/-- WQ_CFG. -/
theorem writeReg_wqCfg (fn : Nat) (q : QueueIx) (v : W64) : writeReg fn (0x0F000008 + 0x40 * q.val) v = writeWqCfg fn q v := by
  have hb : (0x0F000008 + 0x40 * q.val) / 2 ^ 24 = 0x0F := by omega
  have hc : ¬ 0x10000 ≤ 0x0F000008 + 0x40 * q.val - 0x0F000000 := by omega
  funext s
  simp only [writeReg, hb]
  rw [writeWq_cfg (q := q.val) (by omega) (by omega), if_neg hc]

/-- CQ_CFG. -/
theorem writeReg_cqCfg (fn : Nat) (q : QueueIx) (v : W64) : writeReg fn (0x0F010008 + 0x40 * q.val) v = writeCqCfg fn q v := by
  have hb : (0x0F010008 + 0x40 * q.val) / 2 ^ 24 = 0x0F := by omega
  have hc : 0x10000 ≤ 0x0F010008 + 0x40 * q.val - 0x0F000000 := by omega
  funext s
  simp only [writeReg, hb]
  rw [writeWq_cfg (q := q.val) (by omega) (by omega), if_pos hc]

/-- LFT_BAY_CFG. -/
theorem writeReg_bayCfg (fn : Nat) (b : BayIx) (v : W64) : writeReg fn (0x03000000 + 8 * b.val) v = writeBayCfg fn b v := by
  have hb : (0x03000000 + 8 * b.val) / 2 ^ 24 = 0x03 := by omega
  have hi : (0x03000000 + 8 * b.val - 0x03000000) / 8 = b.val := by omega
  funext s
  simp only [writeReg, hb, hi]

/-- PAR_CFG. -/
theorem writeReg_parCfg (fn : Nat) (p : Part) (v : W64) :
    writeReg fn (0x12000000 + 8 * p.val) v = pfOnly fn (0x12000000 + 8 * p.val) (writeParCfg p v) := by
  have hb : (0x12000000 + 8 * p.val) / 2 ^ 24 = 0x12 := by omega
  have ho : 0x12000000 + 8 * p.val - 0x12000000 = 8 * p.val := by omega
  have hlt : 8 * p.val < 0x40 := by omega
  have hi : 8 * p.val / 8 = p.val := by omega
  funext s
  simp only [writeReg, hb, writePar, ho, hlt, hi, ↓reduceIte]

/-- PAR_BREACH_RING. -/
theorem writeReg_breachRing (fn : Nat) (p : Part) (v : W64) : writeReg fn (0x12000080 + 0x10 * p.val) v = writeBreachRing fn p v := by
  have hb : (0x12000080 + 0x10 * p.val) / 2 ^ 24 = 0x12 := by omega
  have ho : 0x12000080 + 0x10 * p.val - 0x12000000 = 0x80 + 0x10 * p.val := by omega
  have hlo : ¬ 0x80 + 0x10 * p.val < 0x40 := by omega
  have hmid : ¬ 0x80 + 0x10 * p.val < 0x80 := by omega
  have hhi : 0x80 + 0x10 * p.val < 0x100 := by omega
  have hal : (0x80 + 0x10 * p.val) % 16 = 0 := by omega
  have hi : (0x80 + 0x10 * p.val - 0x80) / 16 = p.val := by omega
  funext s
  simp only [writeReg, hb, writePar, ho, hlo, hmid, hhi, hal, hi, ↓reduceIte]

/-- DET_CFG, written by the PF: the det bit is kept and the reserved bits are ignored (R14). -/
theorem writeReg_detCfg (p : Part) (v : W64) (s : State) :
    writeReg 0 (0x13000000 + 8 * p.val) v s = s.setReg (0x13000000 + 8 * p.val) (v &&& 1#64) := by
  have hb : (0x13000000 + 8 * p.val) / 2 ^ 24 = 0x13 := by omega
  have hlt : 0x13000000 + 8 * p.val < 0x13000040 := by omega
  simp only [writeReg, hb, pfOnly, hlt, setMasked, ↓reduceIte]

/-- The det bit of a value of DET_CFG is bit 0 of what was written. -/
theorem bit_zero_and_one (v : W64) : bit (v &&& 1#64) 0 = bit v 0 := by
  simp [bit, BitVec.toNat_and]

/-- RTE_EPOCH_CTL, written by the PF. -/
theorem writeReg_epochCtl (v : W64) (s : State) : writeReg 0 0x0D000018 v s = writeEpochCtl v s := rfl

/-- SEC_CTL, written by the PF. -/
theorem writeReg_secCtl (v : W64) (s : State) : writeReg 0 0x15000070 v s = writeSecCtl v s := rfl

/-- RST_CTL, written by the PF. -/
theorem writeReg_rstCtl (v : W64) (s : State) : writeReg 0 0x18000000 v s = writeRstCtl v s := rfl

/-! ### Where the registers of the statement lie -/

theorem exists_regAt_peg (p : PegIx) : ∃ r, regAt (0x10000000 + 8 * p.val) = some r :=
  exists_regAt_of_row ⟨0x10000000, 8, 16384, true⟩ p.val (by simp [regRows, rowsRoute]) p.isLt (by decide)

theorem exists_regAt_wqCfg (q : QueueIx) : ∃ r, regAt (0x0F000008 + 0x40 * q.val) = some r :=
  exists_regAt_of_row ⟨0x0F000008, 0x40, 1024, true⟩ q.val (by simp [regRows, rowsRoute]) q.isLt (by decide)

theorem exists_regAt_cqCfg (q : QueueIx) : ∃ r, regAt (0x0F010008 + 0x40 * q.val) = some r :=
  exists_regAt_of_row ⟨0x0F010008, 0x40, 1024, true⟩ q.val (by simp [regRows, rowsRoute]) q.isLt (by decide)

theorem exists_regAt_bayCfg (b : BayIx) : ∃ r, regAt (0x03000000 + 8 * b.val) = some r :=
  exists_regAt_of_row ⟨0x03000000, 8, 32, true⟩ b.val (by simp [regRows, rowsMemory]) b.isLt (by decide)

theorem exists_regAt_parCfg (p : Part) : ∃ r, regAt (0x12000000 + 8 * p.val) = some r :=
  exists_regAt_of_row ⟨0x12000000, 8, 8, true⟩ p.val (by simp [regRows, rowsPar]) p.isLt (by decide)

theorem exists_regAt_breachRing (p : Part) : ∃ r, regAt (0x12000080 + 0x10 * p.val) = some r :=
  exists_regAt_of_row ⟨0x12000080, 0x10, 8, true⟩ p.val (by simp [regRows, rowsPar]) p.isLt (by decide)

theorem exists_regAt_detCfg (p : Part) : ∃ r, regAt (0x13000000 + 8 * p.val) = some r :=
  exists_regAt_of_row ⟨0x13000000, 8, 8, true⟩ p.val (by simp [regRows, rowsControl]) p.isLt (by decide)

theorem exists_regAt_fltVerdict : ∃ r, regAt 0x14000018 = some r :=
  exists_regAt_of_row ⟨0x14000008, 8, 3, true⟩ 2 (by simp [regRows, rowsControl]) (by decide) (by decide)

theorem exists_regAt_fltMember : ∃ r, regAt 0x14000008 = some r :=
  exists_regAt_of_row ⟨0x14000008, 8, 3, true⟩ 0 (by simp [regRows, rowsControl]) (by decide) (by decide)

theorem exists_regAt_telHdrCfg : ∃ r, regAt 0x09000000 = some r :=
  exists_regAt_of_row ⟨0x09000000, 8, 2, true⟩ 0 (by simp [regRows, rowsEngines]) (by decide) (by decide)

theorem exists_regAt_recovCtl : ∃ r, regAt 0x18 = some r :=
  exists_regAt_of_row ⟨0x18, 8, 1, true⟩ 0 (by simp [regRows, rowsMemory]) (by decide) (by decide)

theorem exists_regAt_epochCtl : ∃ r, regAt 0x0D000018 = some r :=
  exists_regAt_of_row ⟨0x0D000000, 8, 5, true⟩ 3 (by simp [regRows, rowsRoute]) (by decide) (by decide)

theorem exists_regAt_secCtl : ∃ r, regAt 0x15000070 = some r :=
  exists_regAt_of_row ⟨0x15000070, 8, 1, true⟩ 0 (by simp [regRows, rowsControl]) (by decide) (by decide)

theorem exists_regAt_rstCtl : ∃ r, regAt 0x18000000 = some r :=
  exists_regAt_of_row ⟨0x18000000, 8, 1, true⟩ 0 (by simp [regRows, rowsControl]) (by decide) (by decide)

/-! ### The rows that name a register's write do the same -/

section Rows
variable (fn : Fn) (v : W64) (s : State)

theorem exec_csrWrite_pegValue (p : PegIx) :
    exec (.csrWrite fn (.bar0 (BitVec.ofNat 29 (0x10000000 + 8 * p.val))) 8 v.toNat) s = exec (.pegValueWrite fn p v) s := by
  rw [exec_csrWrite_ofNat (by omega) (exists_regAt_peg p) (by omega) (by omega) (by omega), writeReg_peg]; rfl

theorem exec_csrWrite_wqCfg (q : QueueIx) :
    exec (.csrWrite fn (.bar0 (BitVec.ofNat 29 (0x0F000008 + 0x40 * q.val))) 8 v.toNat) s = exec (.wqCfgWrite fn q v) s := by
  rw [exec_csrWrite_ofNat (by omega) (exists_regAt_wqCfg q) (by omega) (by omega) (by omega), writeReg_wqCfg]; rfl

theorem exec_csrWrite_cqCfg (q : QueueIx) :
    exec (.csrWrite fn (.bar0 (BitVec.ofNat 29 (0x0F010008 + 0x40 * q.val))) 8 v.toNat) s = exec (.cqCfgWrite fn q v) s := by
  rw [exec_csrWrite_ofNat (by omega) (exists_regAt_cqCfg q) (by omega) (by omega) (by omega), writeReg_cqCfg]; rfl

theorem exec_csrWrite_bayCfg (b : BayIx) :
    exec (.csrWrite fn (.bar0 (BitVec.ofNat 29 (0x03000000 + 8 * b.val))) 8 v.toNat) s = exec (.lftBayCfgWrite fn b v) s := by
  rw [exec_csrWrite_ofNat (by omega) (exists_regAt_bayCfg b) (by omega) (by omega) (by omega), writeReg_bayCfg]; rfl

theorem exec_csrWrite_parCfg (p : Part) :
    exec (.csrWrite fn (.bar0 (BitVec.ofNat 29 (0x12000000 + 8 * p.val))) 8 v.toNat) s = exec (.parCfgWrite fn p v) s := by
  rw [exec_csrWrite_ofNat (by omega) (exists_regAt_parCfg p) (by omega) (by omega) (by omega), writeReg_parCfg]; rfl

theorem exec_csrWrite_breachRing (p : Part) :
    exec (.csrWrite fn (.bar0 (BitVec.ofNat 29 (0x12000080 + 0x10 * p.val))) 8 v.toNat) s = exec (.parBreachRingWrite fn p v) s := by
  rw [exec_csrWrite_ofNat (by omega) (exists_regAt_breachRing p) (by omega) (by omega) (by omega), writeReg_breachRing]; rfl

theorem exec_csrWrite_fltVerdict : exec (.csrWrite fn (.bar0 0x14000018) 8 v.toNat) s = exec (.verdictIssue fn v) s :=
  exec_csrWrite_register (off := 0x14000018) rfl exists_regAt_fltVerdict (by decide) (by decide) (by decide) fn v s

theorem exec_csrWrite_fltMember : exec (.csrWrite fn (.bar0 0x14000008) 8 v.toNat) s = exec (.rejoin fn v) s :=
  exec_csrWrite_register (off := 0x14000008) rfl exists_regAt_fltMember (by decide) (by decide) (by decide) fn v s

theorem exec_csrWrite_telHdrCfg : exec (.csrWrite fn (.bar0 0x09000000) 8 v.toNat) s = exec (.telHdrCfgWrite fn v) s :=
  exec_csrWrite_register (off := 0x09000000) rfl exists_regAt_telHdrCfg (by decide) (by decide) (by decide) fn v s

theorem exec_csrWrite_recovCtl : exec (.csrWrite fn (.bar0 0x18) 8 v.toNat) s = exec (.recoveryGo fn v) s :=
  exec_csrWrite_register (off := 0x18) rfl exists_regAt_recovCtl (by decide) (by decide) (by decide) fn v s

end Rows

section PfRows
variable {fn : Fn} {s : State} (h : s.PfWrites) (hfn : fn.val = 0)
include h hfn

/-- DET_CFG keeps the det bit, and nothing but that register changes. -/
theorem exec_csrWrite_detCfg (p : Part) (v : W64) :
    ∃ t, exec (.csrWrite fn (.bar0 (BitVec.ofNat 29 (0x13000000 + 8 * p.val))) 8 v.toNat) s = .next t ∧ t.det p = bit v 0 ∧
      (∀ o, o ≠ 0x13000000 + 8 * p.val → t.reg o = s.reg o) ∧ t = { s with csr := t.csr } := by
  refine ⟨s.setReg (0x13000000 + 8 * p.val) (v &&& 1#64), ?_, ?_, fun o ho => s.reg_setReg_other _ ho, rfl⟩
  · have ha : (BitVec.ofNat 29 (0x13000000 + 8 * p.val)).toNat = 0x13000000 + 8 * p.val := by simp only [BitVec.toNat_ofNat]; omega
    rw [exec_csrWrite_of_pfWrites h hfn ha (exists_regAt_detCfg p) (by omega), BitVec.ofNat_toNat, BitVec.setWidth_eq, writeReg_detCfg]
  · simp only [State.det, State.reg_setReg, bit_zero_and_one]

/-- RTE_EPOCH_CTL takes its operations from the written value. -/
theorem exec_csrWrite_epochCtl (v : Nat) :
    exec (.csrWrite fn (.bar0 0x0D000018) 8 v) s = .next (writeEpochCtl (BitVec.ofNat 64 v) s) := by
  rw [exec_csrWrite_of_pfWrites (off := 0x0D000018) h hfn rfl exists_regAt_epochCtl (by decide), writeReg_epochCtl]

theorem exec_csrWrite_secCtl (v : Nat) :
    exec (.csrWrite fn (.bar0 0x15000070) 8 v) s = .next (writeSecCtl (BitVec.ofNat 64 v) s) := by
  rw [exec_csrWrite_of_pfWrites (off := 0x15000070) h hfn rfl exists_regAt_secCtl (by decide), writeReg_secCtl]

theorem exec_csrWrite_rstCtl (v : Nat) :
    exec (.csrWrite fn (.bar0 0x18000000) 8 v) s = .next (writeRstCtl (BitVec.ofNat 64 v) s) := by
  rw [exec_csrWrite_of_pfWrites (off := 0x18000000) h hfn rfl exists_regAt_rstCtl (by decide), writeReg_rstCtl]

theorem exec_csrWrite_drainBegin : exec (.csrWrite fn (.bar0 0x0D000018) 8 1) s = exec .drainBegin s := exec_csrWrite_epochCtl h hfn 1

theorem exec_csrWrite_drainEnd : exec (.csrWrite fn (.bar0 0x0D000018) 8 2) s = exec .drainEnd s := exec_csrWrite_epochCtl h hfn 2

theorem exec_csrWrite_switch : exec (.csrWrite fn (.bar0 0x0D000018) 8 3) s = exec .switch s := exec_csrWrite_epochCtl h hfn 3

theorem exec_csrWrite_snap : exec (.csrWrite fn (.bar0 0x0D000018) 8 4) s = exec .snap s := exec_csrWrite_epochCtl h hfn 4

theorem exec_csrWrite_svnCommit : exec (.csrWrite fn (.bar0 0x15000070) 8 2) s = exec (.svnCommit fn) s := by
  rw [exec_csrWrite_secCtl h hfn]
  show _ = Host.Outcome.next (pfOp fn.val 0x15000070 svnCommit s)
  rw [hfn, pfOp_of_pfWrites h]; rfl

theorem exec_csrWrite_zeroize : exec (.csrWrite fn (.bar0 0x15000070) 8 0x5A45524F00000001) s = exec (.zeroize fn) s := by
  rw [exec_csrWrite_secCtl h hfn]
  show _ = Host.Outcome.next (pfOp fn.val 0x15000070 (zeroize 3) s)
  rw [hfn, pfOp_of_pfWrites h]; rfl

theorem exec_csrWrite_warm : exec (.csrWrite fn (.bar0 0x18000000) 8 0x5253545700000001) s = exec (.warm fn) s := by
  rw [exec_csrWrite_rstCtl h hfn]
  show _ = Host.Outcome.next (pfOp fn.val 0x18000000 (warmReset 2) s)
  rw [hfn, pfOp_of_pfWrites h]; rfl

end PfRows

/-! ### The statement settled -/

/-- Before configuration is ready: a write is dropped, and one that asks for a narrower reset is logged. -/
theorem exec_csrWrite_of_not_ready {s : State} (h : s.pwr.ready = false) (fn : Fn) (off : BitVec 29) (n v : Nat) :
    exec (.csrWrite fn (.bar0 off) n v) s =
      .next (if n = 8 ∧ asksReset off.toNat (BitVec.ofNat 64 v) = true then logWrite fn 7 off.toNat s else s) := by
  rw [exec_csrWrite_bar0, csrWrite_of_not_ready h]

/-- Settles O54, from the shape of the write and, for an aligned 8-byte write at a register, from the equation of that register's block. -/
theorem registerWrites : Obligations.RegisterWrites := by
  unfold Obligations.RegisterWrites
  refine ⟨fun fn off n v s => ⟨fun h hno => ?_, fun h hn hr => ?_, fun h hfn => ?_⟩, fun fn v s => ⟨exec_csrWrite_pegValue fn v s,
    fun q => ⟨exec_csrWrite_wqCfg fn v s q, exec_csrWrite_cqCfg fn v s q⟩, exec_csrWrite_bayCfg fn v s,
    fun p => ⟨exec_csrWrite_parCfg fn v s p, exec_csrWrite_breachRing fn v s p, fun h hfn => exec_csrWrite_detCfg h hfn p v⟩,
    ⟨exec_csrWrite_fltVerdict fn v s, exec_csrWrite_fltMember fn v s, exec_csrWrite_telHdrCfg fn v s, exec_csrWrite_recovCtl fn v s⟩,
    fun h hfn => ⟨exec_csrWrite_drainBegin h hfn, exec_csrWrite_drainEnd h hfn, exec_csrWrite_switch h hfn, exec_csrWrite_snap h hfn,
      exec_csrWrite_svnCommit h hfn, exec_csrWrite_zeroize h hfn, exec_csrWrite_warm h hfn⟩⟩⟩
  · have hneg : ¬ (n = 8 ∧ asksReset off.toNat (BitVec.ofNat 64 v) = true) := fun ⟨h8, hr⟩ => by simp [h8, hr] at hno
    rw [exec_csrWrite_of_not_ready h, if_neg hneg]
  · rw [exec_csrWrite_of_not_ready h, if_pos ⟨hn, hr⟩]
  · simp only [exec_csrWrite_bar0, hfn, Host.Outcome.next.injEq]
    refine ⟨csrWrite_narrow h _ v, ?_, ?_, ?_, ?_⟩
    · rintro rfl h8 hr
      rw [csrWrite_eight h _ v h8, writeWord, hr]
    · rintro rfl h4 r hr hw
      rw [csrWrite_four h _ v h4]
      simp [writeHalf, hr, hw]
    · rintro rfl h4 hr
      rw [csrWrite_four h _ v h4]
      simp [writeHalf, hr]
    · rintro rfl
      exact csrWrite_three h _ v

end Sys2Proof.Machine
end

section
/-! The statement of chapter 3 on rounding (R74, R80): a right shift as its quotient rounded by its remainder, the range of a stochastic draw, what a clamp keeps,
and an alignment as a clamped shift. -/

namespace Sys2Proof.Machine

/-! ### Quotient and remainder of a right shift -/

theorem sub_ediv_mul_eq_emod (x m : Int) : x - x / m * m = x % m := by
  rw [Int.emod_def, Int.mul_comm]

theorem sub_ediv_succ_mul_eq (x m : Int) : x - (x / m + 1) * m = x % m - m := by
  rw [Int.add_mul, Int.one_mul, ← Int.sub_sub, sub_ediv_mul_eq_emod]

/-! ### Round-half-to-even (R74) -/

@[simp] theorem rshiftRne_zero (x : Int) : rshiftRne x 0 = x := rfl

/-- The remainder rounds the quotient up when it is above one half, and at one half where the quotient is odd. -/
theorem rshiftRne_succ (x : Int) {k : Nat} (hk : k + 1 < 64) :
    rshiftRne x (k + 1) =
      if 2 ^ k < x % 2 ^ (k + 1) ∨ (x % 2 ^ (k + 1) = 2 ^ k ∧ x / 2 ^ (k + 1) % 2 = 1) then x / 2 ^ (k + 1) + 1 else x / 2 ^ (k + 1) := by
  simp only [rshiftRne, sub_ediv_mul_eq_emod, if_neg (Nat.succ_ne_zero k), if_neg (Nat.not_le.mpr hk), Nat.add_sub_cancel, gt_iff_lt]

/-- The answer is within one half of the exact quotient; at one half away it is even. -/
theorem rshiftRne_nearest_even (x : Int) {n : Nat} (hn : n < 64) :
    2 * (x - rshiftRne x n * 2 ^ n).natAbs ≤ 2 ^ n ∧ (2 * (x - rshiftRne x n * 2 ^ n).natAbs = 2 ^ n → 0 < n → rshiftRne x n % 2 = 0) := by
  cases n with
  | zero => simp only [rshiftRne_zero]; omega
  | succ k =>
    have hpos : (0 : Int) < 2 ^ (k + 1) := Int.pow_pos (by decide)
    have hlo : 0 ≤ x % 2 ^ (k + 1) := Int.emod_nonneg x (Int.ne_of_gt hpos)
    have hhi : x % 2 ^ (k + 1) < 2 ^ (k + 1) := Int.emod_lt_of_pos x hpos
    have hdouble : (2 : Int) ^ (k + 1) = 2 ^ k * 2 := Int.pow_succ 2 k
    have hcast : ((2 ^ k : Nat) : Int) = 2 ^ k := Int.natCast_pow 2 k
    rw [rshiftRne_succ x hn, Nat.pow_succ]
    split
    case isTrue hup =>
      rw [sub_ediv_succ_mul_eq]
      omega
    case isFalse hdown =>
      rw [sub_ediv_mul_eq_emod]
      omega

/-! ### Stochastic rounding (R80) -/

/-- The top n bits of a draw are an n-bit number. -/
theorem draw_top_bits_lt (r : W64) {n : Nat} (hn : n ≤ 64) : r.toNat >>> (64 - n) < 2 ^ n := by
  rw [Nat.shiftRight_eq_div_pow, Nat.div_lt_iff_lt_mul (Nat.two_pow_pos _), ← Nat.pow_add, Nat.add_sub_cancel' hn]
  exact r.isLt

/-- The quotient goes up when the remainder plus the draw's top bits reaches one. -/
theorem rshiftSr_of_lt (x : Int) {n : Nat} (r : W64) (hn : n < 64) :
    rshiftSr x n r = if 2 ^ n ≤ x % 2 ^ n + ((r.toNat >>> (64 - n) : Nat) : Int) then x / 2 ^ n + 1 else x / 2 ^ n := by
  simp only [rshiftSr, sub_ediv_mul_eq_emod, if_neg (Nat.not_lt.mpr (Nat.le_of_lt_succ hn)), ge_iff_le]

theorem rshiftSr_eq_ediv_or_succ (x : Int) {n : Nat} (r : W64) (hn : n < 64) : rshiftSr x n r = x / 2 ^ n ∨ rshiftSr x n r = x / 2 ^ n + 1 := by
  rw [rshiftSr_of_lt x r hn]
  split
  case isTrue => exact .inr rfl
  case isFalse => exact .inl rfl

theorem rshiftSr_eq_succ_iff (x : Int) {n : Nat} (r : W64) (hn : n < 64) :
    rshiftSr x n r = x / 2 ^ n + 1 ↔ 2 ^ n ≤ x % 2 ^ n + ((r.toNat >>> (64 - n) : Nat) : Int) := by
  rw [rshiftSr_of_lt x r hn]
  split
  case isTrue hup => exact iff_of_true rfl hup
  case isFalse hdown => exact iff_of_false (by omega) hdown

/-- An exact shift is not rounded, whatever is drawn. -/
theorem rshiftSr_of_emod_eq_zero {x : Int} {n : Nat} (r : W64) (hn : n < 64) (hx : x % 2 ^ n = 0) : rshiftSr x n r = x / 2 ^ n := by
  have hdraw : ((r.toNat >>> (64 - n) : Nat) : Int) < 2 ^ n := mod_cast draw_top_bits_lt r (Nat.le_of_lt hn)
  rw [rshiftSr_of_lt x r hn, hx, Int.zero_add, if_neg (Int.not_le.mpr hdraw)]

/-! ### Clamps and alignment (R74) -/

theorem clampTo_of_mem {lo hi y : Int} (hlo : lo ≤ y) (hhi : y ≤ hi) : clampTo lo hi y = (y, false) := by
  rw [clampTo, if_neg (Int.not_lt.mpr hhi), if_neg (Int.not_lt.mpr hlo)]

theorem clampTo_fst_mem {lo hi : Int} (h : lo ≤ hi) (y : Int) : lo ≤ (clampTo lo hi y).1 ∧ (clampTo lo hi y).1 ≤ hi := by
  unfold clampTo
  split
  · exact ⟨h, Int.le_refl hi⟩
  · split
    · exact ⟨Int.le_refl lo, h⟩
    · omega

theorem clampTo_snd_eq_false_iff {lo hi y : Int} : (clampTo lo hi y).2 = false ↔ lo ≤ y ∧ y ≤ hi := by
  refine ⟨fun h => ?_, fun ⟨hlo, hhi⟩ => by rw [clampTo_of_mem hlo hhi]⟩
  unfold clampTo at h
  split at h
  case isTrue => cases h
  case isFalse hhi =>
    split at h
    case isTrue => cases h
    case isFalse hlo => exact ⟨Int.not_lt.mp hlo, Int.not_lt.mp hhi⟩

theorem clamp48_fst_mem (y : Int) : -2 ^ 47 ≤ (clamp48 y).1 ∧ (clamp48 y).1 ≤ 2 ^ 47 - 1 := clampTo_fst_mem (by decide) y

theorem clamp48_snd_eq_false_iff {y : Int} : (clamp48 y).2 = false ↔ -2 ^ 47 ≤ y ∧ y ≤ 2 ^ 47 - 1 := clampTo_snd_eq_false_iff

theorem clamp48_fst_of_snd_eq_false {y : Int} (h : (clamp48 y).2 = false) : (clamp48 y).1 = y := by
  obtain ⟨hlo, hhi⟩ := clamp48_snd_eq_false_iff.mp h
  rw [clamp48, clampTo_of_mem hlo hhi]

/-- An alignment is a clamp of the shifted value, to the left or to the right. -/
theorem align_eq_clamp48 (x e et : Int) :
    align x e et = clamp48 (if et ≤ e then x * 2 ^ (min (e - et).toNat 64) else rshiftRne x (et - e).toNat) := by
  simp only [align, ge_iff_le, Int.sub_nonneg, Int.neg_sub]
  split <;> rfl

/-- To the left by at most 64 the clamped value is the exact multiple. -/
theorem align_of_le {e et : Int} (x : Int) (h : et ≤ e) (h64 : e - et ≤ 64) : align x e et = clamp48 (x * 2 ^ (e - et).toNat) := by
  rw [align_eq_clamp48, if_pos h, Nat.min_eq_left (by omega)]

theorem align_fst_mem (x e et : Int) : -2 ^ 47 ≤ (align x e et).1 ∧ (align x e et).1 ≤ 2 ^ 47 - 1 := by
  rw [align_eq_clamp48]
  exact clamp48_fst_mem _

/-! ### The statement settled -/

/-- Settles O11, from a right shift as its quotient rounded by its remainder and an alignment as a clamped shift. -/
theorem roundingRules : Obligations.RoundingRules := by
  unfold Obligations.RoundingRules
  refine ⟨fun x n hn => rshiftRne_nearest_even x hn, fun x n r _ hn => ?_, fun x e et => ?_⟩
  · exact ⟨rshiftSr_eq_ediv_or_succ x r hn, rshiftSr_eq_succ_iff x r hn, rshiftSr_of_emod_eq_zero r hn⟩
  · obtain ⟨hlo, hhi⟩ := align_fst_mem x e et
    refine ⟨hlo, hhi, fun h h64 => ?_, fun h h64 => ?_⟩
    · rw [align_of_le x h h64]
      exact clamp48_snd_eq_false_iff
    · rw [align_of_le x h h64]
      exact clamp48_fst_of_snd_eq_false

end Sys2Proof.Machine
end

section
/-! How an array instruction leaves its array and everything else: the rules for a changed array, its saturation mark and its next instruction (R82, R120), and for
bytes written to a bench. -/

namespace Sys2Proof.Machine

/-! ### One array changed -/

@[simp] theorem State.arr_onArr_self (s : State) (a : Nat) (f : Arr → Arr) : (s.onArr a f).arr a = f (s.arr a) := getD_upd_self ..

theorem State.arr_onArr_other (s : State) {a b : Nat} (f : Arr → Arr) (h : b ≠ a) : (s.onArr a f).arr b = s.arr b := getD_upd_other _ _ _ _ h

/-- Array a of t is y, and the rest of t is as in s. -/
structure State.ArrBecomes (s t : State) (a : Nat) (y : Arr) : Prop where
  frame : t = { s with arrs := t.arrs }
  arr_self : t.arr a = y
  arr_other : ∀ b, b ≠ a → t.arr b = s.arr b

theorem State.ArrBecomes.bench_eq {s t : State} {a : Nat} {y : Arr} (h : s.ArrBecomes t a y) : t.bench = s.bench := by rw [h.frame]

theorem State.ArrBecomes.refl (s : State) (a : Nat) : s.ArrBecomes s a (s.arr a) := ⟨rfl, rfl, fun _ _ => rfl⟩

theorem State.ArrBecomes.onArr {s t : State} {a : Nat} {y : Arr} (h : s.ArrBecomes t a y) (f : Arr → Arr) : s.ArrBecomes (t.onArr a f) a (f y) where
  frame := by
    have hframe := h.frame
    exact congrArg (fun u : State => { u with arrs := (t.onArr a f).arrs }) hframe
  arr_self := by rw [arr_onArr_self, h.arr_self]
  arr_other b hb := by rw [arr_onArr_other _ _ hb, h.arr_other b hb]

/-- The array with the mark of a saturation that occurred (R82). -/
def Arr.noteSat (b : Bool) (x : Arr) : Arr :=
  if b then
    { x with
      satSeen := true
      satEvents := if (match x.launch with
          | some l => !l.sat
          | none => false) then satAdd x.satEvents 1 else x.satEvents
      launch := x.launch.map fun l => { l with sat := true } }
  else x

section NoteSat
variable (b : Bool) (x : Arr)

@[simp] theorem Arr.noteSat_pc : (x.noteSat b).pc = x.pc := by cases b <;> rfl
@[simp] theorem Arr.noteSat_image : (x.noteSat b).image = x.image := by cases b <;> rfl
@[simp] theorem Arr.noteSat_s : (x.noteSat b).s = x.s := by cases b <;> rfl
@[simp] theorem Arr.noteSat_tables : (x.noteSat b).tables = x.tables := by cases b <;> rfl
@[simp] theorem Arr.noteSat_vregs : (x.noteSat b).vregs = x.vregs := by cases b <;> rfl
@[simp] theorem Arr.noteSat_satSeen : (x.noteSat b).satSeen = (x.satSeen || b) := by cases b <;> simp [noteSat]

end NoteSat

theorem State.ArrBecomes.noteArrSat {s t : State} {a : Nat} {y : Arr} (h : s.ArrBecomes t a y) (b : Bool) :
    s.ArrBecomes (noteArrSat a b t) a (y.noteSat b) := by
  cases b with
  | false => exact h
  | true => exact h.onArr (Arr.noteSat true)

/-! ### Going on and stopping -/

/-- The array at its next instruction. -/
def Arr.next (x : Arr) : Arr := { x with pc := x.pc + 1, phase := .running, wait := none }

@[simp] theorem Arr.next_s (x : Arr) : x.next.s = x.s := rfl
@[simp] theorem Arr.next_tables (x : Arr) : x.next.tables = x.tables := rfl
@[simp] theorem Arr.next_satSeen (x : Arr) : x.next.satSeen = x.satSeen := rfl

/-- An array that does not stand at its last instruction goes on at the next. -/
theorem State.ArrBecomes.goOn {s t : State} {a : Nat} {y : Arr} {im : Image} (h : s.ArrBecomes t a y) (him : y.image = some im)
    (hpc : y.pc + 1 < im.code.length) (l : ArrLaunch) : s.ArrBecomes (goOn a l t) a y.next := by
  obtain rfl := h.arr_self
  have heq : Machine.goOn a l t = t.onArr a fun x => { x with pc := (t.arr a).pc + 1, phase := .running, wait := none } := by
    simp only [Machine.goOn, goTo, him, if_pos hpc]
  rw [heq]
  exact h.onArr _

/-- An instruction whose work leaves the place of its array goes on. The work is compared with w, which has the arrays of the state it began in. -/
theorem instrStep_of_ok {s u w : State} {a o : Nat} {l : ArrLaunch} {k : BitVec 256} {y : Arr}
    {f : ArrLaunch → BitVec 256 → State → Except (State × Err) State} (h : s.AtInstr a o l k) (hf : f l k s = .ok u) (hw : w.arrs = s.arrs)
    (hu : w.ArrBecomes u a y) (hpc : y.pc = (s.arr a).pc) (him : y.image = (s.arr a).image) :
    w.ArrBecomes (instrStep a o f s) a y.next ∧ s.Advanced (instrStep a o f s) a := by
  obtain ⟨hop, im, himage, hlast⟩ := h
  have hstep : instrStep a o f s = goOn a l u := by simp only [instrStep, hop, hf]
  have hon : w.ArrBecomes (goOn a l u) a y.next := hu.goOn (him.trans himage) (hpc ▸ hlast) l
  rw [hstep]
  refine ⟨hon, ?_, ?_, ?_, fun b hb => ?_⟩
  · rw [hon.arr_self, ← hpc]; rfl
  · rw [hon.arr_self]; rfl
  · rw [hon.arr_self, ← him]; rfl
  · rw [hon.arr_other b hb, State.arr, State.arr, hw]

/-- An instruction whose work fails stops its array with that failure. -/
theorem instrStep_of_error {s u : State} {a o : Nat} {l : ArrLaunch} {k : BitVec 256} {e : Err}
    {f : ArrLaunch → BitVec 256 → State → Except (State × Err) State} (h : s.AtInstr a o l k) (hf : f l k s = .error (u, e)) :
    instrStep a o f s = stopArray a l e u := by
  simp only [instrStep, h.1, hf]

/-! ### Bytes written to a bench -/

theorem memGet_memWrite_singleton (m : List Host.Cell) (a : Nat) (b : Byte) : memGet (memWrite m a [b]) a = b := memGet_memSet_self m a b

theorem foldl_clearPoison_frame (g : Nat → Nat) (xs : List Nat) (s : State) :
    xs.foldl (fun s x => s.clearPoison .bench (g x)) s = { s with tier := (xs.foldl (fun s x => s.clearPoison .bench (g x)) s).tier } := by
  induction xs generalizing s with
  | nil => rfl
  | cons x xs ih =>
    rw [List.foldl_cons]
    exact ih (s.clearPoison .bench (g x))

theorem writeBench_frame (s : State) (a off : Nat) (bs : List Byte) :
    s.writeBench a off bs = { s with bench := (s.writeBench a off bs).bench, tier := (s.writeBench a off bs).tier } := by
  have hframe := foldl_clearPoison_frame (fun g => benchAt a g / 64)
  simp only [State.writeBench]
  rw [hframe]

/-- A run that ends within the bench lies at its addresses (R120: another wraps). -/
theorem bench_writeBench {s : State} {a off : Nat} {bs : List Byte} (hoff : off < 2 ^ 18) (h : off + bs.length ≤ 2 ^ 18) :
    (s.writeBench a off bs).bench = memWrite s.bench (a * 2 ^ 18 + off) bs := by
  have hframe := foldl_clearPoison_frame (fun g => benchAt a g / 64)
  have hfits : bs.length ≤ 2 ^ 18 - off := by omega
  simp only [State.writeBench]
  rw [hframe, Nat.mod_eq_of_lt hoff, List.take_of_length_le hfits, List.drop_of_length_le hfits]
  rfl

/-! ### Packed elements -/

@[simp] theorem length_toBytes (n v : Nat) : (toBytes n v).length = n := by
  induction n generalizing v with
  | zero => rfl
  | succ n ih => rw [toBytes, List.length_cons, ih]

@[simp] theorem length_pack (w : Nat) (qs : List Int) : (pack w qs).length = qs.length * w / 8 := length_toBytes ..

theorem getElem?_unpack {w n i : Nat} (bs : List Byte) (h : i < n) : (unpack w n bs)[i]? = some (signed w (ofBytes bs >>> (w * i))) := by
  simp only [unpack, List.getElem?_map, List.getElem?_range h, Option.map_some]

end Sys2Proof.Machine
end

section
/-! The registers of the vector lane unit: lanes and lane pairs after one or two registers were set (R104). -/

namespace Sys2Proof.Machine

/-! ### Lanes -/

/-- A table in which the n entries from b were set. -/
theorem getD_foldl_put {α : Type} (b : Nat) (v : Nat → α) (m : List (Nat × α)) (d : α) (n j : Nat) :
    getD ((List.range n).foldl (fun m i => put m (b + i) (v i)) m) j d = if b ≤ j ∧ j < b + n then v (j - b) else getD m j d := by
  induction n with
  | zero => rw [if_neg (by omega)]; rfl
  | succ n ih =>
    rw [List.range_succ, List.foldl_append, List.foldl_cons, List.foldl_nil, getD_put, ih]
    by_cases hj : j = b + n
    · rw [if_pos hj, if_pos (by omega), hj, Nat.add_sub_cancel_left]
    · rw [if_neg hj]
      exact ite_congr (propext (by omega)) (fun _ => rfl) fun _ => rfl

@[simp] theorem Arr.lane_noteSat (b : Bool) (x : Arr) (r i : Nat) : (x.noteSat b).lane r i = x.lane r i := by simp [lane]
@[simp] theorem Arr.lane_next (x : Arr) (r i : Nat) : x.next.lane r i = x.lane r i := rfl
@[simp] theorem Arr.pairI_noteSat (b : Bool) (x : Arr) (r i : Nat) : (x.noteSat b).pairI r i = x.pairI r i := by simp [pairI]
@[simp] theorem Arr.pairI_next (x : Arr) (r i : Nat) : x.next.pairI r i = x.pairI r i := rfl

section SetLanes
variable (x : Arr) (r : Nat) (f : Nat → Int)

@[simp] theorem Arr.setLanes_pc : (x.setLanes r f).pc = x.pc := by simp only [setLanes]
@[simp] theorem Arr.setLanes_image : (x.setLanes r f).image = x.image := by simp only [setLanes]
@[simp] theorem Arr.setLanes_s : (x.setLanes r f).s = x.s := by simp only [setLanes]
@[simp] theorem Arr.setLanes_tables : (x.setLanes r f).tables = x.tables := by simp only [setLanes]
@[simp] theorem Arr.setLanes_satSeen : (x.setLanes r f).satSeen = x.satSeen := by simp only [setLanes]
@[simp] theorem Arr.setPairs_pc : (x.setPairs r f).pc = x.pc := by simp only [setPairs, setLanes_pc]
@[simp] theorem Arr.setPairs_image : (x.setPairs r f).image = x.image := by simp only [setPairs, setLanes_image]

theorem Arr.lane_setLanes_self {i : Nat} (h : i < 64) : (x.setLanes r f).lane r i = BitVec.ofInt 32 (f i) := by
  rw [lane, setLanes, getD_foldl_put, if_pos (by omega), Nat.add_sub_cancel_left]

theorem Arr.lane_setLanes_other {q i : Nat} (hq : q ≠ r) (h : i < 64) : (x.setLanes r f).lane q i = x.lane q i := by
  rw [lane, setLanes, getD_foldl_put, if_neg (by omega), lane]

/-! ### Lane pairs -/

theorem Arr.lane_setPairs_other {q i : Nat} (hq : q ≠ r) (hq' : q ≠ r + 1) (h : i < 64) : (x.setPairs r f).lane q i = x.lane q i := by
  rw [setPairs, lane_setLanes_other _ _ _ hq' h, lane_setLanes_other _ _ _ hq h]

/-- The two halves of a 64-bit number give it back. -/
theorem signed_of_halves {z : Int} (hlo : -2 ^ 63 ≤ z) (hhi : z ≤ 2 ^ 63 - 1) :
    signed 64 ((BitVec.ofInt 32 z).toNat + 2 ^ 32 * (BitVec.ofInt 32 (z / 2 ^ 32)).toNat) = z := by
  rw [signed, BitVec.toInt_ofNat', BitVec.toNat_ofInt, BitVec.toNat_ofInt, Int.bmod_def]
  omega

theorem Arr.pairI_setPairs {i : Nat} (h : i < 64) (hlo : -2 ^ 63 ≤ f i) (hhi : f i ≤ 2 ^ 63 - 1) : (x.setPairs r f).pairI r i = f i := by
  have hlow : (x.setPairs r f).lane r i = BitVec.ofInt 32 (f i) := by
    rw [setPairs, lane_setLanes_other _ _ _ (by omega) h, lane_setLanes_self _ _ _ h]
  have hhigh : (x.setPairs r f).lane (r + 1) i = BitVec.ofInt 32 (f i / 2 ^ 32) := lane_setLanes_self _ _ _ h
  rw [pairI, hlow, hhigh, signed_of_halves hlo hhi]

end SetLanes

theorem signed_64_mem (n : Nat) : -2 ^ 63 ≤ signed 64 n ∧ signed 64 n ≤ 2 ^ 63 - 1 :=
  ⟨BitVec.le_toInt _, Int.le_sub_one_of_lt (BitVec.toInt_lt (x := BitVec.ofNat 64 n))⟩

theorem clamp64_fst_mem (y : Int) : -2 ^ 63 ≤ (clamp64 y).1 ∧ (clamp64 y).1 ≤ 2 ^ 63 - 1 := clampTo_fst_mem (by decide) y

/-- What is within 48 bits is within 64. -/
theorem mem_64_of_mem_48 {z : Int} (h : -2 ^ 47 ≤ z ∧ z ≤ 2 ^ 47 - 1) : -2 ^ 63 ≤ z ∧ z ≤ 2 ^ 63 - 1 := by omega

end Sys2Proof.Machine
end

section
/-! The statement of chapter 5 on the vector lane unit (R104, R105, R132, R133, Table Prog-11): what each kind of vector instruction leaves, and the statement
settled from that. Two of its clauses are choices of the model: a lane instruction works on 32-bit lanes whatever w64 is (log 128), and a 32-bit immediate is
sign-extended for a lane pair (log 21). -/

namespace Sys2Proof.Machine

section Step
variable {s : State} {a o : Nat} {l : ArrLaunch} {k : BitVec 256}

/-! ### Instructions that set registers -/

/-- A vector instruction whose work sets registers of its array and marks a saturation goes on with them set. -/
theorem vecStep_sets_registers {f : VecOp → Arr → State → Except (State × Err) State} (h : s.AtInstr a o l k) (b : Bool) (g : Arr → Arr)
    (hf : f (vecOp (s.arr a) k) (s.arr a) s = .ok (noteArrSat a b (s.onArr a g))) (hpc : ∀ y, (g y).pc = y.pc)
    (him : ∀ y, (g y).image = y.image) :
    s.ArrBecomes (vecStep a o f s) a ((g (s.arr a)).noteSat b).next ∧ s.Advanced (vecStep a o f s) a :=
  instrStep_of_ok (f := fun _ k s => f (vecOp (s.arr a) k) (s.arr a) s) h hf rfl (((State.ArrBecomes.refl s a).onArr g).noteArrSat b)
    ((Arr.noteSat_pc ..).trans (hpc _)) ((Arr.noteSat_image ..).trans (him _))

theorem satStep_becomes (h : s.AtInstr a o l k) (f : VecOp → Arr → Nat → Int × Bool) :
    let y := s.arr a
    let v := vecOp y k
    s.ArrBecomes (satStep a o f s) a ((y.setLanes v.vd fun i => (f v y i).1).noteSat ((List.range 64).any fun i => (f v y i).2)).next ∧
      s.Advanced (satStep a o f s) a :=
  vecStep_sets_registers h _ (fun y => y.setLanes _ fun i => (f _ (s.arr a) i).1) rfl (fun _ => Arr.setLanes_pc ..) fun _ => Arr.setLanes_image ..

/-- A vector instruction that computes its lanes one by one sets the lanes of vd to them and marks their saturation. -/
theorem satStep_sets (h : s.AtInstr a o l k) (f : VecOp → Arr → Nat → Int × Bool) :
    let y := s.arr a
    let v := vecOp y k
    let t := satStep a o f s
    s.Advanced t a ∧ (∀ i, i < 64 → (t.arr a).lane v.vd i = BitVec.ofInt 32 (f v y i).1) ∧
      (∀ r i, r ≠ v.vd → i < 64 → (t.arr a).lane r i = y.lane r i) ∧
      (t.arr a).satSeen = (y.satSeen || (List.range 64).any fun i => (f v y i).2) ∧ (t.arr a).s = y.s ∧ (t.arr a).tables = y.tables ∧
      t = { s with arrs := t.arrs } := by
  intro y v t
  obtain ⟨hbec, hadv⟩ := satStep_becomes h f
  refine ⟨hadv, fun i hi => ?_, fun r i hr hi => ?_, ?_, ?_, ?_, hbec.frame⟩ <;> rw [hbec.arr_self]
  · rw [Arr.lane_next, Arr.lane_noteSat, Arr.lane_setLanes_self _ _ _ hi]
  · rw [Arr.lane_next, Arr.lane_noteSat, Arr.lane_setLanes_other _ _ _ hr hi]
  · rw [Arr.next_satSeen, Arr.noteSat_satSeen, Arr.setLanes_satSeen]
  · rw [Arr.next_s, Arr.noteSat_s, Arr.setLanes_s]
  · rw [Arr.next_tables, Arr.noteSat_tables, Arr.setLanes_tables]

/-- A lane operation that cannot saturate is one that marks none. -/
theorem laneStep_eq_satStep (a o : Nat) (f : VecOp → Arr → Nat → Int) (s : State) : laneStep a o f s = satStep a o (fun v y i => (f v y i, false)) s := by
  simp only [laneStep, satStep, List.any_eq_false.mpr fun _ _ => Bool.false_ne_true, noteArrSat, Bool.not_false, ↓reduceIte]

theorem exec_of_laneStep {x : Instr} {f : VecOp → Arr → Nat → Int} (h : exec x s = .next (laneStep a o f s)) :
    exec x s = .next (satStep a o (fun v y i => (f v y i, false)) s) := by
  rw [h, laneStep_eq_satStep]

/-- VCMP writes the truth of its condition as 1 or 0. -/
theorem exec_vcmp (a : ArrayIx) (s : State) :
    exec (.vcmp a) s = .next (satStep a 0x26 (fun v y i => (if compareBy v.sub (y.laneI v.va i) (v.b y i) then 1 else 0, false)) s) := by
  have hone (c : Bool) : ((b2n c : Nat) : Int) = if c then 1 else 0 := by cases c <;> rfl
  simp only [← hone]
  exact exec_of_laneStep rfl

/-- VSEL takes operand b where the lane of vc is 0. -/
theorem exec_vsel (a : ArrayIx) (s : State) :
    exec (.vsel a) s = .next (satStep a 0x27 (fun v y i => (if y.lane v.vc i = 0 then v.b y i else y.laneI v.va i, false)) s) := by
  simp only [← ite_not (p := Arr.lane _ _ _ = 0)]
  exact exec_of_laneStep rfl

/-! ### VADD, VSUB and VALIGN -/

/-- A sum or difference of lane pairs is clamped to 48 bits under sub 1, and to 64 otherwise (Table Prog-11). -/
def VecOp.clampPair (v : VecOp) (z : Int) : Int × Bool := if v.sub = 1 then clamp48 z else clamp64 z

theorem VecOp.clampPair_fst_mem (v : VecOp) (z : Int) : -2 ^ 63 ≤ (v.clampPair z).1 ∧ (v.clampPair z).1 ≤ 2 ^ 63 - 1 := by
  unfold clampPair
  split
  case isTrue => exact mem_64_of_mem_48 (clamp48_fst_mem z)
  case isFalse => exact clamp64_fst_mem z

theorem addStep_lanes_becomes (h : s.AtInstr a o l k) (f : Int → Int → Int) :
    let y := s.arr a
    let v := vecOp y k
    v.w64 = false → ∃ b, s.ArrBecomes (addStep a o f s) a ((y.setLanes v.vd fun i => (clamp32 (f (y.laneI v.va i) (v.b y i))).1).noteSat b).next ∧
      s.Advanced (addStep a o f s) a := by
  intro y v hw
  exact ⟨_, vecStep_sets_registers h _ (fun x => x.setLanes v.vd fun i => (clamp32 (f (y.laneI v.va i) (v.b y i))).1)
    (congrArg Except.ok (if_neg (ne_true_of_eq_false hw))) (fun _ => Arr.setLanes_pc ..) fun _ => Arr.setLanes_image ..⟩

theorem addStep_pairs_becomes (h : s.AtInstr a o l k) (f : Int → Int → Int) :
    let y := s.arr a
    let v := vecOp y k
    v.w64 = true → ∃ b, s.ArrBecomes (addStep a o f s) a ((y.setPairs v.vd fun i => (v.clampPair (f (y.pairI v.va i) (v.b64 y i))).1).noteSat b).next ∧
      s.Advanced (addStep a o f s) a := by
  intro y v hw
  have hclamp : (if v.sub = 1 then clamp48 else clamp64) = v.clampPair := by
    funext z
    exact apply_ite (fun c : Int → Int × Bool => c z) ..
  let g (i : Nat) : Int × Bool := v.clampPair (f (y.pairI v.va i) (v.b64 y i))
  refine ⟨_, vecStep_sets_registers h ((List.range 64).any fun i => (g i).2) (fun x => x.setPairs v.vd fun i => (g i).1) ?_
    (fun _ => Arr.setPairs_pc ..) fun _ => Arr.setPairs_image ..⟩
  simp only [g, ← hclamp]
  exact congrArg Except.ok (if_pos hw)

/-- VADD and VSUB: the lanes of vd, or under w64 the pairs from vd, and no other register (R104, R105). -/
theorem addStep_sets (h : s.AtInstr a o l k) (f : Int → Int → Int) :
    let y := s.arr a
    let v := vecOp y k
    let t := addStep a o f s
    s.Advanced t a ∧ t = { s with arrs := t.arrs } ∧
      (v.w64 = false → ∀ i, i < 64 → (t.arr a).lane v.vd i = BitVec.ofInt 32 (clamp32 (f (y.laneI v.va i) (v.b y i))).1) ∧
      (v.w64 = true → ∀ i, i < 64 → (t.arr a).pairI v.vd i = (v.clampPair (f (y.pairI v.va i) (v.b64 y i))).1) ∧
      (∀ r i, r ≠ v.vd → (v.w64 = false ∨ r ≠ v.vd + 1) → i < 64 → (t.arr a).lane r i = y.lane r i) := by
  intro y v t
  cases hw : v.w64 with
  | false =>
    obtain ⟨b, hbec, hadv⟩ := addStep_lanes_becomes h f hw
    refine ⟨hadv, hbec.frame, fun _ i hi => ?_, nofun, fun r i hr _ hi => ?_⟩
    · rw [hbec.arr_self, Arr.lane_next, Arr.lane_noteSat, Arr.lane_setLanes_self _ _ _ hi]
    · rw [hbec.arr_self, Arr.lane_next, Arr.lane_noteSat, Arr.lane_setLanes_other _ _ _ hr hi]
  | true =>
    obtain ⟨b, hbec, hadv⟩ := addStep_pairs_becomes h f hw
    refine ⟨hadv, hbec.frame, nofun, fun _ i hi => ?_, fun r i hr hr' hi => ?_⟩
    · obtain ⟨hlo, hhi⟩ := v.clampPair_fst_mem (f (y.pairI v.va i) (v.b64 y i))
      rw [hbec.arr_self, Arr.pairI_next, Arr.pairI_noteSat, Arr.pairI_setPairs _ _ _ hi hlo hhi]
    · rw [hbec.arr_self, Arr.lane_next, Arr.lane_noteSat, Arr.lane_setPairs_other _ _ _ hr (hr'.resolve_left nofun) hi]

end Step

section Exec
variable {s : State} {a : ArrayIx} {l : ArrLaunch} {k : BitVec 256}

/-- VALIGN with agreeing copies of the shifter: an aligned value is within 48 bits, so its pair holds it (R74). -/
theorem exec_valign_sets (h : s.AtInstr a 0x2F l k) (hup : (s.arr a).upset.align = false) :
    let y := s.arr a
    let v := vecOp y k
    ∃ t, exec (.valign a) s = .next t ∧ s.Advanced t a ∧ t = { s with arrs := t.arrs } ∧
      ∀ i, i < 64 → (t.arr a).pairI v.vd i = (align (y.pairI v.va i) v.imm (v.b y 0)).1 := by
  intro y v
  obtain ⟨hbec, hadv⟩ := vecStep_sets_registers (f := fun v x s => if x.upset.align then settleChecks a ⟨0, 1⟩ s
    else .ok (pairStep a v (fun i => align (x.pairI v.va i) v.imm (v.b x 0)) s)) h _
    (fun x => x.setPairs v.vd fun i => (align (y.pairI v.va i) v.imm (v.b y 0)).1) (if_neg (ne_true_of_eq_false hup))
    (fun _ => Arr.setPairs_pc ..) fun _ => Arr.setPairs_image ..
  refine ⟨_, rfl, hadv, hbec.frame, fun i hi => ?_⟩
  obtain ⟨hlo, hhi⟩ := mem_64_of_mem_48 (align_fst_mem (y.pairI v.va i) v.imm (v.b y 0))
  exact (congrArg (fun x : Arr => x.pairI v.vd i) hbec.arr_self).trans
    ((Arr.pairI_noteSat ..).trans (Arr.pairI_setPairs _ _ _ hi hlo hhi))

/-! ### VLD -/

/-- Bits of an element of a VLD (Table Prog-11). -/
def VecOp.width (v : VecOp) : Nat := match v.sub with
  | 0 => 32
  | 1 => 4
  | 2 => 8
  | 3 => 16
  | _ => 64

theorem VecOp.width_of_four_le {v : VecOp} (h : 4 ≤ v.sub) : v.width = 64 := by
  unfold width
  split <;> omega

/-- The registers after a VLD of the bytes bs. -/
def VecOp.load (v : VecOp) (bs : List Byte) (y : Arr) : Arr :=
  let f (i : Nat) : Int := ((unpack v.width 64 bs)[i]?).getD 0
  if v.width = 64 then y.setPairs v.vd f else y.setLanes v.vd f

theorem VecOp.lane_load {v : VecOp} {w : Nat} (hv : v.width = w) (hw : w ≠ 64) (bs : List Byte) (y : Arr) {i : Nat} (hi : i < 64) :
    (v.load bs y).lane v.vd i = BitVec.ofInt 32 (signed w (ofBytes bs >>> (w * i))) := by
  simp only [load, hv, if_neg hw]
  rw [Arr.lane_setLanes_self _ _ _ hi, getElem?_unpack bs hi, Option.getD_some]

theorem VecOp.pairI_load {v : VecOp} (hv : v.width = 64) (bs : List Byte) (y : Arr) {i : Nat} (hi : i < 64) :
    (v.load bs y).pairI v.vd i = signed 64 (ofBytes bs >>> (64 * i)) := by
  obtain ⟨hlo, hhi⟩ := signed_64_mem (ofBytes bs >>> (64 * i))
  have helem : ((unpack 64 64 bs)[i]?).getD 0 = signed 64 (ofBytes bs >>> (64 * i)) := by rw [getElem?_unpack bs hi, Option.getD_some]
  simp only [load, hv, ↓reduceIte]
  rw [Arr.pairI_setPairs _ _ _ hi (helem ▸ hlo) (helem ▸ hhi), helem]

theorem exec_vld_becomes {bs : List Byte} (h : s.AtInstr a 0x20 l k) :
    let v := vecOp (s.arr a) k
    s.readBench a v.line (8 * v.width) = .ok bs → ∃ t, exec (.vld a) s = .next t ∧ s.ArrBecomes t a (v.load bs (s.arr a)).next ∧ s.Advanced t a := by
  intro v hbs
  have hkeep (y : Arr) : (v.load bs y).pc = y.pc ∧ (v.load bs y).image = y.image := by
    unfold VecOp.load
    dsimp only
    split
    case isTrue => exact ⟨Arr.setPairs_pc .., Arr.setPairs_image ..⟩
    case isFalse => exact ⟨Arr.setLanes_pc .., Arr.setLanes_image ..⟩
  have hwork : (benchIn s a v.line (8 * v.width) >>= fun bs => Except.ok (s.onArr a (v.load bs))) = Except.ok (s.onArr a (v.load bs)) := by
    rw [benchIn, hbs]
    rfl
  exact ⟨_, rfl, vecStep_sets_registers h false (v.load bs) hwork (fun y => (hkeep y).1) fun y => (hkeep y).2⟩

/-! ### Instructions that store -/

/-- Two states that each differ from the one before in benches and tiers differ in no more. -/
theorem bench_tier_frame_trans {t w : State} (hw : w = { s with bench := w.bench, tier := w.tier })
    (ht : t = { w with bench := t.bench, tier := t.tier }) :
    t = { s with bench := t.bench, tier := t.tier } := by
  rw [hw] at ht
  exact ht

/-- A state that differs in its arrays from one that differs in benches and tiers differs in all three. -/
theorem arrs_frame_trans {t w : State} (hw : w = { s with bench := w.bench, tier := w.tier }) (ht : t = { w with arrs := t.arrs }) :
    t = { s with arrs := t.arrs, bench := t.bench, tier := t.tier } := by
  rw [hw] at ht
  rw [ht]

/-- A vector instruction whose work writes the bench of its array and marks a saturation goes on with the bench that was written. -/
theorem vecStep_stores {o : Nat} {w : State} {f : VecOp → Arr → State → Except (State × Err) State} (h : s.AtInstr a o l k) (b : Bool)
    (hw : w = { s with bench := w.bench, tier := w.tier }) (hf : f (vecOp (s.arr a) k) (s.arr a) s = .ok (noteArrSat a b w)) :
    let t := vecStep a o f s
    s.Advanced t a ∧ t.bench = w.bench ∧ (t.arr a).satSeen = ((s.arr a).satSeen || b) ∧
      t = { s with arrs := t.arrs, bench := t.bench, tier := t.tier } := by
  have harrs : w.arrs = s.arrs := by rw [hw]
  have harr : w.arr a = s.arr a := by rw [State.arr, State.arr, harrs]
  obtain ⟨hbec, hadv⟩ := instrStep_of_ok (f := fun _ k s => f (vecOp (s.arr a) k) (s.arr a) s) h hf harrs
    ((State.ArrBecomes.refl w a).noteArrSat b) (by rw [Arr.noteSat_pc, harr]) (by rw [Arr.noteSat_image, harr])
  refine ⟨hadv, hbec.bench_eq, ?_, ?_⟩
  · exact (congrArg Arr.satSeen hbec.arr_self).trans (by rw [Arr.next_satSeen, Arr.noteSat_satSeen, harr])
  · exact arrs_frame_trans hw hbec.frame

/-- The bytes a VST stores: the 64 pairs from va under sub 4, else the 64 lanes of va. -/
def VecOp.stored (v : VecOp) (y : Arr) : List Byte :=
  if v.sub = 4 then pack 64 ((List.range 64).map (y.pairI v.va)) else pack 32 ((List.range 64).map (y.laneI v.va))

theorem VecOp.length_stored (v : VecOp) (y : Arr) : (v.stored y).length = if v.sub = 4 then 512 else 256 := by
  unfold stored
  split <;> rw [length_pack, List.length_map, List.length_range]

theorem VecOp.stored_of_sub_ne {v : VecOp} (h : v.sub ≠ 4) (y : Arr) : v.stored y = pack 32 ((List.range 64).map (y.laneI v.va)) := if_neg h

/-- VST stores its bytes; where they fit in the bench they lie from its line. -/
theorem exec_vst_stores (h : s.AtInstr a 0x21 l k) :
    let v := vecOp (s.arr a) k
    ∃ t, exec (.vst a) s = .next t ∧ s.Advanced t a ∧ t = { s with arrs := t.arrs, bench := t.bench, tier := t.tier } ∧
      (v.line + 512 ≤ 2 ^ 18 → t.bench = memWrite s.bench (a.val * 2 ^ 18 + v.line) (v.stored (s.arr a))) := by
  intro v
  obtain ⟨hadv, hbench, -, hframe⟩ := vecStep_stores (f := fun v y s => .ok (s.writeBench a v.line (v.stored y))) h false
    (writeBench_frame s a v.line _) rfl
  refine ⟨_, rfl, hadv, hframe, fun hline => ?_⟩
  have hlen : (v.stored (s.arr a)).length ≤ 512 := by
    rw [VecOp.length_stored]
    split <;> decide
  have hfits : v.line + (v.stored (s.arr a)).length ≤ 2 ^ 18 := Nat.le_trans (Nat.add_le_add_left hlen _) hline
  exact hbench.trans (bench_writeBench (by omega) hfits)

/-- The result of the requantizer on the block a VREQ names (R77). -/
def VecOp.requant (v : VecOp) (y : Arr) : Requant :=
  requantize ((List.range 32).map fun i => if v.w64 then y.pairI v.va i else y.laneI v.va i) v.imm (elemBits v.sub) (v.rounding y)

/-- What a VREQ stores: the elements at its line, then the scale byte. -/
def VecOp.storeRequant (v : VecOp) (a : Nat) (y : Arr) (s : State) : State :=
  (s.writeBench a v.line (pack (elemBits v.sub) (v.requant y).q)).writeBench a v.scale [scale8Byte (v.requant y).e]

theorem storeRequant_frame (v : VecOp) (a : Nat) (y : Arr) (s : State) :
    v.storeRequant a y s = { s with bench := (v.storeRequant a y s).bench, tier := (v.storeRequant a y s).tier } :=
  bench_tier_frame_trans (writeBench_frame ..) (writeBench_frame ..)

theorem vecOp_scale_lt (y : Arr) (k : BitVec 256) : (vecOp y k).scale < 2 ^ 18 := Nat.mod_lt _ (by decide)

theorem memGet_storeRequant_scale {v : VecOp} (hv : v.scale < 2 ^ 18) (a : Nat) (y : Arr) (s : State) :
    memGet (v.storeRequant a y s).bench (a * 2 ^ 18 + v.scale) = scale8Byte (v.requant y).e := by
  rw [VecOp.storeRequant, bench_writeBench hv (by rw [List.length_singleton]; exact hv), memGet_memWrite_singleton]

/-- VREQ with agreeing copies of the requantizer stores its result and marks its saturation. -/
theorem exec_vreq_stores (h : s.AtInstr a 0x34 l k) (hup : (s.arr a).upset.requant = false) :
    let v := vecOp (s.arr a) k
    let r := v.requant (s.arr a)
    ∃ t, exec (.vreq a) s = .next t ∧ s.Advanced t a ∧ memGet t.bench (a.val * 2 ^ 18 + v.scale) = scale8Byte r.e ∧
      (t.arr a).satSeen = ((s.arr a).satSeen || r.sat) ∧ t = { s with arrs := t.arrs, bench := t.bench, tier := t.tier } := by
  intro v r
  obtain ⟨hadv, hbench, hsat, hframe⟩ := vecStep_stores
    (f := fun v y s => if y.upset.requant then settleChecks a ⟨0, 1⟩ s else .ok (noteArrSat a (v.requant y).sat (v.storeRequant a y s)))
    h r.sat (storeRequant_frame v a (s.arr a) s) (if_neg (ne_true_of_eq_false hup))
  refine ⟨_, rfl, hadv, ?_, hsat, hframe⟩
  exact (congrArg (memGet · _) hbench).trans (memGet_storeRequant_scale (vecOp_scale_lt ..) a (s.arr a) s)

/-! ### Copies that differ (R83, R84) -/

/-- Failed checks of duplicated copies stop the array with INTEGRITY. -/
theorem vecStep_integrity {o : Nat} {f : VecOp → Arr → State → Except (State × Err) State} (h : s.AtInstr a o l k)
    (hf : f (vecOp (s.arr a) k) (s.arr a) s = settleChecks a ⟨0, 1⟩ s) :
    vecStep a o f s = stopArray a l (integrity 1 3 a) (noteChecks a ⟨0, 1⟩ s) :=
  instrStep_of_error (f := fun _ k s => f (vecOp (s.arr a) k) (s.arr a) s) h hf

theorem exec_valign_stops (h : s.AtInstr a 0x2F l k) (hup : (s.arr a).upset.align = true) :
    exec (.valign a) s = .next (stopArray a l (integrity 1 3 a) (noteChecks a ⟨0, 1⟩ s)) :=
  congrArg Host.Outcome.next (vecStep_integrity h (if_pos hup))

theorem exec_vreq_stops (h : s.AtInstr a 0x34 l k) (hup : (s.arr a).upset.requant = true) :
    exec (.vreq a) s = .next (stopArray a l (integrity 1 3 a) (noteChecks a ⟨0, 1⟩ s)) :=
  congrArg Host.Outcome.next (vecStep_integrity h (if_pos hup))

end Exec

/-! ### The statement settled -/

/-- Settles O15: a lane instruction, saturating or not, is one satStep; the other vector instructions each set registers, store bytes, or stop. -/
theorem vectorInstructions : Obligations.VectorInstructions := by
  unfold Obligations.VectorInstructions
  refine ⟨fun a s o l k x f hmem h => ?_, fun a s o l k h => ⟨fun x f hmem => ?_, ?_, ?_, ?_, ?_, ?_, ?_⟩⟩
  · have hexec : exec x s = .next (satStep a o f s) := by
      simp only [List.mem_cons, Prod.mk.injEq, List.not_mem_nil, or_false] at hmem
      rcases hmem with ⟨rfl, rfl, rfl⟩ | ⟨rfl, rfl, rfl⟩ | ⟨rfl, rfl, rfl⟩ | ⟨rfl, rfl, rfl⟩ | ⟨rfl, rfl, rfl⟩ | ⟨rfl, rfl, rfl⟩ | ⟨rfl, rfl, rfl⟩ |
        ⟨rfl, rfl, rfl⟩ | ⟨rfl, rfl, rfl⟩ | ⟨rfl, rfl, rfl⟩ | ⟨rfl, rfl, rfl⟩ | ⟨rfl, rfl, rfl⟩ | ⟨rfl, rfl, rfl⟩ | ⟨rfl, rfl, rfl⟩ | ⟨rfl, rfl, rfl⟩ |
        ⟨rfl, rfl, rfl⟩
      · exact exec_of_laneStep rfl
      · exact exec_of_laneStep rfl
      · exact exec_vcmp a s
      · exact exec_vsel a s
      · exact exec_of_laneStep rfl
      · exact exec_of_laneStep rfl
      · exact exec_of_laneStep rfl
      · exact exec_of_laneStep rfl
      · rfl
      · rfl
      · exact exec_of_laneStep rfl
      · exact exec_of_laneStep rfl
      · rfl
      · rfl
      · exact exec_of_laneStep rfl
      · exact exec_of_laneStep rfl
    exact ⟨_, hexec, satStep_sets h f⟩
  · have hexec : exec x s = .next (addStep a o f s) := by
      simp only [List.mem_cons, Prod.mk.injEq, List.not_mem_nil, or_false] at hmem
      rcases hmem with ⟨rfl, rfl, rfl⟩ | ⟨rfl, rfl, rfl⟩ <;> rfl
    obtain ⟨hadv, hframe, hlanes, hpairs, hother⟩ := addStep_sets h f
    refine ⟨_, hexec, hadv, hframe, hlanes, fun hw i hi => ?_, hother⟩
    rw [hpairs hw i hi, VecOp.clampPair]
  · rintro rfl hup
    exact exec_valign_sets h hup
  · rintro rfl bs hbs
    obtain ⟨t, hexec, hbec, hadv⟩ := exec_vld_becomes h hbs
    refine ⟨t, hexec, hadv, hbec.frame, ?_, ?_, ?_, ?_, ?_⟩
    all_goals
      intro hsub i hi
      rw [hbec.arr_self]
    case refine_5 => exact VecOp.pairI_load (VecOp.width_of_four_le hsub) bs _ hi
    all_goals exact VecOp.lane_load (by simp only [VecOp.width, hsub]) (by decide) bs _ hi
  · rintro rfl
    obtain ⟨t, hexec, hadv, hframe, hbench⟩ := exec_vst_stores h
    refine ⟨t, hexec, hadv, hframe, fun hline hsub i hi => ?_, fun hline j hj => ?_⟩
    · have hin : i < ((vecOp (s.arr a) k).stored (s.arr a)).length := by rw [VecOp.length_stored, if_neg hsub]; exact hi
      rw [← VecOp.stored_of_sub_ne hsub, List.getElem?_eq_getElem hin, Option.getD_some, hbench hline]
      exact memGet_memWrite_inside _ _ _ _ hin
    · rw [hbench hline]
      exact memGet_memWrite_outside (VecOp.length_stored (vecOp (s.arr a) k) (s.arr a) ▸ hj)
  · rintro rfl hup
    exact exec_valign_stops h hup
  · rintro rfl hup
    exact exec_vreq_stops h hup
  · rintro rfl hup
    exact exec_vreq_stores h hup

end Sys2Proof.Machine
end

section
/-! The statement of chapter 6 on the Plane commands (R152 to R155) meets the bay rule of R371: a command whose Loft bay was changed after its grant loses its
writes there, so it ends OK and leaves nothing at its destination. No premise of the statement says that the bays of the command's destinations stand. -/

namespace Sys2Proof.Machine

/-- The kind, the numbers and the addresses of a Plane parameter block: data whose equality is decided. -/
def PlaneOp.fields (o : PlaneOp) : PlaneKind × List Nat × List Addr :=
  (o.kind, [o.w, o.k, o.rows], [o.srcEl, o.srcSc, o.dstEl, o.dstSc, o.mask])

theorem PlaneOp.fields_injective {o q : PlaneOp} (h : o.fields = q.fields) : o = q := by
  cases o
  cases q
  simp only [PlaneOp.fields, Prod.mk.injEq, List.cons.injEq, and_true] at h
  obtain ⟨hkind, ⟨hw, hk, hrows⟩, hsrcEl, hsrcSc, hdstEl, hdstSc, hmask⟩ := h
  rw [hkind, hw, hk, hrows, hsrcEl, hsrcSc, hdstEl, hdstSc, hmask]

/-- A computation that answers a value succeeds with it. -/
theorem eq_ok_of_toOption {ε α : Type} {x : Except ε α} {a : α} (h : x.toOption = some a) : x = .ok a := by
  cases x with
  | error e => exact nomatch h
  | ok b => exact congrArg Except.ok (Option.some.inj h)

/-- A parameter block is read as o when its fields are those of o. -/
theorem planeOp_eq_of_fields {c : CmdRef} {p : Nat} {kind : PlaneKind} {k : Block} {s : State} {o : PlaneOp}
    (h : (planeOp c p kind k s).toOption.map PlaneOp.fields = some o.fields) : planeOp c p kind k s = .ok o := by
  obtain ⟨q, hq, hfields⟩ := Option.map_eq_some_iff.1 h
  rw [← PlaneOp.fields_injective hfields]
  exact eq_ok_of_toOption hq

/-! ### A PLANE_PRUNE whose destination bay is gone -/

namespace LostPrune

/-- The only command of queue 0. -/
def cmd : CmdRef := ⟨0, 0⟩

/-- A PLANE_PRUNE with its parameter block at 2^24. -/
def granted : InFlight := { slot := 0, pkt := BitVec.ofNat 512 (layout [(0, 2, 0x02F0), (32, 8, 2 ^ 24)]) }

/-- Its parameter block as it is read: one block of 4-bit elements. Source and scale lie in bay 1, the destinations in bay 0. -/
def params : PlaneOp :=
  { kind := .prune, w := 4, k := 32, rows := 1, srcEl := ⟨false, 2 ^ 24 + 64⟩, srcSc := ⟨false, 2 ^ 24 + 128⟩,
    dstEl := ⟨false, 0⟩, dstSc := ⟨false, 64⟩, mask := ⟨false, 0⟩ }

/-- The command is granted. Loft bays 0 and 1 are SCRATCH bays of partition 0, which has queue 0. Bay 1 holds the parameter block and, at 2^24 + 128, the scale of
a zero block. -/
def atGrant : State :=
  { csr := [(0x03000000, 0x3), (0x03000008, 0x3), (0x12000000, 0x1), (0x12000400, 0x0000001000000000)],
    cmd := { wq := [(0, { inflight := [granted] })] },
    loft := memWrite [(2 ^ 24 + 128, 0x80)] (2 ^ 24)
      (toBytes 64 (layout [(0, 1, 1), (4, 3, 32), (8, 3, 1), (16, 8, 2 ^ 24 + 64), (24, 8, 2 ^ 24 + 128), (32, 8, 0), (40, 8, 64)])) }

/-- The PF has made bay 0 a CACHE bay and a SCRATCH bay of the partition again, and its reconfiguration is done (R371). -/
def start : State :=
  (writeBayCfg 0 0 0x3 (writeBayCfg 0 0 0x1 atGrant)).onTier fun t => { t with bayBusy := del t.bayBusy 0 }

theorem start_cmdPart : start.cmdPart cmd = 0 := by decide +kernel

/-- The command has not begun, and bay 0, the first 16 MiB of its Loft space, is gone for it. -/
theorem start_ready : start.ready cmd 0x02F0 = some { granted with gone := [0] } := by decide +kernel

theorem start_planes : start.planes = [] := by decide +kernel

theorem planeOp_start : planeOp cmd 0 .prune granted.pkt start = .ok params := planeOp_eq_of_fields (by decide +kernel)

theorem cmdRead_source : cmdRead cmd 0 params.srcEl params.srcBlock start = .ok (List.replicate 16 0) :=
  eq_ok_of_toOption (by decide +kernel)

theorem cmdRead_scale : cmdRead cmd 0 params.srcSc 1 start = .ok [0x80] := eq_ok_of_toOption (by decide +kernel)

/-- The block has the zero-block code, so its function makes the compressed zero block and that code (R141). -/
theorem planeBlock_source : planeBlock params 0 (List.replicate 16 0) [] 0x80 = some (sparseZero 4, 0x80) := rfl

theorem blocks_readable_writable : ∀ n, n < params.total →
    (cmdRead cmd 0 (params.srcEl.plus (n * params.srcBlock)) params.srcBlock start).isOk = true ∧
    (cmdRead cmd 0 (params.srcSc.plus n) 1 start).isOk = true ∧
    start.writeFault 0 params.dstEl.tiered (params.dstEl.a + n * params.dstBlock) params.dstBlock = none ∧
    start.writeFault 0 params.dstSc.tiered (params.dstSc.a + n) 1 = none := by decide +kernel

/-- The scale of the block was not written: its bay is gone. -/
theorem byteAt_scale_after : (planeCmd cmd 0x02F0 .prune start).byteAt 0 false params.dstSc.a = 0 := by decide +kernel

end LostPrune

open LostPrune

/-- Refutes O17: a PLANE_PRUNE of a zero block, whose destination bay was changed after its grant, meets every premise. It ends OK, its writes to bay 0 are lost
(R371), and its destination's scale reads 0 where the statement asks for the zero-block code 0x80. -/
theorem not_planeCommandsComplete : ¬ Obligations.PlaneCommandsComplete := by
  unfold Obligations.PlaneCommandsComplete
  intro h
  have hprune := h cmd start _ 0x02F0 (.planePrune cmd) .prune params (.head _) start_ready
  simp only [start_cmdPart] at hprune
  obtain ⟨t, hexec, -, -, -, hleaves⟩ := hprune planeOp_start (fun _ => by rw [start_planes]; rfl)
    (fun n hn =>
      have ⟨hsrc, hsc, hel, he8⟩ := blocks_readable_writable n hn
      ⟨hsrc, hsc, nofun, hel, he8, nofun, nofun⟩) nofun nofun
  obtain ⟨-, -, hscale⟩ := hleaves (List.replicate 16 0) 0x80 [] (sparseZero 4) 0x80 rfl rfl rfl rfl cmdRead_source cmdRead_scale nofun planeBlock_source
  obtain rfl : planeCmd cmd 0x02F0 .prune start = t := Host.Outcome.next.inj hexec
  rw [byteAt_scale_after] at hscale
  exact absurd hscale (by decide)

end Sys2Proof.Machine
end

section
/-! The end of a command as a frame: what a write, an event record and a torn mark leave of the state, and from it what `endCmd` and a command of one piece change. -/

namespace Sys2Proof.Machine

/-! ### What writes to memory and event records leave -/

/-- The state without the memories, their bookkeeping (torn marks and read entries), the fault state and what the host sees of an event. -/
def State.sansWrites (s : State) : State :=
  let z := State.reset
  { s with loft := z.loft, hbm := z.hbm, bench := z.bench, tier := z.tier, rem := z.rem, flt := z.flt, host := z.host, out := z.out }

/-- States that agree but for writes have the same Dovetail. -/
theorem State.dvt_eq_of_sansWrites {s t : State} (h : t.sansWrites = s.sansWrites) : t.dvt = s.dvt := congrArg (·.dvt) h

@[simp] theorem setMem_sansWrites (s : State) (sp : Space) (m : Mem) : (s.setMem sp m).sansWrites = s.sansWrites := by cases sp <;> rfl

@[simp] theorem clearPoison_sansWrites (s : State) (sp : Space) (g : Nat) : (s.clearPoison sp g).sansWrites = s.sansWrites := by cases sp <;> rfl

@[simp] theorem closeReads_sansWrites (s : State) (sp : Space) (g : Nat) : (s.closeReads sp g).sansWrites = s.sansWrites := rfl

@[simp] theorem noteWrite_sansWrites (s : State) (p : Nat) (b : Bool) (a : Nat) (src : Option (BitVec 20)) :
    (s.noteWrite p b a src).sansWrites = s.sansWrites := by
  unfold State.noteWrite
  split
  · rfl
  · split <;> rfl

theorem writeGranule_sansWrites {s t : State} {p : Nat} {b : Bool} {a : Nat} {bs : List Byte} {src : Option (BitVec 20)}
    (h : s.writeGranule p b a bs src = .ok t) : t.sansWrites = s.sansWrites := by
  unfold State.writeGranule at h
  split at h
  · exact nomatch h
  · obtain rfl := Except.ok.inj h
    simp only [noteWrite_sansWrites, closeReads_sansWrites]
    split <;> simp

@[simp] theorem writeSome_sansWrites (s : State) (p : Nat) (b : Bool) (a : Nat) (bs : List Byte) (src : Option (BitVec 20)) (n : Nat) :
    (s.writeSome p b a bs src n).1.sansWrites = s.sansWrites := by
  induction n generalizing s a bs with
  | zero => rfl
  | succ n ih =>
    unfold State.writeSome
    split
    · rfl
    · dsimp only
      split
      · rfl
      · exact (ih ..).trans (writeGranule_sansWrites ‹_›)

@[simp] theorem write_sansWrites (s : State) (p : Nat) (b : Bool) (a : Nat) (bs : List Byte) : (s.write p b a bs).sansWrites = s.sansWrites :=
  writeSome_sansWrites ..

@[simp] theorem msix_sansWrites (fn v : Nat) (s : State) : (msix fn v s).sansWrites = s.sansWrites := by
  unfold msix
  dsimp only
  split
  · rfl
  · split <;> rfl

@[simp] theorem noteClass0_sansWrites (e : Event) (s : State) : (noteClass0 e s).sansWrites = s.sansWrites := by unfold noteClass0; split <;> rfl

@[simp] theorem writeEvent_sansWrites (e : Event) (p : Nat) (s : State) : (writeEvent e p s).sansWrites = s.sansWrites := by
  have count (u : State) (f : FltState) : ({ u with flt := f } : State).sansWrites = u.sansWrites := rfl
  unfold writeEvent
  dsimp only
  split <;> simp only [msix_sansWrites, count, write_sansWrites]

@[simp] theorem ringEvent_sansWrites (e : Event) (s : State) : (ringEvent e s).sansWrites = s.sansWrites := by
  unfold ringEvent
  dsimp only
  split
  · rfl
  · split
    · rfl
    · split
      · rfl
      · exact writeEvent_sansWrites ..

@[simp] theorem appendEvent_sansWrites (e : Event) (s : State) : (appendEvent e s).sansWrites = s.sansWrites := by
  unfold appendEvent
  split
  · rfl
  · simp

/-! ### Torn marks -/

/-- A fold whose every step changes the memory tiers alone does the same. -/
theorem foldl_onTier {α : Type} {f : State → α → State} (hf : ∀ s x, ∃ m, f s x = { s with tier := m }) (xs : List α) (s : State) :
    ∃ m, xs.foldl f s = { s with tier := m } := by
  induction xs generalizing s with
  | nil => exact ⟨s.tier, rfl⟩
  | cons x r ih =>
    obtain ⟨m, hm⟩ := hf s x
    obtain ⟨m', hm'⟩ := ih (f s x)
    exact ⟨m', by rw [List.foldl_cons, hm', hm]⟩

/-- Marking planks torn changes the memory tiers alone. -/
theorem tear_frame (s : State) (xs : List Extent) : ∃ m, s.tear xs = { s with tier := m } := by
  refine foldl_onTier (fun s x => ?_) xs s
  unfold State.tearByte
  split
  · exact ⟨s.tier, rfl⟩
  · split
    · exact ⟨s.tier, rfl⟩
    · exact ⟨_, rfl⟩
  · split
    · exact ⟨s.tier, rfl⟩
    · split
      · exact ⟨s.tier, rfl⟩
      · exact ⟨_, rfl⟩

/-- Clearing torn marks changes the memory tiers alone. -/
theorem mend_frame (s : State) (xs : List Extent) : ∃ m, s.mend xs = { s with tier := m } := by
  refine foldl_onTier (fun s x => ?_) xs s
  unfold mendOne
  split
  · exact ⟨s.tier, rfl⟩
  · split
    · exact ⟨_, rfl⟩
    · exact ⟨s.tier, rfl⟩
  · split
    · split
      · exact ⟨_, rfl⟩
      · exact ⟨s.tier, rfl⟩
    · exact ⟨s.tier, rfl⟩

/-! ### The end of a command -/

/-- Ending a command leaves the Dovetail. -/
@[simp] theorem endCmd_dvt (c : CmdRef) (st : Status) (result det : Nat) (s : State) : (endCmd c st result det s).dvt = s.dvt := by
  have heff (i : InFlight) : (endEffects c i st det s).dvt = s.dvt := by
    unfold endEffects
    split
    · obtain ⟨m, hm⟩ := tear_frame s i.wrote
      rw [hm]
      exact State.dvt_eq_of_sansWrites (appendEvent_sansWrites _ _)
    · split
      · exact State.dvt_eq_of_sansWrites (appendEvent_sansWrites _ _)
      · split
        · obtain ⟨m, hm⟩ := mend_frame s i.wrote
          rw [hm]
        · rfl
  unfold endCmd
  split
  · rfl
  · exact heff _

/-- A command that ends OK changes its queue, and of the memory tiers the torn marks of the planks it wrote. -/
theorem endCmd_ok_frame (c : CmdRef) (result det : Nat) (s : State) :
    endCmd c .ok result det s = { s with cmd := (endCmd c .ok result det s).cmd, tier := (endCmd c .ok result det s).tier } := by
  unfold endCmd
  split
  · rfl
  · rename_i i _
    obtain ⟨m, hm⟩ := mend_frame s i.wrote
    have heff : endEffects c i .ok det s = { s with tier := m } := hm
    rw [heff]
    rfl

@[simp] theorem noteTorn_dvt (c : CmdRef) (b : Bool) (s : State) : (noteTorn c b s).dvt = s.dvt := by cases b <;> rfl

/-- Noting a torn plank changes the queues alone. -/
theorem noteTorn_frame (c : CmdRef) (b : Bool) (s : State) : noteTorn c b s = { s with cmd := (noteTorn c b s).cmd } := by cases b <;> rfl

/-! ### Commands of one piece that change the Dovetail -/

/-- A command of one piece whose body succeeds and changes the Dovetail alone ends OK with its result; beside the Dovetail its queue changes, and the torn
marks of the planks that it wrote. -/
theorem wholeCmd_ok_dvt {s u : State} {c : CmdRef} {o : Nat} {f : Block → Nat → State → Except Err Done} {i : InFlight} {n : Nat}
    (h : s.ready c o = some i) (hu : u = { s with dvt := u.dvt }) (hf : f i.pkt (s.cmdPart c) s = .ok { s := u, result := n }) :
    ∃ t, (.next (wholeCmd c o f s) : Host.Outcome State Fault Refusal) = .next t ∧ t.Ended c .ok n 0 ∧
      t = { s with cmd := t.cmd, tier := t.tier, dvt := t.dvt } ∧ t.dvt = u.dvt := by
  refine ⟨_, rfl, ?_⟩
  rw [wholeCmd_ok h hf]
  dsimp only
  generalize s.paramTorn (s.cmdPart c) i.pkt = b
  refine ⟨?_, ?_, by rw [endCmd_dvt, noteTorn_dvt]⟩
  · have hi : u.inflight c = some i := by rw [hu]; exact (State.ready_inflight h).1
    exact endCmd_ended (by rw [noteTorn_inflight, hi]; rfl) .ok n 0
  · rw [endCmd_ok_frame, noteTorn_frame, hu]

/-! ### Checks that pass -/

/-- A check that finds no fault passes. -/
theorem guardE_of_eq_false {b : Bool} (h : b = false) (e : Err) : guardE b e = .ok () := by rw [h]; rfl

/-- A check that a condition holds passes where it does. -/
theorem guardE_not_of_eq_true {b : Bool} (h : b = true) (e : Err) : guardE (!b) e = .ok () := by rw [h]; rfl

/-- A computation that succeeds goes on with its value. -/
theorem bind_of_eq_ok {ε α β : Type} {x : Except ε α} {a : α} (h : x = .ok a) (f : α → Except ε β) : (x >>= f) = f a := by rw [h]; rfl

end Sys2Proof.Machine
end

section
/-! The statement of chapters 7 to 9 on the Dovetail's tables, plans, availability, layouts and windows (R160, R162, R181, R187, R203 to R208, R215): for each
command what it makes of the Dovetail where its checks pass, and the statement settled from the one entry that it replaces. -/

namespace Sys2Proof.Machine

/-! ### Tables, plans and availability -/

section Tables
variable {c : CmdRef} {s : State} {i : InFlight} {bs : List Byte}

/-- A DVT_LAYER_LOAD whose record passes its checks ends OK with the record as the layer's entry (R160). -/
theorem exec_dvtLayerLoad_ok (h : s.ready c 0x0400 = some i) (hl : s.inRange (s.cmdPart c) 2 (cmdLayer i.pkt) = true)
    (hbs : cmdBlock c (s.cmdPart c) (addr154 (op i.pkt 40 8)) 64 8 0 layerRsv (layerCheck (s.cmdPart c) s) s = .ok bs)
    (ht : s.inRange (s.cmdPart c) 3 (LayerEntry.mk (toBlock bs)).tableIx = true) :
    ∃ t, exec (.dvtLayerLoad c) s = .next t ∧ t.Ended c .ok 0 0 ∧ t = { s with cmd := t.cmd, tier := t.tier, dvt := t.dvt } ∧
      t.dvt = { s.dvt with layers := put s.dvt.layers (cmdLayer i.pkt) (toBlock bs) } := by
  refine wholeCmd_ok_dvt (u := s.onDvt fun d => { d with layers := put d.layers (cmdLayer i.pkt) (toBlock bs) }) h rfl ?_
  exact bind_of_eq_ok (guardE_not_of_eq_true hl _) _ |>.trans (bind_of_eq_ok hbs _ |>.trans (bind_of_eq_ok (guardE_not_of_eq_true ht _) _))

/-- A DVT_TABLE_LOAD whose image has no fault ends OK with the image as the table (R162). -/
theorem exec_dvtTableLoad_ok (h : s.ready c 0x0401 = some i) (hn : s.inRange (s.cmdPart c) 3 (op i.pkt 32 1 % 4) = true)
    (hbs : cmdRead c (s.cmdPart c) (addr154 (op i.pkt 40 8)) 2048 s = .ok bs) (ht : tableFault (tableImage bs) = none) :
    ∃ t, exec (.dvtTableLoad c) s = .next t ∧ t.Ended c .ok 0 0 ∧ t = { s with cmd := t.cmd, tier := t.tier, dvt := t.dvt } ∧
      t.dvt = { s.dvt with tables := put s.dvt.tables (op i.pkt 32 1 % 4) (tableImage bs) } := by
  refine wholeCmd_ok_dvt (u := s.onDvt fun d => { d with tables := put d.tables (op i.pkt 32 1 % 4) (tableImage bs) }) h rfl ?_
  refine bind_of_eq_ok (guardE_not_of_eq_true hn _) _ |>.trans (bind_of_eq_ok hbs _ |>.trans ?_)
  rw [ht]

/-- A DVT_PLAN_LOAD whose header and words pass their checks and that fits the plan store ends OK with the plan in force for the layer (R181, R184, R185). -/
theorem exec_dvtPlanLoad_ok {ws : List Nat} (h : s.ready c 0x0410 = some i) (hl : s.inRange (s.cmdPart c) 2 (cmdLayer i.pkt) = true)
    (hbs : cmdBlock c (s.cmdPart c) (addr154 (op i.pkt 40 8)) 64 0x0B 0 planRsv (planVals (cmdLayer i.pkt) (s.layer (cmdLayer i.pkt))) s = .ok bs)
    (hws : readWords c (s.cmdPart c) (addrIn bs 16) (le bs 6 2 % 2 ^ 15) s = .ok ws) (hw : planWordFault ws = none)
    (hfit : s.planKib (s.cmdPart c) (cmdLayer i.pkt) + storeKib (le bs 6 2 % 2 ^ 15) ≤ s.rangeCount (s.cmdPart c) 4) :
    ∃ t, exec (.dvtPlanLoad c) s = .next t ∧ t.Ended c .ok 0 0 ∧ t = { s with cmd := t.cmd, tier := t.tier, dvt := t.dvt } ∧
      t.dvt = { s.dvt with plans := put s.dvt.plans (cmdLayer i.pkt) ⟨toBlock bs, BitVec.ofNat 16 (le bs 4 2), ws⟩ } := by
  refine wholeCmd_ok_dvt
    (u := s.onDvt fun d => { d with plans := put d.plans (cmdLayer i.pkt) ⟨toBlock bs, BitVec.ofNat 16 (le bs 4 2), ws⟩ }) h rfl ?_
  refine bind_of_eq_ok (guardE_not_of_eq_true hl _) _ |>.trans (bind_of_eq_ok hbs _ |>.trans (bind_of_eq_ok hws _ |>.trans ?_))
  rw [hw]
  exact bind_of_eq_ok (guardE_of_eq_false (decide_eq_false (Nat.not_lt.2 hfit)) _) _

/-- The availability that an update leaves: a bit pattern of 0 is not listed, and any other is. -/
theorem getD_putAvail (m : Map (BitVec 5)) (k j : Nat) (v : BitVec 5) :
    getD (if v = 0 then del m k else put m k v) j 0 = if j = k then v else getD m j 0 := by
  by_cases hv : v = 0
  · rw [if_pos hv]
    by_cases hj : j = k
    · rw [hj, getD_del_self, if_pos rfl, hv]
    · rw [getD_del_other _ _ hj, if_neg hj]
  · rw [if_neg hv, getD_put]

/-- A DVT_AVAIL_SET on a layer of its partition ends OK with the old bits as its result and the new ones in force (R187). -/
theorem exec_dvtAvailSet_ok (h : s.ready c 0x0411 = some i) (hl : s.inRange (s.cmdPart c) 2 (cmdLayer i.pkt) = true) :
    let key := availKey (cmdLayer i.pkt) (op i.pkt 34 2 % 2 ^ 14)
    let new := availNew (op i.pkt 36 1 / 32 % 4) (getD s.dvt.avail key 0) (BitVec.ofNat 5 (op i.pkt 36 1))
    ∃ t, exec (.dvtAvailSet c) s = .next t ∧ t.Ended c .ok (getD s.dvt.avail key 0).toNat 0 ∧
      t = { s with cmd := t.cmd, tier := t.tier, dvt := t.dvt } ∧
      t.dvt = { s.dvt with avail := if new = 0 then del s.dvt.avail key else put s.dvt.avail key new } := by
  intro key new
  refine wholeCmd_ok_dvt (u := s.onDvt fun d => { d with avail := if new = 0 then del d.avail key else put d.avail key new }) h rfl ?_
  exact bind_of_eq_ok (guardE_not_of_eq_true hl _) _

end Tables

/-! ### Layouts and windows -/

section Layouts
variable {c : CmdRef} {s : State} {i : InFlight} {bs : List Byte}

/-- The layout tables are the Dovetail's. -/
theorem State.layout_congr {s t : State} (h : t.dvt = s.dvt) (p : Nat) : t.layout p = s.layout p := by rw [State.layout, State.layout, h]

@[simp] theorem layout_updLayout (p : Nat) (f : Layout → Layout) (s : State) : (updLayout p f s).layout p = f (s.layout p) := getD_upd_self ..

theorem layout_updLayout_other {p q : Nat} (h : q ≠ p) (f : Layout → Layout) (s : State) : (updLayout p f s).layout q = s.layout q :=
  getD_upd_other _ _ _ _ h

/-- A DVT_LAYOUT_LOAD whose record passes its checks and that fits the layout store ends OK with the layer staged (R203 to R205). -/
theorem exec_dvtLayoutLoad_ok {r : LayerEntry} {ws : List Nat} (h : s.ready c 0x0420 = some i)
    (hbs : cmdBlock c (s.cmdPart c) (addr154 (op i.pkt 32 8)) 64 0x0D 0 layoutRsv layoutVals s = .ok bs)
    (hl : s.inRange (s.cmdPart c) 2 (le bs 2 2 % 2 ^ 10) = true) (hr : s.layer (le bs 2 2 % 2 ^ 10) = some r) (he : le bs 4 2 % 2 ^ 15 = r.experts)
    (hws : readWords c (s.cmdPart c) (addrIn bs 8) (le bs 4 2 % 2 ^ 15) s = .ok ws) (hw : planWordFault ws = none)
    (hfit : s.layoutKib (s.cmdPart c) (le bs 2 2 % 2 ^ 10) + storeKib (le bs 4 2 % 2 ^ 15) ≤ s.rangeCount (s.cmdPart c) 5) :
    ∃ t, exec (.dvtLayoutLoad c) s = .next t ∧ t.Ended c .ok 0 0 ∧ t = { s with cmd := t.cmd, tier := t.tier, dvt := t.dvt } ∧
      t.dvt = (updLayout (s.cmdPart c) (fun x => { x with staged := put x.staged (le bs 2 2 % 2 ^ 10) ws }) s).dvt := by
  refine wholeCmd_ok_dvt h rfl ?_
  refine bind_of_eq_ok hbs _ |>.trans (bind_of_eq_ok (guardE_not_of_eq_true hl _) _ |>.trans ?_)
  rw [hr]
  refine bind_of_eq_ok (guardE_of_eq_false (bne_eq_false_iff_eq.2 he) _) _ |>.trans (bind_of_eq_ok hws _ |>.trans ?_)
  rw [hw]
  exact bind_of_eq_ok (guardE_of_eq_false (decide_eq_false (Nat.not_lt.2 hfit)) _) _

/-- The layout tables that a switch to an epoch leaves: the staged layers current, the ones they replace kept, and a grace list until its time has passed. -/
def Layout.switched (x : Layout) (e : W16) (g : List (Nat × Nat)) (graceEnd : Nat) : Layout :=
  { current := x.next, epoch := e, staged := [], previous := x.current.filter fun l => (find? x.staged l.1).isSome,
    prevEpoch := some x.epoch, grace := g, graceEnd := graceEnd }

/-- A DVT_LAYOUT_SWITCH to a newer epoch whose grace list passes its checks ends OK with the old epoch (R206, R208). -/
theorem exec_dvtLayoutSwitch_ok {g : List (Nat × Nat)} (h : s.ready c 0x0421 = some i)
    (he : newer (BitVec.ofNat 16 (op i.pkt 32 2)) (s.layout (s.cmdPart c)).epoch = true)
    (hg : readGrace c (s.cmdPart c) (addr154 (op i.pkt 40 8)) (op i.pkt 36 1) (s.layout (s.cmdPart c)).next s = .ok g) :
    let p := s.cmdPart c
    let x := s.layout p
    let e := BitVec.ofNat 16 (op i.pkt 32 2)
    ∃ t, exec (.dvtLayoutSwitch c) s = .next t ∧ t.Ended c .ok x.epoch.toNat 0 ∧ t = { s with cmd := t.cmd, tier := t.tier, dvt := t.dvt } ∧
      t.dvt = (updLayout p (fun _ => x.switched e g (s.clk + op i.pkt 34 2 * 1000)) (advancePlans p x.current x.next e s)).dvt := by
  intro p x e
  refine wholeCmd_ok_dvt h rfl ?_
  exact bind_of_eq_ok (guardE_not_of_eq_true he _) _ |>.trans (bind_of_eq_ok hg _)

/-- A table whose entries are changed in place, each keeping its number, holds what it held under a number, so changed. -/
theorem find?_map {α : Type} (g : Nat → α → α) (m : List (Nat × α)) (k : Nat) : find? (m.map fun e => (e.1, g e.1 e.2)) k = (find? m k).map (g k) := by
  induction m with
  | nil => rfl
  | cons e r ih =>
    by_cases h : e.1 = k
    · simp [find?, h]
    · simpa [find?, h] using ih

/-- What a switch of partition p from one table to another makes of the plan of layer l: a plan of an unchanged layer takes the new epoch (R206). -/
def State.advancePlan (s : State) (p : Nat) (old new : Map (List Nat)) (e : W16) (l : Nat) (x : Plan) : Plan :=
  if s.inRange p 2 l && getD old l [] == getD new l [] then { x with epoch := e } else x

theorem advancePlan_words (s : State) (p : Nat) (old new : Map (List Nat)) (e : W16) (l : Nat) (x : Plan) :
    (s.advancePlan p old new e l x).words = x.words := by unfold State.advancePlan; split <;> rfl

theorem advancePlans_plans (p : Nat) (old new : Map (List Nat)) (e : W16) (s : State) :
    (advancePlans p old new e s).dvt.plans = s.dvt.plans.map fun x => (x.1, s.advancePlan p old new e x.1 x.2) := by
  refine List.map_congr_left fun x _ => ?_
  unfold State.advancePlan
  split <;> rfl

/-- A plan in force after a switch is one of before with the same words. -/
theorem words_of_find?_advancePlans {p l : Nat} {old new : Map (List Nat)} {e : W16} {s : State} {x : Plan}
    (h : find? (advancePlans p old new e s).dvt.plans l = some x) : ∃ y, find? s.dvt.plans l = some y ∧ x.words = y.words := by
  rw [advancePlans_plans, find?_map] at h
  obtain ⟨y, hy, rfl⟩ := Option.map_eq_some_iff.1 h
  exact ⟨y, hy, advancePlan_words ..⟩

/-- GRACE_EXPIRY ends the grace list whose time has passed, and no other (R208). -/
theorem exec_graceExpiry (r : Part) (s : State) :
    ∃ t, exec (.graceExpiry r) s = .next t ∧ (t.layout r).grace = (if (s.layout r).graceEnd ≤ s.clk then [] else (s.layout r).grace) ∧
      (t.layout r).current = (s.layout r).current ∧ t = { s with dvt := t.dvt } := by
  refine ⟨_, rfl, ?_⟩
  by_cases h : (s.layout r).graceEnd ≤ s.clk
  · rw [if_pos h, if_pos h, layout_updLayout]
    exact ⟨rfl, rfl, rfl⟩
  · rw [if_neg h, if_neg h]
    exact ⟨rfl, rfl, rfl⟩

/-- A DVT_RECV_OPEN whose record passes its checks ends OK with a fresh window in place of any earlier one (R215). -/
theorem exec_dvtRecvOpen_ok {xs : List RecvInst} (h : s.ready c 0x0422 = some i)
    (hbs : cmdBlock c (s.cmdPart c) (addr154 (op i.pkt 32 8)) 64 0x0E 0 recvRsv recvVals s = .ok bs)
    (hw : s.inRange (s.cmdPart c) 7 (le bs 2 1 % 8) = true) (hl : s.inRange (s.cmdPart c) 2 (le bs 4 2 % 2 ^ 10) = true)
    (hxs : readInsts c (s.cmdPart c) (addrIn bs 8) (le bs 3 1 % 128) s = .ok xs) :
    ∃ t, exec (.dvtRecvOpen c) s = .next t ∧ t.Ended c .ok 0 0 ∧ t = { s with cmd := t.cmd, tier := t.tier, dvt := t.dvt } ∧
      t.dvt = { s.dvt with
        windows := put s.dvt.windows (le bs 2 1 % 8) ⟨s.cmdPart c, le bs 4 2 % 2 ^ 10, le bs 6 2, xs, []⟩
        returns := s.dvt.returns.filter fun r => r.1 != le bs 2 1 % 8 } := by
  refine wholeCmd_ok_dvt (u := s.onDvt fun d => { d with
    windows := put d.windows (le bs 2 1 % 8) ⟨s.cmdPart c, le bs 4 2 % 2 ^ 10, le bs 6 2, xs, []⟩
    returns := d.returns.filter fun r => r.1 != le bs 2 1 % 8 }) h rfl ?_
  exact bind_of_eq_ok hbs _ |>.trans (bind_of_eq_ok (guardE_not_of_eq_true hw _) _ |>.trans
    (bind_of_eq_ok (guardE_not_of_eq_true hl _) _ |>.trans (bind_of_eq_ok hxs _)))

end Layouts

/-! ### The statement settled -/

/-- Settles O18, from the table, layout or window that each command leaves and the laws of a table with one entry put. -/
theorem dovetailTablesAndLayouts : Obligations.DovetailTablesAndLayouts := by
  unfold Obligations.DovetailTablesAndLayouts
  refine ⟨fun c s i bs => ⟨fun h hl hbs ht => ?_, fun h hn hbs ht => ?_, fun h hl hbs ws hws hw hfit => ?_, fun h hl => ?_⟩,
    fun c s i bs => ⟨fun h hbs hl r ws hr he hws hw hfit => ?_, fun h he g hg => ?_, fun r => exec_graceExpiry r s, fun h hbs hw hl xs hxs => ?_⟩⟩
  · obtain ⟨t, hexec, hend, hframe, hd⟩ := exec_dvtLayerLoad_ok h hl hbs ht
    refine ⟨t, hexec, hend, hframe, ?_⟩
    rw [hd]
    exact ⟨rfl, find?_put_self .., fun j hj => find?_put_other _ _ hj⟩
  · obtain ⟨t, hexec, hend, hframe, hd⟩ := exec_dvtTableLoad_ok h hn hbs ht
    refine ⟨t, hexec, hend, hframe, ?_⟩
    rw [hd]
    exact ⟨rfl, find?_put_self .., fun j hj => find?_put_other _ _ hj⟩
  · obtain ⟨t, hexec, hend, hframe, hd⟩ := exec_dvtPlanLoad_ok h hl hbs hws hw hfit
    refine ⟨t, hexec, hend, hframe, ?_⟩
    rw [hd]
    exact ⟨rfl, find?_put_self .., fun j hj => find?_put_other _ _ hj⟩
  · obtain ⟨t, hexec, hend, hframe, hd⟩ := exec_dvtAvailSet_ok h hl
    refine ⟨t, hexec, hend, hframe, ?_⟩
    rw [hd]
    exact ⟨rfl, (getD_putAvail ..).trans (if_pos rfl), fun j hj => (getD_putAvail ..).trans (if_neg hj)⟩
  · obtain ⟨t, hexec, hend, -, hd⟩ := exec_dvtLayoutLoad_ok h hbs hl hr he hws hw hfit
    refine ⟨t, hexec, hend, ?_⟩
    simp only [State.layout_congr hd, layout_updLayout, find?_put_self, true_and]
    exact fun q hq => layout_updLayout_other hq _ _
  · obtain ⟨t, hexec, hend, -, hd⟩ := exec_dvtLayoutSwitch_ok h he hg
    refine ⟨t, hexec, hend, ?_⟩
    simp only [State.layout_congr hd, layout_updLayout]
    refine ⟨rfl, rfl, rfl, rfl, rfl, rfl, fun q hq => layout_updLayout_other hq _ _, fun l x hx => ?_⟩
    rw [hd] at hx
    exact words_of_find?_advancePlans hx
  · obtain ⟨t, hexec, hend, hframe, hd⟩ := exec_dvtRecvOpen_ok h hbs hw hl hxs
    refine ⟨t, hexec, hend, ?_, fun j hj => ?_, hframe⟩
    · rw [hd]; exact find?_put_self ..
    · rw [hd]; exact find?_put_other _ _ hj

end Sys2Proof.Machine
end

section
/-! The statement of chapters 7 and 8 on selection, shares and weights (R168, R182, R193): the ranking of experts as a permutation of them, the bounds of a
count, and what a drop does to the weights. -/

namespace Sys2Proof.Machine

/-! ### The ranking of experts (R168) -/

/-- Ranking one more expert adds it to those ranked. -/
theorem insertRank_perm (x : Nat × Int) (xs : List (Nat × Int)) : (insertRank x xs).Perm (x :: xs) := by
  induction xs with
  | nil => exact .refl _
  | cons y r ih =>
    unfold insertRank
    split
    · exact .refl _
    · exact (ih.cons y).trans (.swap x y r)

/-- Ranking experts one after another ranks them all. -/
theorem foldl_insertRank_perm (xs acc : List (Nat × Int)) : (xs.foldl (fun acc x => insertRank x acc) acc).Perm (xs ++ acc) := by
  induction xs generalizing acc with
  | nil => exact .refl _
  | cons x r ih => exact (ih _).trans (((insertRank_perm x acc).append_left r).trans List.perm_middle)

/-- The experts with their logits, ranked (R168). -/
def ranked (l : List Int) : List (Nat × Int) := (l.zipIdx.map fun e => (e.2, e.1)).foldl (fun acc x => insertRank x acc) []

theorem ranked_perm (l : List Int) : (ranked l).Perm (l.zipIdx.map fun e => (e.2, e.1)) :=
  (foldl_insertRank_perm _ []).trans (by rw [List.append_nil])

@[simp] theorem length_ranked (l : List Int) : (ranked l).length = l.length := by simp [(ranked_perm l).length_eq]

/-- A ranked expert is one of the layer's. -/
theorem fst_lt_of_mem_ranked {l : List Int} {e : Nat × Int} (h : e ∈ ranked l) : e.1 < l.length := by
  obtain ⟨⟨y, k⟩, hk, rfl⟩ := List.mem_map.1 ((ranked_perm l).mem_iff.1 h)
  exact List.snd_lt_of_mem_zipIdx hk

/-! ### The largest logit -/

/-- The maximum over a list from a start is at least the start and every element. -/
theorem le_foldl_max (xs : List Int) (a : Int) : ∀ y ∈ a :: xs, y ≤ xs.foldl max a := by
  induction xs generalizing a with
  | nil => simp
  | cons x r ih =>
    have hm : max a x ≤ r.foldl max (max a x) := ih _ _ (by simp)
    intro y hy
    rcases List.mem_cons.1 hy with rfl | hy
    · exact Int.le_trans (Int.le_max_left y x) hm
    · rcases List.mem_cons.1 hy with rfl | hy
      · exact Int.le_trans (Int.le_max_right a y) hm
      · exact ih _ y (List.mem_cons_of_mem _ hy)

theorem le_maxInt {l : List Int} {y : Int} (h : y ∈ l) : y ≤ maxInt l := by
  cases l with
  | nil => exact nomatch h
  | cons x r => exact le_foldl_max r x y h

/-! ### The token selected (R168) -/

section Token
variable (r : LayerEntry) (t : List Nat) (l : List Int)

theorem selectToken_count : (selectToken r t l).count = max r.kMin (min (selectToken r t l).n r.kMax) := rfl

theorem selectToken_m : (selectToken r t l).m = maxInt l := rfl

/-- The candidates are the first M experts of the ranking, each with a weight of 16 bits. -/
theorem selectToken_cand : ∃ p : Nat × Int → Nat, (∀ e, p e ≤ 65535) ∧ (selectToken r t l).cand = ((ranked l).take r.mCand).map fun e => (e.1, p e) :=
  ⟨fun _ => min 65535 _, fun _ => Nat.min_le_left _ _, rfl⟩

theorem length_selectToken_cand : (selectToken r t l).cand.length = min r.mCand l.length := by
  obtain ⟨p, -, hcand⟩ := selectToken_cand r t l
  simp [hcand]

theorem bounds_of_mem_selectToken_cand : ∀ e ∈ (selectToken r t l).cand, e.1 < l.length ∧ e.2 ≤ 65535 := by
  obtain ⟨p, hp, hcand⟩ := selectToken_cand r t l
  rw [hcand]
  intro e he
  obtain ⟨x, hx, rfl⟩ := List.mem_map.1 he
  exact ⟨fst_lt_of_mem_ranked (List.mem_of_mem_take hx), hp x⟩

end Token

/-! ### Shares (R182) -/

/-- A share is the quotient, or one more, and the quotient where the division is exact. -/
theorem share_bounds (c n i e k : Nat) : c / n ≤ share c n i e k ∧ share c n i e k ≤ c / n + 1 ∧ (n ∣ c → share c n i e k = c / n) := by
  unfold share
  split
  · rename_i h
    exact ⟨Nat.le_succ _, Nat.le_refl _, fun hd => absurd h (by rw [Nat.mod_eq_zero_of_dvd hd]; omega)⟩
  · exact ⟨Nat.le_refl _, Nat.le_succ _, fun _ => rfl⟩

/-! ### Weights (R193) -/

section Weigh
variable (cand : List (Nat × Nat)) (count : Nat) (ch : List Admitted)

/-- A weighed choice is one of those given, with the weight 0 where it was dropped and its p where none was. -/
theorem mem_weigh {c : Admitted} (h : c ∈ (weigh cand count ch).ch) :
    (c.disp = 3 → c.g = 0) ∧ ((∀ x ∈ ch, x.disp ≠ 3) → c.g = (cand.getD c.rank (0, 0)).2) := by
  obtain ⟨x, hx, rfl⟩ := List.mem_map.1 h
  refine ⟨fun hdrop => if_pos hdrop, fun hall => ?_⟩
  have hkept : ch.filter (fun c => c.disp != 3) = ch := List.filter_eq_self.2 fun y hy => bne_iff_ne.2 (hall y hy)
  simp [hall x hx, hkept]

theorem length_weigh : (weigh cand count ch).ch.length = ch.length := List.length_map _

end Weigh

/-! ### The statement settled -/

/-- Settles O19, from the ranking as a permutation, the bounds of a share and the weight of each choice. -/
theorem selectionAndWeights : Obligations.SelectionAndWeights := by
  unfold Obligations.SelectionAndWeights
  refine ⟨fun r t l hk => ⟨?_, ?_, fun hlo hhi => ?_, length_selectToken_cand r t l, bounds_of_mem_selectToken_cand r t l, fun y hy => le_maxInt hy⟩,
    fun c n i e k _ => share_bounds c n i e k, fun cand count ch => ⟨length_weigh .., fun c hc => (mem_weigh cand count ch hc).1,
      fun hall c hc => (mem_weigh cand count ch hc).2 hall, rfl⟩⟩
  · rw [selectToken_count]
    exact Nat.le_max_left ..
  · rw [selectToken_count]
    exact Nat.max_le.2 ⟨hk, Nat.min_le_right ..⟩
  · rw [selectToken_count, Nat.min_eq_left hhi, Nat.max_eq_right hlo]

end Sys2Proof.Machine
end

section
/-! The statement of chapters 7 and 8 on DVT_SCORE and DVT_ADMIT (R166, R172 to R176, R190, R197, R199): how a step begins, what an event of it does, how it ends,
which of two steps a unit chooses, and the size of a sub-batch. -/

namespace Sys2Proof.Machine

/-! ### Picking from a list where nothing is found -/

theorem pick_filter_not {α : Type} (p : α → Bool) (xs : List α) : pick p (xs.filter fun x => !p x) = none := by
  induction xs with
  | nil => rfl
  | cons x r ih => cases h : p x <;> simp [pick, h, ih]

/-! ### The step at work of a command -/

/-- The step found under a command is that command's. -/
theorem cmd_of_run {s : State} {c : CmdRef} {r : DvtRun} (h : s.run c = some r) : r.cmd = c := beq_iff_eq.1 (pick_some h).1

theorem State.run_congr {s t : State} (h : t.dvt.runs = s.dvt.runs) (c : CmdRef) : t.run c = s.run c := by rw [State.run, State.run, h]

/-- Changing the step of a command changes the step that is found under it. -/
theorem run_updRun {s : State} {c : CmdRef} {r : DvtRun} (hr : s.run c = some r) {f : DvtRun → DvtRun} (hf : ∀ x, (f x).cmd = x.cmd) :
    (updRun c f s).run c = some (f r) := by
  have hcmd (x : DvtRun) : (if x.cmd = c then f x else x).cmd = x.cmd := by split <;> simp [hf]
  have hpick : (updRun c f s).run c = (s.run c).map fun x => if x.cmd = c then f x else x :=
    pick_map (p := fun x : DvtRun => x.cmd == c) (fun x => by rw [hcmd]) _
  rw [hpick, hr, Option.map_some, if_pos (cmd_of_run hr)]

/-- A step that leaves is found no longer. -/
theorem run_dropRun (c : CmdRef) (s : State) : (dropRun c s).run c = none := pick_filter_not (fun r : DvtRun => r.cmd == c) _

/-- A bank that is released is found no longer. -/
theorem bankOf_freeBank (c : CmdRef) (s : State) : (freeBank c s).bankOf c = none := by
  unfold State.bankOf
  exact congrArg _ (pick_filter_not (fun b : Nat × Bank => b.2.cmd == c) s.dvt.banks)

/-! ### How a step begins -/

/-- The step that a command in flight as i begins, of a kind, on a block and a layer entry. -/
def State.firstRun (s : State) (c : CmdRef) (i : InFlight) (k : StepKind) (b : List Byte) (e : LayerEntry) : DvtRun :=
  { cmd := c, part := s.cmdPart c, lc := flagLc i.pkt, order := i.order, kind := k, blk := b, entry := e.blk, table := s.stepTable c e.tableIx }

section Begin
variable {s : State} {c : CmdRef} {i : InFlight} {b : List Byte} {e : LayerEntry}

/-- The command as it runs. -/
theorem inflight_setRunning (h : s.inflight c = some i) :
    (s.updIn c ({ · with stage := .running })).inflight c = some { i with stage := .running } := by
  rw [State.inflight_updIn s c ({ · with stage := .running }) (fun _ => rfl), h]
  rfl

/-- Starting the step of a command that has just been set running adds that step to those at work. -/
theorem startRun_setRunning (h : s.inflight c = some i) (k : StepKind) :
    startRun c (s.cmdPart c) k b e (s.updIn c ({ · with stage := .running })) =
      (s.updIn c ({ · with stage := .running })).onDvt fun d => { d with runs := d.runs ++ [s.firstRun c i k b e] } := by
  have htable (n : Nat) : (s.updIn c ({ · with stage := .running })).stepTable c n = s.stepTable c n := by
    simp only [State.stepTable, inflight_setRunning h, h, Option.bind_some]
  simp only [startRun, inflight_setRunning h, htable]
  rfl

/-- A granted command has not begun to run. -/
theorem running_of_ready {o : Nat} (h : s.ready c o = some i) : s.running c = none := by
  obtain ⟨hi, hstage, -⟩ := State.ready_inflight h
  simp [State.running, hi, hstage]

@[simp] theorem inflight_onDvt (s : State) (f : DvtState → DvtState) (c : CmdRef) : (s.onDvt f).inflight c = s.inflight c := rfl

/-- A DVT_SCORE whose block passes its checks, while no score array that it needs has a fault, runs with its step at work (R166). -/
theorem exec_dvtScore_starts (h : s.ready c 0x0402 = some i)
    (hb : readScoreBlock c (s.cmdPart c) (addr154 (op i.pkt 32 8)) 1 (s.updIn c ({ · with stage := .running })) = .ok (b, e))
    (hsound : scoreFault e (s.updIn c ({ · with stage := .running })) = none) :
    ∃ t, exec (.dvtScore c) s = .next t ∧ t.Running c ∧ t.dvt = { s.dvt with runs := s.dvt.runs ++ [s.firstRun c i .score b e] } ∧
      t = { s with cmd := t.cmd, dvt := t.dvt } := by
  obtain ⟨hi, -, -⟩ := State.ready_inflight h
  refine ⟨noteTorn c (s.paramTorn (s.cmdPart c) i.pkt) (startRun c (s.cmdPart c) .score b e (s.updIn c ({ · with stage := .running }))), ?_, ?_⟩
  · show execDvtScore c s = _
    simp only [execDvtScore, running_of_ready h]
    rw [beginCmd_ok h]
    refine bind_of_eq_ok hb _ |>.trans ?_
    dsimp only
    rw [hsound]
  · rw [startRun_setRunning hi]
    generalize s.paramTorn (s.cmdPart c) i.pkt = torn
    refine ⟨?_, ?_, ?_⟩
    · rw [State.Running, noteTorn_inflight, inflight_onDvt, inflight_setRunning hi]
      cases torn <;> rfl
    · rw [noteTorn_dvt]
      rfl
    · rw [noteTorn_frame]
      rfl

/-- A DVT_SCORE that needs score arrays of which one has a fault ends with it, and no step is at work (R174). -/
theorem exec_dvtScore_fails {x : Err} (h : s.ready c 0x0402 = some i)
    (hb : readScoreBlock c (s.cmdPart c) (addr154 (op i.pkt 32 8)) 1 (s.updIn c ({ · with stage := .running })) = .ok (b, e))
    (hfault : scoreFault e (s.updIn c ({ · with stage := .running })) = some x) :
    ∃ t, exec (.dvtScore c) s = .next t ∧ t.Ended c x.st 0 x.det ∧ t.dvt = s.dvt := by
  obtain ⟨hi, -, -⟩ := State.ready_inflight h
  refine ⟨failCmd c x s, ?_, endCmd_ended hi .., endCmd_dvt ..⟩
  show execDvtScore c s = _
  simp only [execDvtScore, running_of_ready h]
  rw [beginCmd_error h]
  refine bind_of_eq_ok hb _ |>.trans ?_
  dsimp only
  rw [hfault]

/-- A DVT_ADMIT whose block and plan pass their checks runs with its step at work (R190). -/
theorem exec_dvtAdmit_starts {x : Against} (h : s.ready c 0x0412 = some i)
    (hb : cmdBlock c (s.cmdPart c) (addr154 (op i.pkt 32 8)) 64 0x0C 0 admitRsv admitVals s = .ok b)
    (hl : s.inRange (s.cmdPart c) 2 (le b 2 2 % 2 ^ 10) = true) (he : s.stepEntry c (le b 2 2 % 2 ^ 10) = some e)
    (hx : admitAgainst c (le b 2 2 % 2 ^ 10) s = .ok x) :
    ∃ t, exec (.dvtAdmit c) s = .next t ∧ t.Running c ∧ t.dvt = { s.dvt with runs := s.dvt.runs ++ [s.firstRun c i .admission b e] } ∧
      t = { s with cmd := t.cmd, dvt := t.dvt } := by
  obtain ⟨hi, -, -⟩ := State.ready_inflight h
  refine ⟨startRun c (s.cmdPart c) .admission b e (s.updIn c ({ · with stage := .running })), ?_, ?_⟩
  · show execDvtAdmit c s = _
    simp only [execDvtAdmit, running_of_ready h, h, bind_of_eq_ok hb, bind_of_eq_ok (guardE_not_of_eq_true hl _), he, bind_of_eq_ok hx]
  · rw [startRun_setRunning hi]
    refine ⟨?_, rfl, rfl⟩
    rw [State.Running, inflight_onDvt, inflight_setRunning hi]
    rfl

end Begin

/-! ### An event of a step (R175, R176) -/

section Event
variable {s : State} {c : CmdRef} {r : DvtRun} {o : Instr}

/-- An event of a running DVT_SCORE or DVT_ADMIT is one of its step. -/
theorem exec_dvtStep {i : InFlight} (hrun : s.running c = some i) (hr : s.run c = some r)
    (ho : (o, r.kind) ∈ [(Instr.dvtScore c, StepKind.score), (.dvtAdmit c, .admission)]) : exec o s = .next (settleStep c (stepEvent r s)) := by
  simp only [List.mem_cons, Prod.mk.injEq, List.not_mem_nil, or_false] at ho
  rcases ho with ⟨rfl, hk⟩ | ⟨rfl, hk⟩
  · show execDvtScore c s = _
    simp only [execDvtScore, hrun, hr, hk, ↓reduceIte]
  · show execDvtAdmit c s = _
    simp only [execDvtAdmit, hrun, hr, hk, ↓reduceIte]

/-- While no sub-batch of it streams, what a step does is decided by what the selection unit holds and by which step each unit chooses. -/
theorem stepEvent_of_not_streaming (h : s.dvt.stream.filter (fun x => x.1 == r.cmd) = none) :
    stepEvent r s = if s.dvt.sel = some r.cmd then selectNext r s
      else if s.chosen DvtRun.wantsAdmit r then admitNext r s
      else if s.chosen (DvtRun.wantsSel s) r then (s.onDvt fun d => { d with sel := some r.cmd }, none)
      else if s.chosen (DvtRun.wantsArrays s) r then (takeArrays r s, none)
      else (s, none) := by
  simp only [stepEvent, h]

/-- A step that has tokens left goes on. -/
theorem settleStep_of_not_whole {u : State} (hr : u.run c = some r) (hw : r.whole = false) : settleStep c (u, none) = u := by
  simp [settleStep, hr, hw]

/-- A DVT_SCORE whose last token is selected ends OK with its counts (R172). -/
theorem settleStep_score {u : State} (hr : u.run c = some r) (hw : r.whole = true) (hk : r.kind = .score) :
    settleStep c (u, none) = endStep c .ok (scoreResult r.picked) 0 u := by
  simp [settleStep, hr, hw, hk]

/-- A DVT_ADMIT whose last token is admitted ends OK with its counts and its detail bits (R199). -/
theorem settleStep_admission {u : State} (hr : u.run c = some r) (hw : r.whole = true) (hk : r.kind = .admission) :
    settleStep c (u, none) = endStep c .ok (admitResult r.admitted) (admitBits r.admitted) u := by
  simp [settleStep, hr, hw, hk]

/-- A sub-batch that the score arrays take leaves the tokens of its step that are done. -/
theorem run_takeArrays (hr : s.run c = some r) :
    (takeArrays r s).run c = some { r with scored := r.scored + min r.rec_.subBatch (r.v - r.scored) } := by
  obtain rfl := cmd_of_run hr
  exact run_updRun (f := fun x => { x with scored := x.scored + min r.rec_.subBatch (r.v - r.scored) }) hr fun _ => rfl

end Event

/-! ### The end of a step (R173, R176, R197) -/

/-- Noting the saturations of a step changes the Dovetail, and marks the command where there were any. -/
theorem satOf_cases (c : CmdRef) (s : State) : ∃ d, satOf c s = { s with dvt := d } ∨ satOf c s = noteSat c { s with dvt := d } := by
  unfold satOf
  split
  · unfold countSat
    dsimp only
    split
    · exact ⟨_, Or.inr rfl⟩
    · exact ⟨_, Or.inl rfl⟩
  · exact ⟨s.dvt, Or.inl rfl⟩

theorem satOf_par (c : CmdRef) (s : State) : (satOf c s).par = s.par := by
  obtain ⟨d, h | h⟩ := satOf_cases c s <;> exact h ▸ rfl

theorem satOf_pegs (c : CmdRef) (s : State) : (satOf c s).cmd.pegs = s.cmd.pegs := by
  obtain ⟨d, h | h⟩ := satOf_cases c s <;> exact h ▸ rfl

/-- A command in flight is in flight with the saturations of its step noted. -/
theorem exists_inflight_satOf {c : CmdRef} {s : State} {i : InFlight} (h : s.inflight c = some i) : ∃ j, (satOf c s).inflight c = some j := by
  obtain ⟨d, hsat | hsat⟩ := satOf_cases c s
  · exact ⟨i, by rw [hsat]; exact h⟩
  · have hd : ({ s with dvt := d } : State).inflight c = some i := h
    exact ⟨{ i with sat := true }, by rw [hsat, noteSat, State.inflight_updIn _ c ({ · with sat := true }) (fun _ => rfl), hd]; rfl⟩

/-- With no preemption requested, a command that leaves leaves no request. -/
theorem leaveRequests_of_nil {s : State} (h : s.par.requests = []) (c : CmdRef) (b : Bool) : leaveRequests c b s = s := by
  have hpar : { s.par with requests := [] } = s.par := by rw [← h]
  simp only [leaveRequests, State.onPar, h, List.map_nil, hpar]

/-- With no preemption requested, none is settled. -/
theorem settleRequests_of_nil {s : State} (h : s.par.requests = []) : settleRequests s = s := by
  have hpar : { s.par with requests := [] } = s.par := by rw [← h]
  simp only [settleRequests, State.onPar, h, List.filter_nil, hpar, List.foldl_nil]

/-- A step that ends OK while no preemption is requested leaves: its command has ended, it holds no unit and no bank, and the pegs stay. -/
theorem endStep_ok {u : State} {c : CmdRef} {i : InFlight} (hrun : u.running c = some i) (hreq : u.par.requests = []) (result det : Nat) :
    (endStep c .ok result det u).Ended c .ok result det ∧ (endStep c .ok result det u).bankOf c = none ∧ (endStep c .ok result det u).run c = none ∧
      (endStep c .ok result det u).cmd.pegs = u.cmd.pegs := by
  have hi : u.inflight c = some i := by
    unfold State.running at hrun
    split at hrun
    · split at hrun
      · rwa [← hrun]
      · exact nomatch hrun
    · exact nomatch hrun
  have hpar : (endCmd c .ok result det (freeBank c (dropRun c (satOf c u)))).par.requests = [] := by
    rw [endCmd_ok_frame, freeBank, dropRun]
    exact (congrArg (·.requests) (satOf_par c u)).trans hreq
  have hend : endStep c .ok result det u = endCmd c .ok result det (freeBank c (dropRun c (satOf c u))) := by
    rw [endStep, leaveRequests_of_nil hpar, settleRequests_of_nil hpar]
  rw [hend]
  obtain ⟨j, hj⟩ := exists_inflight_satOf hi
  refine ⟨endCmd_ended (s := freeBank c (dropRun c (satOf c u))) hj .ok result det, ?_, ?_, ?_⟩
  · rw [State.bankOf, endCmd_dvt]
    exact bankOf_freeBank c _
  · rw [State.run_congr (congrArg (·.runs) (endCmd_dvt ..))]
    exact run_dropRun c _
  · rw [endCmd_pegs]
    exact satOf_pegs c u

/-! ### The step that a unit chooses (R176) and the size of a sub-batch (R175) -/

/-- A step is not chosen while another that wants the unit goes before it. -/
theorem chosen_eq_false {s : State} {want : DvtRun → Bool} {r x : DvtRun} (hx : x ∈ s.dvt.runs) (hc : x.cmd ≠ r.cmd) (hw : want x = true)
    (hb : x.before r = true) : s.chosen want r = false := by
  refine Bool.and_eq_false_imp.2 fun _ => List.all_eq_false.2 ⟨x, hx, ?_⟩
  simp [hc, hw, hb]

/-- LC goes before BE, and within a class the step granted first. -/
theorem before_eq_true {r x : DvtRun} (h : x.lc = true ∧ r.lc = false ∨ x.lc = r.lc ∧ x.order < r.order) : x.before r = true := by
  unfold DvtRun.before
  rcases h with ⟨hx, hr⟩ | ⟨hlc, ho⟩
  · simp [hx, hr]
  · simp [hlc, ho]

/-- A sub-batch has 32 to 256 tokens. -/
theorem subBatch_bounds {e : LayerEntry} (he : 1 ≤ e.experts) (he' : e.experts ≤ 16384) (hx : e.exitRows ≤ 16384) (hd : 1 ≤ e.dModel)
    (hd' : e.dModel ≤ 16384) : 32 ≤ e.subBatch ∧ e.subBatch ≤ 256 := by
  have hcols : 1 ≤ e.columns ∧ e.columns ≤ 512 := by
    unfold LayerEntry.columns ceilDiv
    split <;> omega
  have hrows : 1 ≤ ceilDiv e.dModel 64 ∧ ceilDiv e.dModel 64 ≤ 256 := by
    unfold ceilDiv
    omega
  have hstore : 32 ≤ 2 ^ 20 / (64 * e.columns) := (Nat.le_div_iff_mul_le (by omega)).2 (by omega)
  have hvec4 : 32 ≤ 2 ^ 22 / (64 * ceilDiv e.dModel 64) := (Nat.le_div_iff_mul_le (by omega)).2 (by omega)
  have hvec8 : 32 ≤ 2 ^ 21 / (64 * ceilDiv e.dModel 64) := (Nat.le_div_iff_mul_le (by omega)).2 (by omega)
  refine ⟨Nat.le_min.2 ⟨by decide, Nat.le_min.2 ⟨hstore, ?_⟩⟩, Nat.min_le_left ..⟩
  split
  · exact hvec4
  · exact hvec8

/-! ### The statement settled -/

/-- Settles O20, from how a step begins, the choice an event of it makes, its end, the order of steps and the size of a sub-batch. -/
theorem scoreAndAdmitRun : Obligations.ScoreAndAdmitRun := by
  unfold Obligations.ScoreAndAdmitRun
  refine ⟨fun c s i _ => ⟨fun h b e hb => ⟨exec_dvtScore_starts h hb, fun x => exec_dvtScore_fails h hb⟩,
      fun h b e x hb hl he hx => exec_dvtAdmit_starts h hb hl he hx⟩,
    fun c s i r o hrun hr ho hstream => ?_, fun s want r x hx hc hw hb => chosen_eq_false hx hc hw (before_eq_true hb),
    fun e he he' hx hd hd' => subBatch_bounds he he' hx hd hd'⟩
  have hcmd : r.cmd = c := cmd_of_run hr
  have hevent := stepEvent_of_not_streaming (r := r) (hcmd ▸ hstream)
  rw [exec_dvtStep hrun hr ho, hevent, hcmd]
  refine ⟨fun hsel hw hadmit => ?_, fun hsel u x hu hx hk => ?_, fun hsel hadmit u x hu hx hk => ?_⟩
  · rw [if_neg hsel, if_neg (by simp [hadmit])]
    refine ⟨fun htake => ?_, fun hno htake => ?_, fun hno hno' => ?_⟩
    · rw [if_pos htake, settleStep_of_not_whole (u := s.onDvt fun d => { d with sel := some c }) hr hw]
      rfl
    · rw [if_neg (by simp [hno]), if_pos htake, settleStep_of_not_whole (run_takeArrays hr) hw]
      exact ⟨_, rfl, by rw [← hcmd]; rfl, rfl, rfl⟩
    · rw [if_neg (by simp [hno]), if_neg (by simp [hno']), settleStep_of_not_whole hr hw]
  · rw [if_pos hsel, hu]
    refine ⟨fun hw => by rw [settleStep_of_not_whole hx hw], fun hs hw hrun' hreq => ?_⟩
    rw [settleStep_score hx hw (hk.trans hs)]
    obtain ⟨hend, -, hleft, hpegs⟩ := endStep_ok hrun' hreq (scoreResult x.picked) 0
    exact ⟨_, rfl, hend, hleft, hpegs⟩
  · rw [if_neg hsel, if_pos hadmit, hu]
    refine ⟨fun hw => by rw [settleStep_of_not_whole hx hw], fun hs hw hrun' hreq => ?_⟩
    rw [settleStep_admission hx hw (hk.trans hs)]
    exact ⟨_, rfl, endStep_ok hrun' hreq (admitResult x.admitted) (admitBits x.admitted)⟩

end Sys2Proof.Machine
end

section
/-! The statement of chapter 10 on the beginning of a collective (R231, R388) meets ACCEPT_TORN: a command whose parameter block lies on a torn plank and that
carries the flag notes the torn read when it has begun (detail bit 31, R54), so the state it leaves is not the one that the collective's beginning answers. -/

namespace Sys2Proof.Machine

/-! ### A gather whose parameter block is torn -/

namespace TornGather

/-- The only command of queue 0. -/
def cmd : CmdRef := ⟨0, 0⟩

/-- A PRL_ALLGATHER with ACCEPT_TORN and its parameter block at 65536. -/
def granted : InFlight := { slot := 0, pkt := BitVec.ofNat 512 (layout [(0, 2, 0x0514), (2, 1, 0x80), (32, 8, 65536)]) }

/-- The command is granted. Loft bay 0 is a SCRATCH bay of partition 0, which has queue 0 and group 3, of one member. The parameter block, of a row of 64 bytes from
1024 to 2048 of the Loft space, lies alone in plank 1 of the Loft, which is torn. -/
def start : State :=
  { csr := [(0x03000000, 0x3), (0x12000000, 0x1), (0x12000400, 0x0000001000000000), (0x12000440, 0x0000001000000000)],
    cmd := { wq := [(0, { inflight := [granted] })] },
    loft := memWrite [(1024, 77)] 65536 (toBytes 128 (layout [(0, 1, 1), (2, 2, 3), (4, 2, 7), (6, 1, 24), (8, 8, 64), (40, 8, 1024), (56, 8, 2048)])),
    tier := { loftPlanks := [(1, { torn := true })] },
    prl := { groups := [(3, ⟨0, [5], 9, 0, 0xFF, true⟩)] } }

theorem start_ready : start.ready cmd 0x0514 = some granted := by decide +kernel

theorem start_coll : start.coll cmd = none := rfl

/-- The parameter block is read from a torn plank. -/
theorem start_paramTorn : start.paramTorn (start.cmdPart cmd) granted.pkt = true := by decide +kernel

/-- The collective begins, and nothing of its own work has noted a torn read. -/
theorem beginColl_start :
    (beginColl cmd 0x0514 granted.pkt (start.cmdPart cmd) (start.updIn cmd ({ · with stage := .running }))).toOption.map
      (fun u => (u.inflight cmd).map (·.tornRead)) = some (some false) := by decide +kernel

end TornGather

open TornGather

/-- A PRL_ALLGATHER that begins leaves what its beginning answers, with a torn read of its parameter block noted. -/
theorem exec_prlAllgather_begins {c : CmdRef} {s u : State} {i : InFlight} (hready : s.ready c 0x0514 = some i) (hcoll : s.coll c = none)
    (hbegin : beginColl c 0x0514 i.pkt (s.cmdPart c) (s.updIn c ({ · with stage := .running })) = .ok u) :
    exec (.prlAllgather c) s = .next (noteTorn c (s.paramTorn (s.cmdPart c) i.pkt) u) := by
  have hexec : exec (.prlAllgather c) s = collective c 0x0514 s := rfl
  rw [hexec, collective, hcoll]
  exact congrArg Host.Outcome.next (beginCmd_ok hready hbegin)

/-- Refutes O25: a PRL_ALLGATHER with ACCEPT_TORN whose parameter block lies on a torn plank begins. The command notes the torn read (R388), and the statement asks for
the state without the note. -/
theorem not_collectivesBeginAndEnd : ¬ Obligations.CollectivesBeginAndEnd := by
  unfold Obligations.CollectivesBeginAndEnd
  intro h
  obtain ⟨-, -, hbegins⟩ := h.1 cmd start granted [] []
  obtain ⟨hok, -⟩ := hbegins (0x0514, .prlAllgather cmd) (by simp) start_ready start_coll
  obtain ⟨u, hu, hclear⟩ := Option.map_eq_some_iff.1 beginColl_start
  have hbegin := eq_ok_of_toOption hu
  have hsame : noteTorn cmd true u = u := by
    have hexec := exec_prlAllgather_begins start_ready start_coll hbegin
    rw [start_paramTorn] at hexec
    exact Host.Outcome.next.inj (hexec.symm.trans (hok u hbegin).1)
  have hnoted : (u.inflight cmd).map (·.tornRead) = some true := by
    obtain ⟨j, hj, -⟩ := Option.map_eq_some_iff.1 hclear
    rw [← hsame, noteTorn_inflight, hj]
    rfl
  exact nomatch hclear.symm.trans hnoted

end Sys2Proof.Machine
end

section
/-! What work outside the Purlin leaves of it: sends, reports, pegs and writes keep the Purlin; the Yard and the end of a command keep it too, and keep which
commands are in flight (R49). -/

namespace Sys2Proof.Machine

/-- The queues and the Purlin of t are those of s. -/
structure State.SameWork (s t : State) : Prop where
  cmd : t.cmd = s.cmd
  prl : t.prl = s.prl

/-- The Purlin of t is that of s, and the same commands are in flight, whatever has become of them. -/
structure State.Aside (s t : State) : Prop where
  prl : t.prl = s.prl
  flight : ∀ c, (t.inflight c).isSome = (s.inflight c).isSome

theorem State.SameWork.refl (s : State) : s.SameWork s := ⟨rfl, rfl⟩

theorem State.SameWork.trans {s t u : State} (h : s.SameWork t) (h' : t.SameWork u) : s.SameWork u := ⟨h'.cmd.trans h.cmd, h'.prl.trans h.prl⟩

theorem State.SameWork.aside {s t : State} (h : s.SameWork t) : s.Aside t := ⟨h.prl, fun c => by rw [State.inflight_congr h.cmd]⟩

theorem State.Aside.refl (s : State) : s.Aside s := ⟨rfl, fun _ => rfl⟩

theorem State.Aside.trans {s t u : State} (h : s.Aside t) (h' : t.Aside u) : s.Aside u := ⟨h'.prl.trans h.prl, fun c => (h'.flight c).trans (h.flight c)⟩

theorem State.Aside.foldl {α : Type} {f : State → α → State} (hf : ∀ (s : State) x, s.Aside (f s x)) (xs : List α) (s : State) : s.Aside (xs.foldl f s) :=
  List.foldlRecOn xs f (.refl s) fun t ht x _ => ht.trans (hf t x)

/-- What agrees but for writes agrees on the queues and the Purlin. -/
theorem State.sameWork_of_sansWrites {s t : State} (h : t.sansWrites = s.sansWrites) : s.SameWork t := ⟨congrArg (·.cmd) h, congrArg (·.prl) h⟩

/-! ### Memory and events -/

theorem tear_sameWork (s : State) (xs : List Extent) : s.SameWork (s.tear xs) := by
  obtain ⟨m, hm⟩ := tear_frame s xs
  rw [hm]
  exact ⟨rfl, rfl⟩

theorem mend_sameWork (s : State) (xs : List Extent) : s.SameWork (s.mend xs) := by
  obtain ⟨m, hm⟩ := mend_frame s xs
  rw [hm]
  exact ⟨rfl, rfl⟩

theorem appendEvent_sameWork (e : Event) (s : State) : s.SameWork (appendEvent e s) := State.sameWork_of_sansWrites (appendEvent_sansWrites e s)

theorem write_sameWork (s : State) (p : Nat) (b : Bool) (a : Nat) (bs : List Byte) : s.SameWork (s.write p b a bs) :=
  State.sameWork_of_sansWrites (write_sansWrites s p b a bs)

theorem writeFor_sameWork (s : State) (p : Nat) (b : Bool) (a : Nat) (bs : List Byte) : s.SameWork (s.writeFor p b a bs).1 :=
  State.sameWork_of_sansWrites (writeSome_sansWrites ..)

theorem writeBench_sameWork (s : State) (n o : Nat) (bs : List Byte) : s.SameWork (s.writeBench n o bs) := by
  rw [writeBench_frame]
  exact ⟨rfl, rfl⟩

theorem undefine_sameWork (p : Nat) (a : Addr) (n : Nat) (s : State) : s.SameWork (undefine p a n s) :=
  State.SameWork.trans (t := (s.freeBytes n).2) ⟨rfl, rfl⟩ (write_sameWork _ _ _ _ _)

theorem writeAround_sameWork (c : CmdRef) (p : Nat) (b : Bool) (a : Nat) (bs : List Byte) (n : Nat) (s : State) :
    s.SameWork (writeAround c p b a bs n s).1 := by
  induction n generalizing s a bs with
  | zero => exact .refl s
  | succ n ih =>
    have hone : s.SameWork (if s.bayGone c b a then (s, none) else
        ((s.writeFor p b a (bs.take (64 - a % 64))).1, (s.writeFor p b a (bs.take (64 - a % 64))).2.2) : State × Option Err).1 := by
      split
      · exact .refl s
      · exact writeFor_sameWork ..
    unfold writeAround
    split
    · exact .refl s
    · dsimp only
      split
      · exact hone
      · exact hone.trans (ih ..)

/-! ### The end of a command, and its accesses -/

theorem endEffects_sameWork (c : CmdRef) (i : InFlight) (st : Status) (det : Nat) (s : State) : s.SameWork (endEffects c i st det s) := by
  unfold endEffects
  split
  · exact (tear_sameWork s _).trans (appendEvent_sameWork _ _)
  · split
    · exact appendEvent_sameWork _ _
    · split
      · exact mend_sameWork s _
      · exact .refl s

/-- Changing a command that is in flight leaves it in flight. -/
theorem updIn_aside (s : State) (c : CmdRef) (f : InFlight → InFlight) (hf : ∀ i, (f i).slot = i.slot) : s.Aside (s.updIn c f) := by
  refine ⟨rfl, fun d => ?_⟩
  by_cases hq : d.q = c.q
  · have hslot (i : InFlight) : (if i.slot = c.slot then f i else i).slot = i.slot := by split <;> simp [hf]
    have hpick := pick_map (p := fun i : InFlight => i.slot == d.slot) (fun i => by rw [hslot i]) (s.queue c.q).inflight
    simp only [State.inflight, State.updIn, hq, State.queue_setQueue, hpick, Option.isSome_map]
  · have hne : (d.q : Nat) ≠ c.q := fun h => hq (Fin.ext h)
    rw [State.inflight, State.updIn, State.queue_setQueue_other _ _ hne, State.inflight]

theorem endCmd_aside (c : CmdRef) (st : Status) (result det : Nat) (s : State) : s.Aside (endCmd c st result det s) := by
  unfold endCmd
  split
  · exact .refl s
  · exact (endEffects_sameWork ..).aside.trans (updIn_aside _ _ _ fun _ => rfl)

theorem failCmd_aside (c : CmdRef) (e : Err) (s : State) : s.Aside (failCmd c e s) := endCmd_aside ..

theorem noteTorn_aside (c : CmdRef) (b : Bool) (s : State) : s.Aside (noteTorn c b s) := by
  unfold noteTorn
  split
  · exact updIn_aside _ _ _ fun _ => rfl
  · exact .refl s

theorem noteReads_aside (c : CmdRef) (p : Nat) (rs : List (Addr × Nat)) (s : State) : s.Aside (noteReads c p rs s) := noteTorn_aside ..

theorem noteSat_aside (c : CmdRef) (s : State) : s.Aside (noteSat c s) := updIn_aside _ _ _ fun _ => rfl

theorem chargeCmd_sameWork (c : CmdRef) (p : Nat) (ad : Addr) (n : Nat) (s : State) : s.SameWork (chargeCmd c p ad n s) := by
  obtain ⟨m, hm⟩ := chargeCmd_eq c p ad n s
  rw [hm]
  exact ⟨rfl, rfl⟩

theorem cmdWrite_aside (c : CmdRef) (p : Nat) (ad : Addr) (bs : List Byte) (s : State) : s.Aside (cmdWrite c p ad bs s).1 := by
  unfold cmdWrite
  refine State.Aside.trans ?_ (chargeCmd_sameWork ..).aside
  refine State.Aside.trans ?_ (updIn_aside _ _ _ fun _ => rfl)
  split
  · exact (writeAround_sameWork ..).aside
  · exact (writeFor_sameWork ..).aside

theorem copyOut_aside (c : CmdRef) (p : Nat) (d : CopyAddr) (off : Nat) (bs : List Byte) (at_ : Nat) (s : State) :
    s.Aside (copyOut c p d off bs at_ s).1 := by
  cases d with
  | loft a => exact cmdWrite_aside ..
  | tiered a => exact cmdWrite_aside ..
  | bench n o =>
    unfold copyOut
    dsimp only
    split
    · exact .refl s
    · split
      · exact .refl s
      · exact (writeBench_sameWork ..).aside
  | host a => exact State.SameWork.aside ⟨rfl, rfl⟩
  | bad => exact .refl s

/-! ### Pegs -/

theorem applyUpd_prl (p : Nat) (u : PegUpd) (s : State) : (applyUpd p u s).prl = s.prl := rfl

theorem applyCycle_prl (p : Nat) (us : List PegUpd) (s : State) : (applyCycle p us s).prl = s.prl := by
  unfold applyCycle
  refine List.foldlRecOn us _ (motive := fun t : State => t.prl = s.prl) ?_ fun t ht u _ => ?_
  · split
    · exact applyUpd_prl ..
    · rfl
  · unfold applySet
    split
    · exact ht
    · exact (applyUpd_prl p u t).trans ht

/-- An update of a peg leaves the Purlin. -/
theorem pegUpdate_prl (p : Nat) (k : PegSource) (u : PegUpd) (s : State) : (pegUpdate p k u s).prl = s.prl := by
  have hfresh (t : State) : (freshUpdate p k u t).prl = t.prl := applyCycle_prl ..
  have hjoin (y : PegCycle) (t : State) : (joinUpdate p k u y t).prl = t.prl := applyCycle_prl ..
  unfold pegUpdate
  split
  · exact hfresh s
  · dsimp only
    split
    · exact hfresh s
    · split
      · exact hjoin _ _
      · exact hfresh _

/-! ### Sending and reporting -/

theorem sendOut_sameWork (src : Option (Nat × Nat)) (sh : Option Nat) (f st : Nat) (turn : Option (Nat × Nat)) (t : Nat) (k : Packet) (s : State) :
    s.SameWork (sendOut src sh f st turn t k s) := by
  unfold sendOut
  cases turn <;> cases src <;> exact ⟨rfl, rfl⟩

theorem sendCtrl_sameWork (k : Packet) (s : State) : s.SameWork (sendCtrl k s) := by
  unfold sendCtrl
  split
  · exact ⟨rfl, rfl⟩
  · exact sendOut_sameWork ..
  · exact ⟨rfl, rfl⟩

theorem reportLoss_sameWork (port : Nat) (k : Packet) (s : State) : s.SameWork (reportLoss port k s) := by
  unfold reportLoss
  split
  · exact .refl s
  · dsimp only
    split
    · exact ⟨rfl, rfl⟩
    · exact sendCtrl_sameWork ..

theorem sendNow_sameWork (part : Option Nat) (k : Packet) (s : State) : s.SameWork (sendNow part k s) := by
  unfold sendNow
  split
  · exact ⟨rfl, rfl⟩
  · exact sendOut_sameWork ..
  · exact State.SameWork.trans (t := countDrop _ s) ⟨rfl, rfl⟩ (reportLoss_sameWork ..)

theorem breachRecord_sameWork (p : Nat) (bs : List Byte) (s : State) : s.SameWork (breachRecord p bs s) := by
  unfold breachRecord
  dsimp only
  split
  · exact ⟨rfl, rfl⟩
  · split
    · exact ⟨rfl, rfl⟩
    · exact (write_sameWork s p true _ bs).trans ⟨rfl, rfl⟩

theorem drainBreach_sameWork (p : Nat) (s : State) : s.SameWork (drainBreach p s) := by
  unfold drainBreach
  split
  · exact .refl s
  · exact (breachRecord_sameWork p _ s).trans ⟨rfl, rfl⟩

theorem holdAtSource_sameWork (part port : Option Nat) (k : Packet) (s : State) : s.SameWork (holdAtSource part port k s) := by
  unfold holdAtSource
  cases part with
  | none => exact ⟨rfl, rfl⟩
  | some p =>
    dsimp only
    split
    · exact State.SameWork.trans (t := s.onFab _) ⟨rfl, rfl⟩ (drainBreach_sameWork p _)
    · exact ⟨rfl, rfl⟩

theorem sendPacket_sameWork (part : Option Nat) (k : Packet) (s : State) : s.SameWork (sendPacket part k s) := by
  unfold sendPacket
  split
  · exact holdAtSource_sameWork ..
  · exact sendNow_sameWork ..

theorem sendOnPort_sameWork (part : Option Nat) (f : Nat) (k : Packet) (s : State) : s.SameWork (sendOnPort part f k s) := by
  unfold sendOnPort
  split
  · exact holdAtSource_sameWork ..
  · exact sendOut_sameWork ..

theorem mergeAt_sameWork {level : Nat} {pass : State → State} (hpass : ∀ s : State, s.SameWork (pass s)) (b : BitVec 20) (kind count : Nat) (first : W64)
    (s : State) : s.SameWork (mergeAt level pass b kind count first s) := by
  unfold mergeAt
  split
  · exact ⟨rfl, rfl⟩
  · split
    · exact ⟨rfl, rfl⟩
    · split
      · exact hpass s
      · exact ⟨rfl, rfl⟩

theorem reportUp_sameWork (b : BitVec 20) (kind count : Nat) (first : W64) (s : State) : s.SameWork (reportUp b kind count first s) := by
  unfold reportUp
  split
  · exact .refl s
  · split
    · exact mergeAt_sameWork (fun s => appendEvent_sameWork _ s) ..
    · exact sendCtrl_sameWork ..

/-- Reporting a suspect changes no command and not the Purlin. -/
theorem suspect_sameWork (d kind : Nat) (s : State) : s.SameWork (suspect d kind s) := by
  have hreport (t : State) : t.SameWork (report d kind t) := by
    unfold report
    dsimp only
    split
    · exact .refl t
    · split
      · exact mergeAt_sameWork (fun s => reportUp_sameWork _ _ _ _ s) ..
      · exact sendCtrl_sameWork ..
  unfold suspect
  dsimp only
  split
  · exact .refl s
  · exact State.SameWork.trans (t := s.onFlt _) ⟨rfl, rfl⟩ (hreport _)

/-! ### The Yard -/

theorem updPool_sameWork (i : Nat) (f : Pool → Pool) (s : State) : s.SameWork (updPool i f s) := ⟨rfl, rfl⟩

theorem loseBuffer_sameWork (i : Nat) (b : Option Nat) (s : State) : s.SameWork (loseBuffer i b s) := ⟨rfl, rfl⟩

theorem faultPool_aside (i : Nat) (s : State) : s.Aside (faultPool i s) := by
  unfold faultPool
  split
  · exact .refl s
  · exact (updPool_sameWork ..).aside.trans (.foldl (fun s c => failCmd_aside c _ s) _ _)

theorem metaRead_aside {i : Nat} {x : Pool} {off n : Nat} {s t : State} (h : metaRead i x off n s = .error t) : s.Aside t := by
  unfold metaRead at h
  split at h
  · exact nomatch h
  · obtain rfl := Except.error.inj h
    split
    · exact (appendEvent_sameWork _ _).aside
    · exact faultPool_aside ..

theorem metaWrite_aside (i : Nat) (x : Pool) (off n v : Nat) (s : State) : s.Aside (metaWrite i x off n v s) := by
  have hw := writeFor_sameWork s x.owner true (x.meta_ + off) (toBytes n v)
  unfold metaWrite
  split
  · rename_i heq
    rw [heq] at hw
    exact hw.aside
  · rename_i heq
    rw [heq] at hw
    exact hw.aside.trans (faultPool_aside ..)

theorem refillLoop_aside (i n : Nat) (s : State) : s.Aside (refillLoop i n s) := by
  induction n generalizing s with
  | zero => exact .refl s
  | succ n ih =>
    have hhead : s.Aside (updPool i (fun x => { x with head := x.head + 1 }) s) := (updPool_sameWork ..).aside
    unfold refillLoop
    split
    · exact .refl s
    · split
      · exact .refl s
      · dsimp only
        split
        · refine hhead.trans (State.Aside.trans ?_ (ih _))
          split
          · exact .refl _
          · exact (updPool_sameWork ..).aside
        · rename_i hread
          have hbad := hhead.trans (metaRead_aside hread)
          split
          · exact hbad.trans ((loseBuffer_sameWork ..).aside.trans (ih _))
          · exact hbad

theorem refill_aside (i : Nat) (s : State) : s.Aside (refill i s) := by
  unfold refill
  split
  · split
    · exact refillLoop_aside i 64 s
    · exact .refl s
  · exact .refl s

theorem pushFree_aside (i b : Nat) (s : State) : s.Aside (pushFree i b s) := by
  unfold pushFree
  split
  · exact .refl s
  · split
    · exact .refl s
    · refine State.Aside.trans ?_ (updPool_sameWork ..).aside
      split
      · exact .refl s
      · refine (updPool_sameWork ..).aside.trans (State.Aside.foldl (fun t j => ?_) _ _)
        split
        · exact (metaWrite_aside ..).trans (updPool_sameWork ..).aside
        · exact .refl t

theorem takeOne_aside (i fuel : Nat) (s : State) : s.Aside (takeOne i fuel s).2 := by
  induction fuel generalizing s with
  | zero => exact .refl s
  | succ fuel ih =>
    unfold takeOne
    extract_lets u
    have hu : s.Aside u := by
      unfold u
      split
      · split
        · exact refill_aside i s
        · exact .refl s
      · exact .refl s
    split
    · exact hu
    · split
      · have hcache (f : Pool → Pool) : s.Aside (updPool i f u) := hu.trans (updPool_sameWork i f u).aside
        dsimp only
        split
        · rename_i hread
          have hbad := (hcache _).trans (metaRead_aside hread)
          split
          · exact hbad.trans ((loseBuffer_sameWork ..).aside.trans (ih _))
          · exact hbad
        · split
          · exact (hcache _).trans ((metaWrite_aside ..).trans (refill_aside ..))
          · exact (hcache _).trans (metaWrite_aside ..)
      · exact hu

theorem giveBack_aside (i h : Nat) (s : State) : s.Aside (giveBack i h s) := by
  unfold giveBack
  split
  · exact (metaWrite_aside ..).trans (pushFree_aside ..)
  · exact .refl s

theorem takeAll_aside (i n : Nat) (hs : List Nat) (s : State) : s.Aside (takeAll i n hs s).2 := by
  induction n generalizing hs s with
  | zero => exact .refl s
  | succ n ih =>
    unfold takeAll
    have hone := takeOne_aside i (((s.pool i).map (·.count)).getD 0) s
    split
    · rename_i heq
      rw [heq] at hone
      exact hone.trans (ih _ _)
    · rename_i heq
      rw [heq] at hone
      exact hone.trans (.foldl (fun s h => giveBack_aside i h s) _ _)

theorem finishAlloc_aside (c : CmdRef) (hs : List Nat) (s : State) : s.Aside (finishAlloc c hs s) := by
  unfold finishAlloc
  split
  · exact .refl s
  · rename_i i _
    have hout := copyOut_aside c (s.cmdPart c) (addr378 (op i.pkt 40 8)) 0 (hs.flatMap (toBytes 4)) 40 s
    split
    · rename_i heq
      rw [heq] at hout
      exact hout.trans (failCmd_aside ..)
    · rename_i heq
      rw [heq] at hout
      exact hout.trans (endCmd_aside ..)

theorem servePool_aside (i fuel : Nat) (s : State) : s.Aside (servePool i fuel s) := by
  induction fuel generalizing s with
  | zero => exact .refl s
  | succ fuel ih =>
    unfold servePool
    split
    · exact .refl s
    · split
      · exact .refl s
      · rename_i w _
        split
        · exact .refl s
        · have htake := takeAll_aside i w.n [] s
          split
          · rename_i heq
            rw [heq] at htake
            exact htake
          · rename_i heq
            rw [heq] at htake
            refine htake.trans (State.Aside.trans ?_ (ih _))
            refine (updPool_sameWork i (fun x => { x with waiters := x.waiters.erase w }) _).aside.trans ?_
            dsimp only
            split
            · exact finishAlloc_aside ..
            · exact State.SameWork.aside ⟨rfl, rfl⟩

theorem serve_aside (i : Nat) (s : State) : s.Aside (serve i s) := servePool_aside ..

theorem adjust_aside (retain : Bool) (h δ src : Nat) (s : State) : s.Aside (adjust retain h δ src s).2 := by
  have hlog (kind : Bool) (f : YardState → YardState) : s.Aside (logRefusal kind src h (s.onYrd f)) := State.SameWork.aside ⟨rfl, rfl⟩
  have hfree (i b m : Nat) (t : State) : t.Aside (if m = 0 then serve i (pushFree i b t) else t) := by
    split
    · exact (pushFree_aside ..).trans (serve_aside ..)
    · exact .refl t
  unfold adjust
  dsimp only
  split
  · exact State.SameWork.aside ⟨rfl, rfl⟩
  · split
    · cases retain
      · exact (loseBuffer_sameWork ..).aside
      · exact .refl s
    · split
      · exact hlog _ _
      · split
        · rename_i hread
          exact (metaRead_aside hread).trans (loseBuffer_sameWork ..).aside
        · split
          · exact hlog _ _
          · split
            · exact hlog _ _
            · exact (metaWrite_aside ..).trans (hfree _ _ _ _)

theorem engineRelease_aside (use h : Nat) (s : State) : s.Aside (engineRelease use h s) := adjust_aside ..

theorem drawFrom_aside (is : List Nat) (s : State) : s.Aside (drawFrom is s).2 := by
  induction is generalizing s with
  | nil => exact .refl s
  | cons i r ih =>
    unfold drawFrom
    split
    · split
      · exact ih s
      · have htake := takeAll_aside i 1 [] s
        split
        · rename_i heq
          rw [heq] at htake
          exact htake
        · rename_i heq
          rw [heq] at htake
          exact htake.trans (ih _)
    · exact ih s

theorem engineWait_aside (w : YardWait) (p need : Nat) (s : State) : s.Aside (engineWait w p need s).2 := by
  have hdraw : s.Aside (engineDraw p w.use need s).2 := drawFrom_aside _ s
  unfold engineWait
  split
  · exact State.SameWork.aside ⟨rfl, rfl⟩
  · split
    · exact .refl s
    · split
      · rename_i heq
        rw [heq] at hdraw
        exact hdraw
      · rename_i heq
        rw [heq] at hdraw
        split
        · exact hdraw.trans (State.SameWork.aside ⟨rfl, rfl⟩)
        · exact hdraw

theorem dropDraws_aside (c : CmdRef) (s : State) : s.Aside (dropDraws c s) :=
  State.Aside.trans (t := s.onYrd _) (State.SameWork.aside ⟨rfl, rfl⟩)
    ((State.Aside.foldl (fun s (e : YardWait × Nat) => engineRelease_aside e.1.use e.2 s) _ _).trans (.foldl (fun s i => serve_aside i s) _ _))

end Sys2Proof.Machine
end

section
/-! How the Purlin's work advances (R241 to R253): a collective that is still at work has noted at least what it had noted before, and no refusal is uncounted.
One lemma for each step of that work. -/

namespace Sys2Proof.Machine

/-- Collective y is x later on: what x has received, and which ranks have refused or are done, stays noted; the region lengths that x knows stay as they are. -/
structure Coll.Grows (x y : Coll) : Prop where
  cmd : y.cmd = x.cmd
  got : x.got ⊆ y.got
  refused : x.refused ⊆ y.refused
  doneFrom : x.doneFrom ⊆ y.doneFrom
  totals : y.totals = x.totals

/-- Every collective at work in t is one of s later on, and t has counted the refusals that s has. -/
structure State.Advances (s t : State) : Prop where
  colls : ∀ d y, t.coll d = some y → ∃ x, s.coll d = some x ∧ x.Grows y
  refused : s.prl.refused ≤ t.prl.refused

theorem Coll.Grows.refl (x : Coll) : x.Grows x := ⟨rfl, List.Subset.refl _, List.Subset.refl _, List.Subset.refl _, rfl⟩

theorem Coll.Grows.trans {x y z : Coll} (h : x.Grows y) (h' : y.Grows z) : x.Grows z :=
  ⟨h'.cmd.trans h.cmd, List.Subset.trans h.got h'.got, List.Subset.trans h.refused h'.refused, List.Subset.trans h.doneFrom h'.doneFrom,
    h'.totals.trans h.totals⟩

/-- A change of other fields. -/
theorem Coll.Grows.of_eq {x y : Coll} (h : (y.cmd, y.got, y.refused, y.doneFrom, y.totals) = (x.cmd, x.got, x.refused, x.doneFrom, x.totals)) : x.Grows y := by
  simp only [Prod.mk.injEq] at h
  obtain ⟨hcmd, hgot, hrefused, hdone, htotals⟩ := h
  exact ⟨hcmd, hgot ▸ List.Subset.refl _, hrefused ▸ List.Subset.refl _, hdone ▸ List.Subset.refl _, htotals⟩

theorem State.Advances.refl (s : State) : s.Advances s := ⟨fun _ y hy => ⟨y, hy, .refl y⟩, BitVec.le_refl _⟩

theorem State.Advances.trans {s t u : State} (h : s.Advances t) (h' : t.Advances u) : s.Advances u := by
  refine ⟨fun d z hz => ?_, BitVec.le_trans h.refused h'.refused⟩
  obtain ⟨y, hy, hyz⟩ := h'.colls d z hz
  obtain ⟨x, hx, hxy⟩ := h.colls d y hy
  exact ⟨x, hx, hxy.trans hyz⟩

theorem State.Advances.foldl {α : Type} {f : State → α → State} (hf : ∀ (s : State) x, s.Advances (f s x)) (xs : List α) (s : State) :
    s.Advances (xs.foldl f s) := List.foldlRecOn xs f (.refl s) fun t ht x _ => ht.trans (hf t x)

/-- The same collectives are at work. -/
theorem State.Advances.of_colls {s t : State} (h : t.prl.colls = s.prl.colls) (h' : s.prl.refused ≤ t.prl.refused) : s.Advances t :=
  ⟨fun d y hy => ⟨y, by rwa [State.coll, ← h], .refl y⟩, h'⟩

theorem State.Advances.of_prl {s t : State} (h : t.prl = s.prl) : s.Advances t := .of_colls (by rw [h]) (h ▸ BitVec.le_refl _)

theorem State.Aside.advances {s t : State} (h : s.Aside t) : s.Advances t := .of_prl h.prl

theorem State.SameWork.advances {s t : State} (h : s.SameWork t) : s.Advances t := .of_prl h.prl

/-! ### Changing and removing a collective -/

theorem coll_cmd {s : State} {c : CmdRef} {x : Coll} (h : s.coll c = some x) : x.cmd = c := eq_of_beq (pick_some h).1

theorem coll_updColl {c : CmdRef} {f : Coll → Coll} (hf : ∀ x, (f x).cmd = x.cmd) (s : State) (d : CmdRef) :
    (updColl c f s).coll d = (s.coll d).map fun x => if x.cmd = c then f x else x :=
  pick_map (p := fun x : Coll => x.cmd == d) (fun x => by split <;> simp [hf]) _

/-- The collective of c after it was changed. -/
theorem coll_updColl_self {c : CmdRef} {f : Coll → Coll} {s : State} {x : Coll} (h : s.coll c = some x) (hf : ∀ x, (f x).cmd = x.cmd := by exact fun _ => rfl) :
    (updColl c f s).coll c = some (f x) := by
  rw [coll_updColl hf, h, Option.map_some, if_pos (coll_cmd h)]

theorem updColl_advances {c : CmdRef} {f : Coll → Coll} (hf : ∀ x : Coll, x.Grows (f x)) (s : State) : s.Advances (updColl c f s) := by
  refine ⟨fun d y hy => ?_, BitVec.le_refl _⟩
  rw [coll_updColl fun x => (hf x).cmd] at hy
  obtain ⟨x, hx, rfl⟩ := Option.map_eq_some_iff.1 hy
  refine ⟨x, hx, ?_⟩
  split
  · exact hf x
  · exact .refl x

theorem pick_filter_ne {c d : CmdRef} (h : d ≠ c) (xs : List Coll) : pick (fun x => x.cmd == d) (xs.filter fun x => x.cmd != c) = pick (fun x => x.cmd == d) xs := by
  induction xs with
  | nil => rfl
  | cons x r ih =>
    by_cases hx : x.cmd = c
    · have hd : (x.cmd == d) = false := beq_false_of_ne fun hd => h (hd.symm.trans hx)
      rw [List.filter_cons_of_neg (by simp [hx]), ih, pick, hd]
      rfl
    · rw [List.filter_cons_of_pos (by simp [hx]), pick, pick, ih]

/-- Removing the collective of c leaves the others. -/
theorem coll_of_filter {s t : State} {c : CmdRef} (h : t.prl.colls = s.prl.colls.filter fun x => x.cmd != c) (d : CmdRef) :
    t.coll d = if d = c then none else s.coll d := by
  unfold State.coll
  rw [h]
  split
  · rename_i hd
    rw [hd]
    exact pick_filter_not _ _
  · rename_i hd
    exact pick_filter_ne hd _

theorem advances_of_filter {s t : State} {c : CmdRef} (h : t.prl.colls = s.prl.colls.filter fun x => x.cmd != c) (h' : t.prl.refused = s.prl.refused) :
    s.Advances t := by
  refine ⟨fun d y hy => ?_, h' ▸ BitVec.le_refl _⟩
  rw [coll_of_filter h] at hy
  split at hy
  · exact nomatch hy
  · exact ⟨y, hy, .refl y⟩

/-- A collective that leaves is at work no more, and the rest of the Purlin's collectives stays. -/
theorem leaveColl_advances (c : CmdRef) (keep : Coll → List Relay) (s : State) :
    s.Advances (leaveColl c keep s) ∧ (leaveColl c keep s).coll c = none ∧ ∀ d, ((leaveColl c keep s).inflight d).isSome = (s.inflight d).isSome := by
  unfold leaveColl
  split
  · rename_i hnone
    exact ⟨.refl s, hnone, fun _ => rfl⟩
  · rename_i x _
    extract_lets rs u
    have hcolls : u.prl.colls = s.prl.colls.filter fun y => y.cmd != c := rfl
    have hrest (xs : List (Nat × Nat × Nat)) : u.Aside (dropDraws c (xs.foldl (fun s b => engineRelease b.1 b.2.2 s) u)) :=
      (State.Aside.foldl (fun s b => engineRelease_aside b.1 b.2.2 s) xs u).trans (dropDraws_aside ..)
    refine ⟨(advances_of_filter hcolls rfl).trans (hrest _).advances, ?_, (hrest _).flight⟩
    have hgone : u.coll c = none := by rw [coll_of_filter hcolls, if_pos rfl]
    exact (congrArg (fun r : PrlState => pick (fun x : Coll => x.cmd == c) r.colls) (hrest _).prl).trans hgone

/-- A collective that is dropped is at work no more. -/
theorem dropColl_advances (c : CmdRef) (s : State) :
    s.Advances (dropColl c s) ∧ (dropColl c s).coll c = none ∧ ∀ d, ((dropColl c s).inflight d).isSome = (s.inflight d).isSome := by
  unfold dropColl
  extract_lets u
  have hu : s.Advances u ∧ ∀ d, u.inflight d = s.inflight d := by
    unfold u
    split
    · exact ⟨.refl s, fun _ => rfl⟩
    · exact ⟨.of_colls rfl (BitVec.le_refl _), fun _ => rfl⟩
  obtain ⟨hadv, hgone, hflight⟩ := leaveColl_advances c (fun _ => []) u
  exact ⟨hu.1.trans hadv, hgone, fun d => by rw [hflight, hu.2]⟩

theorem failColl_advances (c : CmdRef) (e : Err) (s : State) : s.Advances (failColl c e s) :=
  (dropColl_advances c s).1.trans (failCmd_aside c e _).advances

/-! ### Messages out -/

theorem sendPost_advances (x : Coll) (st part p : Nat) (s : State) : s.Advances (sendPost x st part p s) := (sendPacket_sameWork ..).advances

theorem sendPrlCtrl_advances (tag : W32) (seq : W16) (kind stage off dest fin : Nat) (last : Bool) (s : State) :
    s.Advances (sendPrlCtrl tag seq kind stage off dest fin last s) := (sendCtrl_sameWork ..).advances

theorem countSent_advances (st n : Nat) (s : State) : s.Advances (countSent st n s) := by
  unfold countSent
  by_cases h : st = stSw
  · simp only [if_pos h]
    exact .of_colls rfl (BitVec.le_refl _)
  · simp only [if_neg h]
    exact .of_colls rfl (BitVec.le_refl _)

theorem transmit_advances (x : Coll) (m : PrlMsg) (bs : List Byte) (s : State) : s.Advances (transmit x m bs s) := by
  unfold transmit
  refine (countSent_advances m.stage bs.length s).trans ?_
  dsimp only
  split
  · split
    · exact (sendOnPort_sameWork ..).advances
    · exact .refl _
  · exact (sendPacket_sameWork ..).advances

theorem noteSatIf_advances (c : CmdRef) (b : Bool) (s : State) : s.Advances (if b then noteSat c s else s) := by
  split
  · exact (noteSat_aside c s).advances
  · exact .refl s

theorem sendAll_advances (c : CmdRef) (ms : List PrlMsg) (s : State) : s.Advances (sendAll c ms s) := by
  induction ms generalizing s with
  | nil => exact .refl s
  | cons m r ih =>
    unfold sendAll
    split
    · exact .refl s
    · split
      · exact ih s
      · split
        · exact failColl_advances ..
        · extract_lets u
          have hu : s.Advances u := (updColl_advances (fun _ => .of_eq (by rfl)) s).trans (noteReads_aside ..).advances
          exact hu.trans ((noteSatIf_advances c _ u).trans ((transmit_advances ..).trans (ih _)))

theorem postAll_advances (c : CmdRef) (s : State) : s.Advances (postAll c s) := by
  unfold postAll
  split
  · exact .refl s
  · split
    · exact .refl s
    · refine .foldl (fun s k => .foldl (fun s p => ?_) _ s) _ s
      split
      · exact .refl s
      · exact (updColl_advances (fun _ => .of_eq (by rfl)) s).trans (sendPost_advances ..)

theorem sendDones_advances (c : CmdRef) (s : State) : s.Advances (sendDones c s) := by
  unfold sendDones
  split
  · exact .refl s
  · refine .foldl (fun s k => .foldl (fun s p => ?_) _ s) _ s
    split
    · exact .refl s
    · exact (updColl_advances (fun _ => .of_eq (by rfl)) s).trans (sendPrlCtrl_advances ..)

theorem le_satAdd {w : Nat} (v : BitVec w) (n : Nat) : v ≤ satAdd v n := by
  have hlt : min (v.toNat + n) (2 ^ w - 1) < 2 ^ w :=
    Nat.lt_of_le_of_lt (Nat.min_le_right ..) (Nat.sub_lt (Nat.two_pow_pos w) Nat.zero_lt_one)
  rw [BitVec.le_def, satAdd, BitVec.toNat_ofNat, Nat.mod_eq_of_lt hlt]
  exact Nat.le_min.2 ⟨Nat.le_add_right .., Nat.le_sub_one_of_lt v.isLt⟩

theorem countRefused_advances (s : State) : s.Advances (countRefused s) := .of_colls rfl (le_satAdd ..)

theorem settleSends_advances (c : CmdRef) (s : State) : s.Advances (settleSends c s) := by
  unfold settleSends
  split
  · exact .refl s
  · split
    · exact .refl s
    · refine .foldl (fun s b => ?_) _ s
      dsimp only
      split
      · exact .refl s
      · split
        · refine State.Advances.trans ?_ (countRefused_advances _)
          refine State.Advances.trans ?_ (sendPrlCtrl_advances ..)
          exact updColl_advances (fun _ => by exact ⟨rfl, List.Subset.refl _, List.subset_append_left .., List.Subset.refl _, rfl⟩) s
        · split
          · exact (updColl_advances (fun _ => .of_eq (by rfl)) s).trans (sendPrlCtrl_advances ..)
          · exact .refl s

/-! ### The destination -/

theorem putDest_advances (c : CmdRef) (a : Addr) (bs : List Byte) (s : State) : s.Advances (putDest c a bs s) := by
  unfold putDest
  split
  · exact .refl s
  · rename_i x _
    have hw := (cmdWrite_aside c x.part a bs s).advances
    split
    · rename_i heq
      rw [heq] at hw
      exact hw
    · rename_i heq
      rw [heq] at hw
      exact hw.trans (failColl_advances ..)

theorem noteWrote_advances (c : CmdRef) (r : Range) (s : State) : s.Advances (noteWrote c r s) := updColl_advances (fun _ => .of_eq (by rfl)) s

theorem landBlock_advances (c : CmdRef) (j : Nat) (el sc : List Byte) (s : State) : s.Advances (landBlock c j el sc s) := by
  unfold landBlock
  split
  · exact .refl s
  · extract_lets u
    have hu : s.Advances u := updColl_advances (fun _ => .of_eq (by rfl)) s
    split
    · exact hu.trans (((putDest_advances ..).trans (putDest_advances ..)).trans (noteWrote_advances ..))
    · exact hu

theorem formResults_advances (c : CmdRef) (js : List Nat) (s : State) : s.Advances (formResults c js s) := by
  induction js generalizing s with
  | nil => exact .refl s
  | cons j r ih =>
    unfold formResults
    split
    · exact .refl s
    · split
      · exact ih s
      · split
        · exact failColl_advances ..
        · extract_lets o u
          have hu : s.Advances u := (noteReads_aside ..).advances
          split
          · exact hu.trans (failColl_advances ..)
          · exact hu.trans ((noteSatIf_advances c _ u).trans ((landBlock_advances ..).trans (ih _)))

theorem addChunks_advances (c : CmdRef) (s : State) : s.Advances (addChunks c s) := by
  unfold addChunks
  split
  · exact .refl s
  · dsimp only
    split
    · exact .refl s
    · exact (updColl_advances (fun _ => .of_eq (by rfl)) s).trans (.of_prl (pegUpdate_prl ..))

theorem settleRegion_advances (c : CmdRef) (i : Nat) (ok : Bool) (n : Nat) (s : State) : s.Advances (settleRegion c i ok n s) := by
  unfold settleRegion
  split
  · exact .refl s
  · rename_i x _
    split
    · exact .refl s
    · extract_lets u a v b w
      have hu : s.Advances u := updColl_advances (fun _ => .of_eq (by rfl)) s
      have hv : s.Advances v := by
        unfold v
        split
        · exact hu.trans (putDest_advances ..)
        · exact hu
      split
      · have hw : s.Advances w := hv.trans (putDest_advances ..)
        split
        · exact hw
        · exact hw.trans <| (updColl_advances (fun _ => .of_eq (by rfl)) _).trans (.of_prl (pegUpdate_prl ..))
      · exact hv

theorem settleRegions_advances (c : CmdRef) (s : State) : s.Advances (settleRegions c s) := by
  unfold settleRegions
  split
  · exact .refl s
  · split
    · exact .refl s
    · refine .foldl (fun s i => ?_) _ s
      split
      · split
        · exact settleRegion_advances ..
        · exact .refl s
      · exact .refl s

/-! ### Progress -/

theorem takeArea_advances (c : CmdRef) (s : State) : s.Advances (takeArea c s) := by
  unfold takeArea
  split
  · exact .refl s
  · rename_i x _
    refine .foldl (fun s n => ?_) _ s
    split
    · exact .refl s
    · have hwait := (engineWait_aside { use := n.1, cmd := c, ix := n.2.1, lc := s.cmdLc c, n := 1 } x.part n.2.2 s).advances
      split
      · rename_i heq
        rw [heq] at hwait
        exact hwait.trans (updColl_advances (fun _ => .of_eq (by rfl)) _)
      · rename_i heq
        rw [heq] at hwait
        exact hwait

theorem resendChunk_advances (c : CmdRef) (k : Nat) (s : State) : s.Advances (resendChunk c k s) := by
  unfold resendChunk
  split
  · exact .refl s
  · split
    · exact .refl s
    · exact (updColl_advances (fun _ => .of_eq (by rfl)) s).trans (.of_colls rfl (BitVec.le_refl _))

theorem goDirect_advances (c : CmdRef) (planes : List Nat) (s : State) : s.Advances (goDirect c planes s) := by
  unfold goDirect
  split
  · exact .refl s
  · exact .foldl (fun s k => resendChunk_advances c k s) _ s

theorem finishColl_advances (c : CmdRef) (s : State) : s.Advances (finishColl c s) := by
  unfold finishColl
  split
  · exact .refl s
  · split
    · exact .refl s
    · extract_lets u v
      have hu : s.Advances u := (leaveColl_advances ..).1
      have hv : s.Advances v := by
        unfold v
        split
        · split
          · exact hu.trans (.of_colls rfl (BitVec.le_refl _))
          · exact hu
        · exact hu
      split
      · exact hv.trans (endCmd_aside ..).advances
      · exact hv.trans (endCmd_aside ..).advances

/-- A collective that goes on forgets nothing that it has noted. -/
theorem pumpColl_advances (c : CmdRef) (s : State) : s.Advances (pumpColl c s) := by
  unfold pumpColl
  extract_lets u v w y z
  have hv : s.Advances v := (takeArea_advances c s).trans (goDirect_advances ..)
  have hw : s.Advances w := by
    unfold w
    split
    · split
      · exact hv.trans (formResults_advances ..)
      · exact hv
    · exact hv
  have hy : s.Advances y := hw.trans (postAll_advances c w)
  have hz : s.Advances z := by
    unfold z
    split
    · split
      · exact hy.trans ((sendAll_advances ..).trans (settleSends_advances ..))
      · exact hy
    · exact hy
  exact hz.trans ((settleRegions_advances c z).trans ((addChunks_advances ..).trans ((sendDones_advances ..).trans (finishColl_advances ..))))

/-! ### Messages in -/

theorem landData_advances (x : Coll) (st peer lo n : Nat) (bs : List Byte) (s : State) : s.Advances (landData x st peer lo n bs s) := by
  unfold landData
  dsimp only
  split
  · exact .foldl (fun s i => landBlock_advances ..) _ s
  · split
    · exact failColl_advances ..
    · exact updColl_advances (fun _ => .of_eq (by rfl)) s

/-- What a message carries is put where it belongs, and nothing that its collective has noted is forgotten. -/
theorem landMsg_advances (x : Coll) (m : PrlMsg) (bs : List Byte) (s : State) : s.Advances (landMsg x m bs s) := by
  unfold landMsg
  split
  · exact updColl_advances (fun _ => .of_eq (by rfl)) s
  · split
    · exact updColl_advances (fun _ => .of_eq (by rfl)) s
    · split
      · exact landData_advances ..
      · dsimp only
        split
        · exact putDest_advances ..
        · exact (putDest_advances ..).trans (noteWrote_advances ..)

end Sys2Proof.Machine
end

section
/-! The statement of chapter 10 on the Purlin's messages and timers (R242, R249 to R253, R311): what each message and timer does, and the statement settled from it. -/

namespace Sys2Proof.Machine

/-! ### A message is taken -/

/-- State u is s but for the fabric, as when a packet has been taken in. -/
structure State.ButFabric (s u : State) : Prop where
  eq : u = { s with fab := u.fab }

section ButFabric

variable {s u : State} (h : s.ButFabric u)

include h

theorem State.ButFabric.prl : u.prl = s.prl := congrArg (·.prl) h.eq

theorem State.ButFabric.clk : u.clk = s.clk := congrArg (·.clk) h.eq

theorem State.ButFabric.selfId : u.selfId = s.selfId := congrArg (·.selfId) h.eq

theorem State.ButFabric.coll (c : CmdRef) : u.coll c = s.coll c := congrArg (·.coll c) h.eq

theorem State.ButFabric.collOf (tag : W32) (seq : W16) : u.collOf tag seq = s.collOf tag seq := congrArg (·.collOf tag seq) h.eq

theorem State.ButFabric.relaysTo (k : Packet) (final : Nat) : u.relaysTo k final = s.relaysTo k final := congrArg (·.relaysTo k final) h.eq

theorem State.ButFabric.sameMemory : s.SameMemory u := ⟨congrArg (·.loft) h.eq, congrArg (·.hbm) h.eq, congrArg (·.bench) h.eq, congrArg (·.flash) h.eq⟩

end ButFabric

/-- Taking a packet in changes the fabric alone. -/
theorem takeIn_butFabric (k : Packet) (s : State) : s.ButFabric (takeIn k s) := by
  unfold takeIn freePacket
  dsimp only
  split
  · split <;> exact ⟨rfl⟩
  · exact ⟨rfl⟩

/-- A collective that is still at work has noted what it had noted before. -/
theorem State.Advances.grows {s t : State} {c : CmdRef} {x y : Coll} (h : s.Advances t) (hx : s.coll c = some x) (hy : t.coll c = some y) : x.Grows y := by
  obtain ⟨z, hz, hzy⟩ := h.colls c y hy
  rwa [Option.some.inj (hx.symm.trans hz)]

section Taken

variable {k : Packet} {s : State}

/-- A COLL message that the Purlin takes acts on the state less the waiting packet. -/
theorem takeColl_of_takes (h : s.Takes 0x20 3 k) {kind : Nat} (hk : mKind k = kind) (act : State → State) :
    takeColl kind k act s = .next (act (takeIn k s)) := by
  obtain ⟨hty, hcls, hform, hturn, hcheck⟩ := h
  obtain ⟨hcrc, hepoch⟩ := hcheck (by decide)
  rw [takeColl, if_pos ⟨hk, hcls⟩, takeData, if_neg (by simp [hty, hcls, hform, hturn])]
  simp only [crcFails, hcrc, if_true, hepoch]

/-- So does a CTRL message. -/
theorem takePrlCtrl_of_takes (h : s.Takes 0x20 0 k) {kind : Nat} (hk : mKind k = kind) (act : State → State) :
    takePrlCtrl kind k act s = .next (act (takeIn k s)) := by
  obtain ⟨hty, hcls, hform, hturn, -⟩ := h
  rw [takePrlCtrl, if_pos hk, takeCtrl, if_pos (by simp [hty, hcls, hform, hturn])]

/-- A message that names no collective is discarded and counted. -/
theorem withColl_of_none (h : s.collOf (mTag k) (mSeq k) = none) (act : Coll → Nat → State → State) : withColl k act s = staleMsg s := by
  simp only [withColl, h]

/-- One that names a collective, from a member or the switch, acts on it. -/
theorem withColl_of_some {x : Coll} {r : Nat} (h : s.collOf (mTag k) (mSeq k) = some x)
    (hr : (if mStage k = stSw then some x.n else x.g.rankOf (mSender k)) = some r) (act : Coll → Nat → State → State) :
    withColl k act s = act x r s := by
  simp only [withColl, h, hr]

/-- A message counted as discarded changes that count alone. -/
theorem staleMsg_counted {u : State} (h : s.ButFabric u) :
    (staleMsg u).prl = { s.prl with staleMsgs := satAdd s.prl.staleMsgs 1 } ∧ s.SameMemory (staleMsg u) := by
  rw [← h.prl]
  exact ⟨rfl, h.sameMemory⟩

/-! ### POST -/

/-- A POST without its collective is held in the early-post table. -/
theorem exec_post_early (h : s.Takes 0x20 3 k) (hk : mKind k = kPost) (hnone : s.collOf (mTag k) (mSeq k) = none) (hroom : s.prl.early.length < 4096)
    (hnew : ∀ e ∈ s.prl.early, e.tag ≠ mTag k ∨ e.seq ≠ mSeq k ∨ e.stage ≠ mStage k ∨ e.src ≠ mSender k ∨ e.off ≠ mOff k) :
    ∃ t, exec (.post k) s = .next t ∧ t.prl = { s.prl with early := s.prl.early ++ [⟨mTag k, mSeq k, mStage k, mSender k, mOff k, k.f 56 4, k.payload⟩] } ∧
      s.SameMemory t := by
  have hfirst : (s.prl.early.any fun y => y.tag == mTag k && y.seq == mSeq k && y.stage == mStage k && y.src == mSender k && y.off == mOff k) = false := by
    refine List.any_eq_false.2 fun e he hsame => ?_
    simp only [Bool.and_eq_true, beq_iff_eq] at hsame
    obtain ⟨⟨⟨⟨htag, hseq⟩, hstage⟩, hsrc⟩, hoff⟩ := hsame
    rcases hnew e he with hne | hne | hne | hne | hne <;> exact hne ‹_›
  have hin := takeIn_butFabric k s
  refine ⟨_, takeColl_of_takes h hk _, ?_⟩
  simp only [hin.collOf, hnone, hin.prl, hfirst, if_pos hroom, Bool.false_eq_true, if_false]
  exact ⟨by rw [State.onPrl_prl, hin.prl], hin.sameMemory⟩

/-! ### Relays -/

theorem endRelay_staged_colls (k : Packet) (s : State) : (endRelay k s).prl.staged = s.prl.staged ∧ (endRelay k s).prl.colls = s.prl.colls := by
  unfold endRelay
  dsimp only
  split
  · exact ⟨rfl, rfl⟩
  · rename_i e _
    split
    · refine List.foldlRecOn e.bufs _ (motive := fun t : State => t.prl.staged = s.prl.staged ∧ t.prl.colls = s.prl.colls) ⟨rfl, rfl⟩ fun t ht b _ => ?_
      rwa [(engineRelease_aside 5 b t).prl]
    · exact ⟨rfl, rfl⟩

/-- A relayed message is kept for a LOSS, with this device as its source and its final destination as its destination. -/
theorem relayMsg_staged_colls (k : Packet) (final : Nat) (s : State) :
    (relayMsg k final s).prl.staged = s.prl.staged ++ [((k.set 3 1 0).set 4 4 final).set 8 4 s.selfId] ∧ (relayMsg k final s).prl.colls = s.prl.colls := by
  unfold relayMsg
  extract_lets same p u
  obtain ⟨hstaged, hcolls⟩ := endRelay_staged_colls k (sendPacket (u.partOfKey k.key) p u)
  rw [hstaged, hcolls, (sendPacket_sameWork _ p u).prl]
  exact ⟨rfl, rfl⟩

theorem eq_or_eq_of_mem {α : Type} {a b e : α} (h : e ∈ [a, b]) : e = a ∨ e = b :=
  (List.mem_cons.1 h).imp id List.mem_singleton.1

/-- DATA and PARTIAL are taken, or relayed. -/
theorem exec_takeOrRelay (h : s.Takes 0x20 3 k) {e : Nat × Instr} (he : e ∈ [(kData, Instr.data k), (kPartial, .partialSums k)]) (hk : mKind k = e.1) :
    exec e.2 s = .next (takeOrRelay e.1 k (takeIn k s)) := by
  have hexec : exec e.2 s = takeColl e.1 k (takeOrRelay e.1 k) s := by
    rcases eq_or_eq_of_mem he with rfl | rfl <;> rfl
  rw [hexec, takeColl_of_takes h hk]

/-- DATA and PARTIAL for another device go on where this device is their relay. -/
theorem exec_relayed (h : s.Takes 0x20 3 k) (hother : k.f 60 4 % 2 ^ 20 ≠ s.selfId) (hrelay : s.relaysTo k (k.f 60 4 % 2 ^ 20) = true)
    {e : Nat × Instr} (he : e ∈ [(kData, Instr.data k), (kPartial, .partialSums k)]) (hk : mKind k = e.1) :
    ∃ t, exec e.2 s = .next t ∧ t.prl.staged = s.prl.staged ++ [((k.set 3 1 0).set 4 4 (k.f 60 4 % 2 ^ 20)).set 8 4 s.selfId] ∧
      t.prl.colls = s.prl.colls := by
  have hin := takeIn_butFabric k s
  refine ⟨_, exec_takeOrRelay h he hk, ?_⟩
  rw [takeOrRelay, if_neg (by rwa [hin.selfId]), if_pos (by rwa [hin.relaysTo]), ← hin.prl, ← hin.selfId]
  exact relayMsg_staged_colls k _ _

/-! ### DATA, PARTIAL, EXP and RESULT -/

/-- A message for this device is taken as its kind says. -/
theorem exec_takeMsg (h : s.Takes 0x20 3 k) {e : Nat × Instr}
    (he : e ∈ [(kData, Instr.data k), (kPartial, .partialSums k), (kExp, .exponents k), (kResult, .result k)]) (hk : mKind k = e.1)
    (hhere : k.f 60 4 % 2 ^ 20 = s.selfId ∨ e.1 = kExp ∨ e.1 = kResult) : exec e.2 s = .next (takeMsg e.1 k (takeIn k s)) := by
  rcases List.mem_append.1 (show e ∈ [(kData, Instr.data k), (kPartial, .partialSums k)] ++ [(kExp, .exponents k), (kResult, .result k)] from he) with he | he
  · have hself : k.f 60 4 % 2 ^ 20 = s.selfId := by
      refine hhere.resolve_right ?_
      rcases eq_or_eq_of_mem he with rfl | rfl <;> exact of_decide_eq_false rfl
    rw [exec_takeOrRelay h he hk, takeOrRelay, if_pos (by rw [hself, (takeIn_butFabric k s).selfId])]
  · have hexec : exec e.2 s = takeColl e.1 k (takeMsg e.1 k) s := by
      rcases eq_or_eq_of_mem he with rfl | rfl <;> rfl
    rw [hexec, takeColl_of_takes h hk]

section Units

variable {kind : Nat} {x : Coll} {r lo n : Nat}

/-- A message that has come already is discarded and counted. -/
theorem takeMsg_of_got (hx : s.collOf (mTag k) (mSeq k) = some x) (hr : (if mStage k = stSw then some x.n else x.g.rankOf (mSender k)) = some r)
    (hunits : unitsOf x k kind r = some (lo, n)) (hgot : x.got.contains ⟨mStage k, r, kind, lo, n⟩ = true) : takeMsg kind k s = staleMsg s := by
  rw [takeMsg, withColl_of_some hx hr]
  simp only [hunits, hgot, if_true]

/-- One that is due is noted before its payload lands, and the collective goes on. -/
theorem takeMsg_of_due (hx : s.collOf (mTag k) (mSeq k) = some x) (hr : (if mStage k = stSw then some x.n else x.g.rankOf (mSender k)) = some r)
    (hunits : unitsOf x k kind r = some (lo, n)) (hdue : x.due ⟨mStage k, r, kind, lo, n⟩ = true) (hcoll : s.coll x.cmd = some x) :
    ∃ u y, takeMsg kind k s = pumpColl x.cmd (landMsg x ⟨mStage k, r, kind, lo, n⟩ k.payload u) ∧ u.coll x.cmd = some y ∧
      (⟨mStage k, r, kind, lo, n⟩ : PrlMsg) ∈ y.got := by
  have hgot : x.got.contains ⟨mStage k, r, kind, lo, n⟩ = false := by
    rw [Coll.due, Bool.and_eq_true] at hdue
    simpa using hdue.1
  have hnoted : (noteGot x.cmd ⟨mStage k, r, kind, lo, n⟩ s).coll x.cmd = some { x with got := x.got ++ [⟨mStage k, r, kind, lo, n⟩] } :=
    coll_updColl_self hcoll
  have hmem : (⟨mStage k, r, kind, lo, n⟩ : PrlMsg) ∈ x.got ++ [⟨mStage k, r, kind, lo, n⟩] := List.mem_append_right _ (List.mem_singleton_self _)
  rw [takeMsg, withColl_of_some hx hr]
  simp only [hunits, hgot, hdue, Bool.not_true, Bool.false_eq_true, if_false]
  by_cases hlast : (x.isV && mLast k) = true
  · rw [if_pos hlast]
    exact ⟨_, _, rfl, coll_updColl_self hnoted, hmem⟩
  · rw [if_neg hlast]
    exact ⟨_, _, rfl, hnoted, hmem⟩

/-- A message that is due is noted as received, and stays noted while its collective is at work. -/
theorem exec_due_noted (h : s.Takes 0x20 3 k) {e : Nat × Instr}
    (he : e ∈ [(kData, Instr.data k), (kPartial, .partialSums k), (kExp, .exponents k), (kResult, .result k)]) (hk : mKind k = e.1)
    (hhere : k.f 60 4 % 2 ^ 20 = s.selfId ∨ e.1 = kExp ∨ e.1 = kResult) (hx : s.collOf (mTag k) (mSeq k) = some x)
    (hr : (if mStage k = stSw then some x.n else x.g.rankOf (mSender k)) = some r) (hunits : unitsOf x k e.1 r = some (lo, n))
    (hdue : x.due ⟨mStage k, r, e.1, lo, n⟩ = true) (hcoll : s.coll x.cmd = some x) :
    ∃ t, exec e.2 s = .next t ∧ ∀ y, t.coll x.cmd = some y → (⟨mStage k, r, e.1, lo, n⟩ : PrlMsg) ∈ y.got := by
  have hin := takeIn_butFabric k s
  obtain ⟨u, z, htake, hz, hmem⟩ := takeMsg_of_due ((hin.collOf ..).trans hx) hr hunits hdue ((hin.coll _).trans hcoll)
  refine ⟨_, exec_takeMsg h he hk hhere, fun y hy => ?_⟩
  rw [htake] at hy
  exact (((landMsg_advances ..).trans (pumpColl_advances ..)).grows hz hy).got hmem

end Units

/-! ### REFUSE, RETRY and DONE -/

section Ctrl

variable {x : Coll} {r : Nat} (h : s.Takes 0x20 0 k) (hx : s.collOf (mTag k) (mSeq k) = some x) (hcoll : s.coll x.cmd = some x)
  (hr : (if mStage k = stSw then some x.n else x.g.rankOf (mSender k)) = some r)

include h hx hcoll hr

/-- REFUSE: the pair is counted and its rank noted. -/
theorem exec_refuse_notes (hk : mKind k = kRefuse) (hv : x.isV = true) (hregion : x.regions.contains r = false) :
    ∃ t, exec (.refuse k) s = .next t ∧ satAdd s.prl.refused 1 ≤ t.prl.refused ∧ ∀ y, t.coll x.cmd = some y → r ∈ y.refused := by
  have hin := takeIn_butFabric k s
  have hcoll' := (hin.coll _).trans hcoll
  refine ⟨_, takePrlCtrl_of_takes h hk _, ?_⟩
  rw [withColl_of_some ((hin.collOf ..).trans hx) hr, if_neg (by rw [hv, hregion]; decide), ← hin.prl]
  generalize takeIn k s = u at hcoll'
  extract_lets v
  have hv : v.coll x.cmd = some { x with refused := x.refused ++ [r] } := coll_updColl_self hcoll'
  have hadv : v.Advances (pumpColl x.cmd (settleRegion x.cmd r false 0 v)) := (settleRegion_advances ..).trans (pumpColl_advances ..)
  exact ⟨hadv.refused, fun y hy => (hadv.grows hv hy).refused (List.mem_append_right _ (List.mem_singleton_self r))⟩

/-- RETRY: the POST is to be sent again after its interval. -/
theorem exec_retry_notes (hk : mKind k = kRetry) (hposted : x.posted.contains (mStage k, x.partAt (mStage k) (mOff k), r) = true) :
    ∃ t, exec (.retry k) s = .next t ∧ s.SameMemory t ∧
      t.coll x.cmd = some { x with retry := x.retry ++ [(mStage k, x.partAt (mStage k) (mOff k), r, s.clk + k.f 60 4 * 1000)] } := by
  have hin := takeIn_butFabric k s
  refine ⟨_, takePrlCtrl_of_takes h hk _, ?_⟩
  rw [withColl_of_some ((hin.collOf ..).trans hx) hr]
  simp only [hposted, Bool.not_true, Bool.false_eq_true, if_false, hin.clk]
  exact ⟨hin.sameMemory, coll_updColl_self ((hin.coll _).trans hcoll)⟩

/-- DONE: the stage is noted as answered. -/
theorem exec_done_notes (hk : mKind k = kDone) (hlast : mLast k = false)
    (hnew : x.doneFrom.contains (mStage k, x.partAt (mStage k) (mOff k), r) = false) :
    ∃ t, exec (.done k) s = .next t ∧ ∀ y, t.coll x.cmd = some y → (mStage k, x.partAt (mStage k) (mOff k), r) ∈ y.doneFrom := by
  have hin := takeIn_butFabric k s
  refine ⟨_, takePrlCtrl_of_takes h hk _, fun y hy => ?_⟩
  rw [withColl_of_some ((hin.collOf ..).trans hx) hr] at hy
  simp only [hlast, hnew, Bool.false_eq_true, if_false] at hy
  exact ((pumpColl_advances ..).grows (coll_updColl_self ((hin.coll _).trans hcoll)) hy).doneFrom (List.mem_append_right _ (List.mem_singleton_self _))

/-- DONE with last set: an unequal all-to-all has nothing from its sender. -/
theorem exec_done_last_notes (hk : mKind k = kDone) (hlast : mLast k = true) (hv : x.isV = true) :
    ∃ t, exec (.done k) s = .next t ∧ ∀ y, t.coll x.cmd = some y → find? y.totals r = some 0 := by
  have hin := takeIn_butFabric k s
  refine ⟨_, takePrlCtrl_of_takes h hk _, fun y hy => ?_⟩
  rw [withColl_of_some ((hin.collOf ..).trans hx) hr] at hy
  simp only [hlast, hv, if_true] at hy
  rw [((pumpColl_advances ..).grows (coll_updColl_self ((hin.coll _).trans hcoll)) hy).totals]
  exact find?_put_self ..

end Ctrl

end Taken

/-! ### Timers -/

section Timers

variable {c : CmdRef} {s : State} {x : Coll}

theorem State.coll_congr {t : State} (h : t.prl = s.prl) (d : CmdRef) : t.coll d = s.coll d := by rw [State.coll, State.coll, h]

/-- Sending POSTs again changes no command and not the Purlin. -/
theorem sendPosts_sameWork (x : Coll) (es : List (Nat × Nat × Nat × Nat)) (s : State) :
    s.SameWork (es.foldl (fun s e => sendPost x e.1 e.2.1 e.2.2.1 s) s) :=
  List.foldlRecOn es _ (motive := fun t => s.SameWork t) (.refl s) fun _ ht _ _ => ht.trans (sendPacket_sameWork ..)

/-- When a retry interval has passed its entry is gone; where none has, nothing is sent. -/
theorem exec_postRetryInterval (hx : s.coll c = some x) :
    ∃ t, exec (.postRetryInterval c) s = .next t ∧ t.coll c = some { x with retry := x.retry.filter fun e => decide (s.clk < e.2.2.2) } ∧
      ((∀ e ∈ x.retry, s.clk < e.2.2.2) → s.SameMemory t ∧ t.fab = s.fab) := by
  have hexec : exec (.postRetryInterval c) s = execPostRetryInterval c s := rfl
  have hrest (f : Coll → Coll) : s.SameMemory (updColl c f s) ∧ (updColl c f s).fab = s.fab := ⟨⟨rfl, rfl, rfl, rfl⟩, rfl⟩
  rw [hexec, execPostRetryInterval]
  simp only [hx]
  refine ⟨_, rfl, (State.coll_congr (sendPosts_sameWork ..).prl c).trans (coll_updColl_self hx), fun hlater => ?_⟩
  have hnone : x.retry.filter (fun e => decide (e.2.2.2 ≤ s.clk)) = [] := List.filter_eq_nil_iff.2 fun e he => by simpa using hlater e he
  rw [hnone]
  exact hrest _

/-- Making the destination of a collective undefined changes no command and not the Purlin. -/
theorem undefineDest_sameWork (x : Coll) (s : State) : s.SameWork (undefineDest x s) := by
  unfold undefineDest
  dsimp only
  split
  · exact List.foldlRecOn _ _ (motive := fun t => s.SameWork t) (.refl s) fun t ht i _ => ht.trans (undefine_sameWork ..)
  · split
    · exact (undefine_sameWork ..).trans (undefine_sameWork ..)
    · exact undefine_sameWork ..

/-- A collective that ends early has its status, and is no longer at work. -/
theorem abortColl_ended (hx : s.coll c = some x) (hc : (s.inflight c).isSome = true) (e : Err) :
    (abortColl c e s).Ended c e.st 0 e.det ∧ (abortColl c e s).coll c = none := by
  obtain ⟨-, hgone, hflight⟩ := dropColl_advances c s
  have hdest : (dropColl c s).SameWork (undefineDest x (withdrawColl x (dropColl c s))) :=
    State.SameWork.trans (t := withdrawColl x (dropColl c s)) ⟨rfl, rfl⟩ (undefineDest_sameWork x _)
  have hsome : ((undefineDest x (withdrawColl x (dropColl c s))).inflight c).isSome = true := by rw [hdest.aside.flight, hflight, hc]
  obtain ⟨i, hi⟩ := Option.isSome_iff_exists.1 hsome
  simp only [abortColl, hx]
  exact ⟨endCmd_ended hi e.st 0 e.det, (State.coll_congr ((failCmd_aside c e _).prl.trans hdest.prl) c).trans hgone⟩

/-- Before a collective's time is up, and without a timeout, nothing happens. -/
theorem exec_collectiveTimeout_early {i : InFlight} (hx : s.coll c = some x) (hi : s.inflight c = some i)
    (h : x.f 20 2 = 0 ∨ s.clk - i.since < x.f 20 2 * 1000) : exec (.collectiveTimeout c) s = .next s := by
  have hexec : exec (.collectiveTimeout c) s = execCollectiveTimeout c s := rfl
  rw [hexec, execCollectiveTimeout]
  simp only [hx, hi, if_pos h]

/-- A collective whose time is up ends TIMEOUT. -/
theorem exec_collectiveTimeout_ends {i : InFlight} (hx : s.coll c = some x) (hi : s.inflight c = some i) (h : x.f 20 2 ≠ 0)
    (hlate : x.f 20 2 * 1000 ≤ s.clk - i.since) : ∃ t, exec (.collectiveTimeout c) s = .next t ∧ t.Ended c .timeout 0 0 ∧ t.coll c = none := by
  have hexec : exec (.collectiveTimeout c) s = execCollectiveTimeout c s := rfl
  obtain ⟨hended, hgone⟩ := abortColl_ended hx (Option.isSome_iff_exists.2 ⟨i, hi⟩) ⟨.timeout, 0⟩
  have hnot : ¬(x.f 20 2 = 0 ∨ s.clk - i.since < x.f 20 2 * 1000) := not_or.2 ⟨h, Nat.not_lt.2 hlate⟩
  have hsame : (abortColl c ⟨.timeout, 0⟩ s).SameWork (x.waitsOn.foldl (fun s p => suspect (x.g.dev p) 2 s) (abortColl c ⟨.timeout, 0⟩ s)) :=
    List.foldlRecOn _ _ (motive := fun t => (abortColl c ⟨.timeout, 0⟩ s).SameWork t) (.refl _) fun t ht p _ => ht.trans (suspect_sameWork ..)
  rw [hexec, execCollectiveTimeout]
  simp only [hx, hi, if_neg hnot]
  refine ⟨_, rfl, ?_, (State.coll_congr hsame.prl c).trans hgone⟩
  rwa [State.Ended, State.inflight_congr hsame.cmd]

end Timers

/-! ### The statement settled -/

/-- Settles O27, from what each message and each timer of the Purlin does. -/
theorem purlinMessagesAndTimers : Obligations.PurlinMessagesAndTimers := by
  unfold Obligations.PurlinMessagesAndTimers
  refine ⟨⟨fun k s h => ⟨fun hk => exec_post_early h hk, fun hother hrelay e he hk => exec_relayed h hother hrelay he hk,
      fun e he hk hhere => ⟨fun hnone => ⟨_, exec_takeMsg h he hk hhere, ?_⟩, fun x r lo n hx hr hunits hgot => ⟨_, exec_takeMsg h he hk hhere, ?_⟩,
        fun x r lo n hx hr hunits hdue hcoll => exec_due_noted h he hk hhere hx hr hunits hdue hcoll⟩⟩,
    fun k s x r h hx hcoll hr => ⟨fun hk => exec_refuse_notes h hx hcoll hr hk, fun hk => exec_retry_notes h hx hcoll hr hk,
      fun hk => exec_done_notes h hx hcoll hr hk, fun hk => exec_done_last_notes h hx hcoll hr hk⟩⟩,
    fun c s x hx => ⟨exec_postRetryInterval hx, fun i hi => ⟨exec_collectiveTimeout_early hx hi, exec_collectiveTimeout_ends hx hi⟩⟩⟩
  all_goals have hin := takeIn_butFabric k s
  · rw [takeMsg, withColl_of_none ((hin.collOf ..).trans hnone)]
    exact staleMsg_counted hin
  · rw [takeMsg_of_got ((hin.collOf ..).trans hx) hr hunits hgot]
    exact staleMsg_counted hin

end Sys2Proof.Machine
end
